-- ==== Sys2Proof/Word.lean ====
section
/-! DEFINITION. The word types of the SX-7420 (R4, R126): what the manual treats as bits. -/

namespace Sys2Proof

/-- A 64-bit register (R126). -/
abbrev Word := BitVec 64

/-- One byte of memory (R4). -/
abbrev Byte := BitVec 8

/-- One 32-bit code word (R92). -/
abbrev Code := BitVec 32

/-- One bit per lane of a group of 32 threads (R30). -/
abbrev LaneMask := BitVec 32

/-- A 48-bit virtual, intermediate or device-physical address (R332). -/
abbrev Addr48 := BitVec 48

end Sys2Proof
end

