-- ==== Sys2Proof/Machine/Flags.lean ====
section
/-! DEFINITION. Elements of packed registers, saturation and integer element arithmetic (R154, R158–R170). The device has no
flag register: comparisons write predicates, and saturation is a property of the result. -/

namespace Sys2Proof.Machine

open Sys2Proof

/-- Element `e` of width `w` (R154). -/
def el (v : Word) (w e : Nat) : Nat := v.toNat / 2 ^ (w * e) % 2 ^ w

/-- A word from its elements of width `w`. -/
def ofEls (w : Nat) (f : Nat → Nat) : Word :=
  BitVec.ofNat 64 ((List.range (64 / w)).foldr (fun e acc => f e % 2 ^ w + 2 ^ w * acc) 0)

/-- A `w`-bit value as two's complement when `sg`, else as natural (R154). -/
def val (sg : Bool) (w v : Nat) : Int := if sg ∧ 2 ^ (w - 1) ≤ v then (v : Int) - 2 ^ w else v

/-- An integer modulo 2^w. -/
def wrap (w : Nat) (v : Int) : Nat := (v % (2 : Int) ^ w).toNat

/-- A value held within bounds. -/
def clamp (v lo hi : Int) : Int := if v < lo then lo else if hi < v then hi else v

/-- Fit of R154: clamped under SAT, else taken modulo 2^w. -/
def fit (w : Nat) (sat sg : Bool) (v : Int) : Nat :=
  wrap w (if sat then (if sg then clamp v (-(2 ^ (w - 1))) (2 ^ (w - 1) - 1) else clamp v 0 (2 ^ w - 1)) else v)

/-- An operation on the elements of two words, read as signed or natural. -/
def map2 (w : Nat) (sg : Bool) (f : Int → Int → Nat) (a b : Word) : Word :=
  ofEls w fun e => f (val sg w (el a w e)) (val sg w (el b w e))

/-- An operation on the elements of three words. -/
def map3 (w : Nat) (sg : Bool) (f : Int → Int → Int → Nat) (d a b : Word) : Word :=
  ofEls w fun e => f (val sg w (el d w e)) (val sg w (el a w e)) (val sg w (el b w e))

/-- SHL of an element (R160). -/
def shlEl (w a count : Nat) : Nat := if w ≤ count then 0 else a * 2 ^ count % 2 ^ w

/-- SHR of an element, natural or signed (R160). -/
def shrEl (w : Nat) (sg : Bool) (a count : Nat) : Nat :=
  if sg then wrap w (val true w a / (2 : Int) ^ min count (w - 1))
  else if w ≤ count then 0 else a / 2 ^ count

/-- ROT of an element to the left (R160). -/
def rotEl (w a count : Nat) : Nat :=
  let k := count % w
  (a * 2 ^ k + a / 2 ^ (w - k)) % 2 ^ w

/-- The kinds of SHFI and USHF (R169, R172). -/
def shiftKind (k : BitVec 2) (a count : Nat) : Nat :=
  if k = 0 then shlEl 64 a count else if k = 1 then shrEl 64 false a count
  else if k = 2 then shrEl 64 true a count else rotEl 64 a count

/-- Conditions of CMP and UCMP (R161). -/
def cond (c : BitVec 2) (a b : Int) : Bool :=
  if c = 0 then decide (a = b) else if c = 1 then decide (a ≠ b) else if c = 2 then decide (a < b) else decide (a ≤ b)

/-- Whether a condition holds for every element (R161). -/
def condAll (w : Nat) (sg : Bool) (c : BitVec 2) (a b : Word) : Bool :=
  (List.range (64 / w)).all fun e => cond c (val sg w (el a w e)) (val sg w (el b w e))

/-- The number of 1 bits among the low `n` (R163). -/
def onesOf (v : Nat) : Nat → Nat
  | 0 => 0
  | n + 1 => v % 2 + onesOf (v / 2) n

/-- Bits needed for a number below 2^n. -/
def widthOf (v : Nat) : Nat → Nat
  | 0 => 0
  | n + 1 => if 2 ^ n ≤ v then n + 1 else widthOf v n

/-- BFX (R164). -/
def bfx (sg : Bool) (a ctl : Word) : Word :=
  let pos := ctl.toNat % 64
  let len := min (ctl.toNat / 256 % 128) 64
  let f := a.toNat / 2 ^ pos % 2 ^ len
  BitVec.ofInt 64 (if sg ∧ 1 ≤ len ∧ 2 ^ (len - 1) ≤ f then (f : Int) - 2 ^ len else f)

/-- BFI: bits [hi−1:pos] of the old destination replaced (R164). -/
def bfi (d a ctl : Word) : Word :=
  let pos := ctl.toNat % 64
  let len := min (ctl.toNat / 256 % 128) 64
  let k := min (pos + len) 64 - pos
  BitVec.ofNat 64 (d.toNat % 2 ^ pos + a.toNat % 2 ^ k * 2 ^ pos + d.toNat / 2 ^ (pos + k) * 2 ^ (pos + k))

/-- DOT4 of one 32-bit element (R165). -/
def dot4El (sat sg mix : Bool) (d a b : Word) (e : Nat) : Nat :=
  let s := (List.range 4).foldl (fun s j => s + val sg 8 (el a 8 (4 * e + j)) * val (Bool.xor sg mix) 8 (el b 8 (4 * e + j))) (0 : Int)
  fit 32 sat (sg || mix) (val (sg || mix) 32 (el d 32 e) + s)

/-- MULW: the widened products of one half of the elements (R166). -/
def mulw (w : Nat) (hi sg : Bool) (a b : Word) : Word :=
  let m := 64 / w / 2
  ofEls (2 * w) fun e =>
    let k := (if hi then m else 0) + e
    wrap (2 * w) (val sg w (el a w k) * val sg w (el b w k))

/-- Replace halfword `h` (R170, R174). -/
def putHalf (d : Word) (h : BitVec 2) (i : BitVec 16) : Word :=
  ofEls 16 fun e => if e = h.toNat then i.toNat else el d 16 e

end Sys2Proof.Machine
end

