-- ==== Sys2Proof/Machine/Formats.lean ====
section
/-! DEFINITION. Number formats and rounding (R134–R150): exact values of encodings, exact sums and products, one rounding to a
format, flushing, conversions. -/

namespace Sys2Proof.Machine

open Sys2Proof

/-- How a format encodes NaN (R136). -/
inductive NanKind where
  | ieee
  | single
  | none
  deriving DecidableEq, Repr

/-- A floating-point format: width, exponent and mantissa bits, bias, NaN and infinity, saturation of finite overflow,
flushing, and the zero bits below it in its container (R136, R138, R146–R148). -/
structure Fmt where
  w : Nat
  m : Nat
  bias : Nat
  nanKind : NanKind
  inf : Bool
  /-- The largest code of a finite magnitude. -/
  maxCode : Nat
  sat : Bool := false
  flush : Bool := false
  pad : Nat := 0
  deriving DecidableEq, Repr

def f64 : Fmt := { w := 64, m := 52, bias := 1023, nanKind := .ieee, inf := true, maxCode := 0x7FEFFFFFFFFFFFFF, flush := true }
def f32 : Fmt := { w := 32, m := 23, bias := 127, nanKind := .ieee, inf := true, maxCode := 0x7F7FFFFF, flush := true }
def e8m10 : Fmt := { w := 19, m := 10, bias := 127, nanKind := .ieee, inf := true, maxCode := 0x3FBFF, pad := 13 }
def f16 : Fmt := { w := 16, m := 10, bias := 15, nanKind := .ieee, inf := true, maxCode := 0x7BFF, flush := true }
def bf16 : Fmt := { w := 16, m := 7, bias := 127, nanKind := .ieee, inf := true, maxCode := 0x7F7F, flush := true }
def e5m2 : Fmt := { w := 8, m := 2, bias := 15, nanKind := .ieee, inf := true, maxCode := 0x7B, sat := true }
def e4m3 : Fmt := { w := 8, m := 3, bias := 7, nanKind := .single, inf := false, maxCode := 0x7E, sat := true }
def e3m4 : Fmt := { w := 8, m := 4, bias := 3, nanKind := .single, inf := false, maxCode := 0x7E, sat := true }
def e3m2 : Fmt := { w := 6, m := 2, bias := 3, nanKind := .none, inf := false, maxCode := 0x1F, sat := true }
def e2m3 : Fmt := { w := 6, m := 3, bias := 1, nanKind := .none, inf := false, maxCode := 0x1F, sat := true }
def e2m1 : Fmt := { w := 4, m := 1, bias := 1, nanKind := .none, inf := false, maxCode := 0x7, sat := true }

/-- Exact values: (−1)^s × m × 2^e, infinities, NaN. A zero keeps its sign. -/
inductive FV where
  | nan
  | inf (s : Bool)
  | num (s : Bool) (m : Nat) (e : Int)
  deriving DecidableEq, Repr

/-- The code of infinity: exponent all ones, mantissa zero (R136). -/
def Fmt.infCode (f : Fmt) : Nat := 2 ^ (f.w - 1) - 2 ^ f.m

/-- The value of bits (R135, R136). -/
def Fmt.decode (f : Fmt) (v : Nat) : FV :=
  let v := v / 2 ^ f.pad
  let s := v / 2 ^ (f.w - 1) % 2 = 1
  let c := v % 2 ^ (f.w - 1)
  if c ≤ f.maxCode then
    let ef := c / 2 ^ f.m
    let mf := c % 2 ^ f.m
    if ef = 0 then .num s mf (1 - (f.bias : Int) - f.m)
    else .num s (2 ^ f.m + mf) ((ef : Int) - f.bias - f.m)
  else if f.inf ∧ c = f.infCode then .inf s
  else .nan

/-- Bits of a sign and a magnitude code. -/
def Fmt.bits (f : Fmt) (s : Bool) (c : Nat) : Nat := ((if s then 2 ^ (f.w - 1) else 0) + c) * 2 ^ f.pad

/-- The canonical NaN (R137); +0 where a format has none (R148). -/
def Fmt.canon (f : Fmt) : Nat :=
  match f.nanKind with
  | .ieee => (f.infCode + 2 ^ (f.m - 1)) * 2 ^ f.pad
  | .single => f.maxCode + 1
  | .none => 0

/-- Rounding: the mode and the random number of the stochastic one (R144, R145). -/
inductive Rm where
  | rne
  | rtz
  | up
  | down
  | sr (rnd : Nat)
  deriving DecidableEq, Repr

/-- Bits of a positive number. -/
def bitLen (n : Nat) : Nat := if n = 0 then 0 else Nat.log2 n + 1

/-- The magnitude m × 2^e in units of 2^q, rounded. The shift is cut where no more bits can count. -/
def roundAt (r : Rm) (s : Bool) (m : Nat) (e q : Int) : Nat :=
  if q ≤ e then m * 2 ^ (e - q).toNat
  else
    let k := min (q - e).toNat (bitLen m + 40)
    let lo := m / 2 ^ k
    let rem := m % 2 ^ k
    let incr : Bool := match r with
      | .rne => decide (2 ^ k < 2 * rem) || (decide (2 * rem = 2 ^ k) && decide (lo % 2 = 1))
      | .rtz => false
      | .up => decide (rem ≠ 0) && !s
      | .down => decide (rem ≠ 0) && s
      | .sr rnd => decide (2 ^ 32 ≤ rem * 2 ^ 32 / 2 ^ k + rnd)
    if incr then lo + 1 else lo

/-- The result of a finite value past the largest (R144, R147, R148). -/
def Fmt.past (f : Fmt) (r : Rm) (s : Bool) : Nat :=
  let toMax : Bool := f.sat || !f.inf || (match r with
    | .rne => false
    | .rtz => true
    | .up => s
    | .down => !s
    | .sr _ => false)
  f.bits s (if toMax then f.maxCode else f.infCode)

/-- The exponent of the last place of a magnitude in a format. -/
def Fmt.quantum (f : Fmt) (m : Nat) (e : Int) : Int :=
  max (e + bitLen m - 1 - f.m) (1 - (f.bias : Int) - f.m)

/-- An exact value rounded once to a format (R143, R144, R147, R148). -/
def Fmt.round (f : Fmt) (r : Rm) : FV → Nat
  | .nan => f.canon
  | .inf s => if f.inf then f.bits s f.infCode else f.bits s f.maxCode
  | .num s m e =>
    if m = 0 then f.bits s 0
    else
      let q := f.quantum m e
      if (f.bias : Int) + 2 < e + bitLen m then f.past r s
      else
        let c := (q - (1 - (f.bias : Int) - f.m)).toNat * 2 ^ f.m + roundAt r s m e q
        if f.maxCode < c then f.past r s else f.bits s c

/-- Whether bits are a subnormal of a format. -/
def Fmt.isSub (f : Fmt) (v : Nat) : Bool :=
  let c := v / 2 ^ f.pad % 2 ^ (f.w - 1)
  decide (c ≠ 0) && decide (c < 2 ^ f.m)

/-- A subnormal of the four flushed formats becomes a zero of its sign (R146). -/
def Fmt.flushBits (f : Fmt) (on : Bool) (v : Nat) : Nat :=
  if on ∧ f.flush ∧ f.isSub v then f.bits (v / 2 ^ (f.w - 1) % 2 = 1) 0 else v

/-- Source value under the source flush: Fz of R187. -/
def Fmt.src (f : Fmt) (fzs : Bool) (v : Nat) : FV := f.decode (f.flushBits fzs (v % 2 ^ (f.w + f.pad)))

/-- Rnd of R187: one rounding, then the result flush. -/
def Fmt.rnd (f : Fmt) (fzr : Bool) (r : Rm) (v : FV) : Nat := f.flushBits fzr (f.round r v)

/-! ## Exact operations -/

def FV.neg : FV → FV
  | .nan => .nan
  | .inf s => .inf (!s)
  | .num s m e => .num (!s) m e

def FV.abs : FV → FV
  | .nan => .nan
  | .inf _ => .inf false
  | .num _ m e => .num false m e

def FV.isNan : FV → Bool
  | .nan => true
  | _ => false

def FV.isZero : FV → Bool
  | .num _ 0 _ => true
  | _ => false

/-- The signed integer of a value in units of 2^q, q not above its exponent. -/
def signedAt (s : Bool) (m : Nat) (e q : Int) : Int :=
  let v : Int := ((m * 2 ^ (e - q).toNat : Nat) : Int)
  if s then -v else v

/-- A value from a signed integer in units of 2^q; `zs` is the sign of a zero. -/
def FV.ofInt (v : Int) (q : Int) (zs : Bool) : FV :=
  if v = 0 then .num zs 0 q else .num (decide (v < 0)) v.natAbs q

/-- An exact sum; `zs`: the sign of an exactly zero sum of terms that are not zeros of one sign (R189). -/
def FV.add (zs : Bool) (a b : FV) : FV :=
  match a, b with
  | .nan, _ => .nan
  | _, .nan => .nan
  | .inf s, .inf t => if s = t then .inf s else .nan
  | .inf s, .num _ _ _ => .inf s
  | .num _ _ _, .inf t => .inf t
  | .num s m e, .num t n k =>
    if m = 0 ∧ n = 0 then .num (if s = t then s else zs) 0 e
    else
      let q := min e k
      FV.ofInt (signedAt s m e q + signedAt t n k q) q zs

/-- An exact product. -/
def FV.mul (a b : FV) : FV :=
  match a, b with
  | .nan, _ => .nan
  | _, .nan => .nan
  | .inf s, .inf t => .inf (Bool.xor s t)
  | .inf s, .num t n _ => if n = 0 then .nan else .inf (Bool.xor s t)
  | .num s m _, .inf t => if m = 0 then .nan else .inf (Bool.xor s t)
  | .num s m e, .num t n k => .num (Bool.xor s t) (m * n) (e + k)

/-- a < b for values that are not NaN; −0 equals +0. -/
def FV.lt (a b : FV) : Bool :=
  match a, b with
  | .nan, _ => false
  | _, .nan => false
  | .inf s, .inf t => s && !t
  | .inf s, .num _ _ _ => s
  | .num _ _ _, .inf t => !t
  | .num s m e, .num t n k => decide (signedAt s m e (min e k) < signedAt t n k (min e k))

/-- a = b for values that are not NaN. -/
def FV.eq (a b : FV) : Bool :=
  match a, b with
  | .inf s, .inf t => s = t
  | .num s m e, .num t n k => decide (signedAt s m e (min e k) = signedAt t n k (min e k))
  | _, _ => false

/-- A value rounded to an integral value in the same format's range (R196): integral values stay, a zero keeps the source's
sign. -/
def FV.integral (r : Rm) : FV → FV
  | .num s m e => if 0 ≤ e then .num s m e else .num s (roundAt r s m e 0) 0
  | v => v

/-- A value converted to a `w`-bit integer: rounded, clamped; NaN gives 0 (R148). -/
def FV.toIntBits (r : Rm) (w : Nat) (sg : Bool) : FV → Nat
  | .nan => 0
  | .inf s => fit w true sg (if s then -(2 ^ 70) else 2 ^ 70)
  | .num s m e =>
    let n : Nat := if m = 0 then 0 else if 70 < e then 2 ^ 70 else roundAt r s m e 0
    fit w true sg (if s then -(n : Int) else n)

/-- An integer as a value. -/
def FV.ofInteger (v : Int) : FV := FV.ofInt v 0 false

/-! ## The thread's control of rounding (R144–R146) -/

/-- The generator of the stochastic mode (R145). -/
def mix32 (v0 : Nat) : Nat :=
  let v := Nat.xor v0 (v0 / 2 ^ 16)
  let v := v * 0x85EBCA6B % 2 ^ 32
  let v := Nat.xor v (v / 2 ^ 13)
  let v := v * 0xC2B2AE35 % 2 ^ 32
  Nat.xor v (v / 2 ^ 16)

/-- The random number of an element (R145). -/
def srDraw (fpmode srcnt lane e : Nat) : Nat :=
  mix32 (Nat.xor (Nat.xor (Nat.xor (fpmode / 2 ^ 32) (srcnt * 0x9E3779B9 % 2 ^ 32)) (lane * 256)) e)

/-- The rounding of an element under F[1:0] (R144). -/
def rmOf (r : BitVec 2) (fpmode srcnt lane e : Nat) : Rm :=
  if r = 0 then .rne else if r = 1 then .rtz
  else if r = 2 then
    (if fpmode % 4 = 0 then .rne else if fpmode % 4 = 1 then .rtz else if fpmode % 4 = 2 then .up else .down)
  else .sr (srDraw fpmode srcnt lane e)

/-- FZS and FZR (R146). -/
def fzs (fpmode : Nat) : Bool := fpmode / 4 % 2 = 1
def fzr (fpmode : Nat) : Bool := fpmode / 8 % 2 = 1

/-- Whether a mode gives −0 for an exactly zero sum (R189). -/
def Rm.zeroSign : Rm → Bool
  | .down => true
  | _ => false

/-- The thread format that W and the kind bit name (R187). -/
def fmtOf (w : BitVec 2) (k : Bool) : Fmt :=
  if w = 0 then f64 else if w = 1 then f32
  else if w = 2 then (if k then bf16 else f16) else (if k then e5m2 else e4m3)

/-- The destination formats of FCVT codes 0–10 and of FQST (R197, R200). -/
def convFmt (c : Nat) : Fmt :=
  match c with
  | 0 => f16
  | 1 => bf16
  | 2 => e4m3
  | 3 => e5m2
  | 4 => e3m4
  | 5 => e3m2
  | 6 => e2m3
  | 7 => e2m1
  | 8 => f64
  | 9 => f32
  | _ => e8m10

/-- FMIN and FMAX of two encodings (R190). -/
def fminBits (f : Fmt) (mx : Bool) (fz : Bool) (a b : Nat) : Nat :=
  let va := f.src fz a
  let vb := f.src fz b
  let a := f.flushBits fz a
  let b := f.flushBits fz b
  let neg (v : Nat) : Bool := v / 2 ^ (f.w - 1) % 2 = 1
  if va.isNan && vb.isNan then f.canon
  else if va.isNan then b
  else if vb.isNan then a
  else
    let aLess : Bool := va.lt vb || (va.eq vb && neg a && !neg b)
    if Bool.xor mx aLess then a else b

/-- The class code of a value (R193). -/
def classCode (f : Fmt) (fz : Bool) (v : Nat) : Nat :=
  let b := f.flushBits fz v
  match f.decode b with
  | .nan => 0
  | .inf s => if s then 1 else 8
  | .num s m _ =>
    if m = 0 then (if s then 4 else 5)
    else if f.isSub b then (if s then 3 else 6)
    else if s then 2 else 7

end Sys2Proof.Machine
end

