-- ==== Sys2Proof/Config.lean ====
section
/-! DEFINITION. What one implementation fixes and the manual leaves open, as constants with no body: nothing can be
proved of their values, so a statement holds whatever they are. -/

namespace Sys2Proof

/-- A fresh free value for each number: a result the manual leaves undefined, a choice it leaves open. -/
opaque Config.freeBits : Nat → BitVec 64

/-- The home L2 slice of a line, 0–191 (R11, R19): the manual gives no map. The argument is the line's memory key
divided by 128. -/
opaque Config.homeSlice : Nat → Nat

/-- The bits of an SFU result that its bound does not fix (R204): function, accurate grade, format code, the two flush
bits, and the sources. -/
opaque Config.sfuBits : Nat → Bool → Nat → Bool → Bool → BitVec 64 → BitVec 64 → BitVec 64

/-- The source from which on an accurate EXP2 or LOG2 gives at least a certain encoding (R204, R205): function, format code, the two
flush bits, and the encoding. -/
opaque Config.sfuStep : Nat → Nat → Bool → Bool → BitVec 64 → BitVec 64

/-- SHA-384 (R376, R380, R381), a standard the manual names and does not define. -/
opaque Config.sha384 : List Byte → BitVec 384

/-- Validity of an ECDSA P-384 signature (R381): message hash, X, Y, r, s. -/
opaque Config.ecdsaValid : BitVec 384 → BitVec 384 → BitVec 384 → BitVec 384 → BitVec 384 → Bool

/-- DEVID in the fuses (R376). -/
opaque Config.devid : BitVec 128

/-- DBGKEYHASH in the fuses (R376). -/
opaque Config.dbgKeyHash : BitVec 384

/-- The value an index is extended with when its firmware or configuration is measured (R380); indices 29 and 30 have events that the manual
gives. -/
opaque Config.measured : Nat → List Byte

/-- The harbour firmware that Lighthouse releases at step 2 of R26: where each harbour core begins, the bytes of its image by memory key, and the
four doublewords of the range that its own memory lies in. The manual gives none of them. -/
opaque Config.bootEntry : Nat → Addr48
opaque Config.bootImage : List (Nat × Byte)
opaque Config.bootRange : Nat → BitVec 64

/-- What encryption under the keys of a generation makes of a 64-byte line of the stacks (R311, R323, R378): generation, line, contents. The
manual names AES-256-XTS and does not define it. -/
opaque Config.cipher : Nat → Nat → BitVec 512 → BitVec 512

/-- What decryption makes of a ciphertext that encryption did not give. -/
opaque Config.decipher : Nat → Nat → BitVec 512 → BitVec 512

/-- The integrity tag of a line under the keys of a generation (R311, R323). -/
opaque Config.tag : Nat → Nat → BitVec 512 → BitVec 32

/-- Contents of certificate slots and of signed responses (R379). -/
opaque Config.spdmData : Nat → Nat → BitVec 384

/-- SYNDROME of an error record for a memory error (R404): the manual states no code. The argument is the record's number. -/
opaque Config.syndrome : Nat → BitVec 64

/-- Which 64-byte unit of a fault frame holds a saved record (R266): the manual gives a frame no layout. The argument counts the team's
records. -/
opaque Config.frameSlot : Nat → Nat

/-- The temperature, in degrees, from which the power controller acts for a die (R29): the manual says only that it acts before
the limit. -/
opaque Config.junctionNear : Nat → Nat

/-- This package's system package number (R391). -/
opaque Config.package : Nat

end Sys2Proof
end

