-- ==== Sys2Proof/Syntax.lean ====
section
/-! DEFINITION. The instruction type: one constructor for each row of spec/opcode_table.json, in the table's order,
but for those without arguments, which stand last. A row with bits is a code word; its arguments are the fields of its
encoding, highest first. A row without bits is a step of the device or a deed of a party outside it; its arguments name the
unit or the message concerned, and a command's step concerns the item that the state names. -/

namespace Sys2Proof

/-- What a Longshore packet asks of this package (R82, R391, R392). -/
inductive LinkKind where
  | load
  | store
  | red (op : BitVec 3)
  | amo (op : BitVec 3)
  | cas (cmp : BitVec 64)
  /-- An active message: its image, ROOT, service class and deadline offset. -/
  | message (img : BitVec 512) (root scls dloff : Nat)
  /-- The receiver's report that the team of a message has ended: the sender's number of it, the cause of a kill, and the units
  of weight that come back (R289). -/
  | ended (msg cause units : Nat)
  /-- A negative acknowledgement of a request, by the sender's number (R444, R445). -/
  | nack (op cause : Nat)
  deriving DecidableEq, Repr

/-- A packet that arrives on a Longshore link: the sender's number of it, partition tag, destination function, kind, device-physical
address, size in bytes and data (R24, R391). -/
structure LinkPacket where
  id : Nat
  tag : Nat
  vf : Nat
  kind : LinkKind
  addr : Nat
  size : Nat
  data : BitVec 64
  cls : Nat := 0
  stamp : Nat := 0
  deriving DecidableEq, Repr

/-- A damage that a check code finds in a storage array, as nature makes it (R424–R427). -/
inductive Damage where
  /-- A 64-byte line of the stacks proves uncorrectable (R426). -/
  | line (l : Nat)
  /-- A 64-byte line of the stacks is corrected at a read (R424, R425). -/
  | fixedLine (l : Nat)
  /-- A 64-byte line of the stacks has a tag that does not match (R427). -/
  | tagLine (l : Nat)
  /-- An SRAM or cache of a unit, named by SKIND and SNUM, corrects an error (R424). -/
  | fixed (skind snum : Nat)
  /-- A 128-byte line in the L1 of a core is uncorrectable (R424). -/
  | l1Line (core line : Nat)
  /-- A 128-byte line is uncorrectable in an L2 slice (SKIND 1) or in a memory-side cache (SKIND 2), clean or dirty (R424). -/
  | cacheLine (skind snum line : Nat) (dirty : Bool)
  /-- A 128-byte line of a team's scratchpad window is uncorrectable (R424). -/
  | window (team line : Nat)
  /-- A pinned binding of a pair's record is uncorrectable in the operand buffer or the scale memory (R424). -/
  | tile (pair record i : Nat)
  /-- A group's entry of the wake table is uncorrectable (R424). -/
  | wake (team grp : Nat)
  deriving DecidableEq, Repr

/-- The rows of the opcode table. Register fields are numbers as encoded (R103); `sm` is the switch marker S (R99). -/
inductive Instr where
  /-- CLAUSE_HEADER (R95). A group or lone thread reaches a clause header, is checked for legality and breakpoint, and waits until its WAIT conditions hold before issuing the clause. -/
  | clauseHeader (l : Bool) (y : Bool) (q : BitVec 4) (o : Bool) (t : Bool) (e : Bool) (r : Bool) (m : Bool) (f : Bool) (sm : Bool) (d : Bool) (c : BitVec 3) (n : BitVec 4)
  /-- ADD (R159). Per-element integer addition with optional saturation. -/
  | add (sm : Bool) (d : BitVec 6) (a : BitVec 6) (b : BitVec 6) (u : Bool) (w : BitVec 2) (t : Bool) (g : Bool)
  /-- SUB (R159). Per-element integer subtraction with optional saturation. -/
  | sub (sm : Bool) (d : BitVec 6) (a : BitVec 6) (b : BitVec 6) (u : Bool) (w : BitVec 2) (t : Bool) (g : Bool)
  /-- MULL (R159). Per-element integer multiply giving the low half, with optional saturation. -/
  | mull (sm : Bool) (d : BitVec 6) (a : BitVec 6) (b : BitVec 6) (u : Bool) (w : BitVec 2) (t : Bool) (g : Bool)
  /-- MULH (R159). Per-element integer multiply giving the high half. -/
  | mulh (sm : Bool) (d : BitVec 6) (a : BitVec 6) (b : BitVec 6) (u : Bool) (w : BitVec 2) (g : Bool)
  /-- IMAD (R159). Per-element integer multiply-add into the destination. -/
  | imad (sm : Bool) (d : BitVec 6) (a : BitVec 6) (b : BitVec 6) (u : Bool) (w : BitVec 2) (t : Bool) (g : Bool)
  /-- AND (R159). Bitwise AND of 64-bit values. -/
  | and (sm : Bool) (d : BitVec 6) (a : BitVec 6) (b : BitVec 6) (u : Bool)
  /-- OR (R159). Bitwise OR of 64-bit values. -/
  | or (sm : Bool) (d : BitVec 6) (a : BitVec 6) (b : BitVec 6) (u : Bool)
  /-- XOR (R159). Bitwise XOR of 64-bit values. -/
  | xor (sm : Bool) (d : BitVec 6) (a : BitVec 6) (b : BitVec 6) (u : Bool)
  /-- ANDN (R159). Bitwise AND with the complement of the second source. -/
  | andn (sm : Bool) (d : BitVec 6) (a : BitVec 6) (b : BitVec 6) (u : Bool)
  /-- SHL (R160). Per-element logical left shift. -/
  | shl (sm : Bool) (d : BitVec 6) (a : BitVec 6) (b : BitVec 6) (u : Bool) (w : BitVec 2)
  /-- SHR (R160). Per-element logical or arithmetic right shift. -/
  | shr (sm : Bool) (d : BitVec 6) (a : BitVec 6) (b : BitVec 6) (u : Bool) (w : BitVec 2) (g : Bool)
  /-- ROT (R160). Per-element left rotation. -/
  | rot (sm : Bool) (d : BitVec 6) (a : BitVec 6) (b : BitVec 6) (u : Bool) (w : BitVec 2)
  /-- MIN (R159). Per-element integer minimum. -/
  | min (sm : Bool) (d : BitVec 6) (a : BitVec 6) (b : BitVec 6) (u : Bool) (w : BitVec 2) (g : Bool)
  /-- MAX (R159). Per-element integer maximum. -/
  | max (sm : Bool) (d : BitVec 6) (a : BitVec 6) (b : BitVec 6) (u : Bool) (w : BitVec 2) (g : Bool)
  /-- ABSD (R159). Per-element absolute difference. -/
  | absd (sm : Bool) (d : BitVec 6) (a : BitVec 6) (b : BitVec 6) (u : Bool) (w : BitVec 2) (g : Bool)
  /-- CMP (R161). Compares all elements and writes one predicate per lane. -/
  | cmp (sm : Bool) (p : BitVec 3) (a : BitVec 6) (b : BitVec 6) (u : Bool) (w : BitVec 2) (c : BitVec 2) (g : Bool)
  /-- SEL (R162). Selects between two sources by a predicate. -/
  | sel (sm : Bool) (d : BitVec 6) (a : BitVec 6) (b : BitVec 6) (u : Bool) (k : BitVec 3)
  /-- POPC (R163). Counts one bits per element. -/
  | popc (sm : Bool) (d : BitVec 6) (a : BitVec 6) (w : BitVec 2)
  /-- CLZ (R163). Counts leading zero bits per element. -/
  | clz (sm : Bool) (d : BitVec 6) (a : BitVec 6) (w : BitVec 2)
  /-- BFX (R164). Extracts a bit field, optionally sign-extended. -/
  | bfx (sm : Bool) (d : BitVec 6) (a : BitVec 6) (b : BitVec 6) (u : Bool) (g : Bool)
  /-- BFI (R164). Inserts a bit field into the destination. -/
  | bfi (sm : Bool) (d : BitVec 6) (a : BitVec 6) (b : BitVec 6) (u : Bool)
  /-- DOT4 (R165). Four-way byte dot product accumulated into 32-bit elements. -/
  | dot4 (sm : Bool) (d : BitVec 6) (a : BitVec 6) (b : BitVec 6) (u : Bool) (m : Bool) (t : Bool) (g : Bool)
  /-- MULW (R166). Widening multiply of one half of the source elements. -/
  | mulw (sm : Bool) (d : BitVec 6) (a : BitVec 6) (b : BitVec 6) (u : Bool) (w : BitVec 2) (h : Bool) (g : Bool)
  /-- ADDI (R168). Adds a signed 12-bit immediate. -/
  | addi (sm : Bool) (d : BitVec 6) (a : BitVec 6) (i : BitVec 12)
  /-- ANDI (R168). ANDs with a sign-extended immediate. -/
  | andi (sm : Bool) (d : BitVec 6) (a : BitVec 6) (i : BitVec 12)
  /-- ORI (R168). ORs with a sign-extended immediate. -/
  | ori (sm : Bool) (d : BitVec 6) (a : BitVec 6) (i : BitVec 12)
  /-- XORI (R168). XORs with a sign-extended immediate. -/
  | xori (sm : Bool) (d : BitVec 6) (a : BitVec 6) (i : BitVec 12)
  /-- SHFI (R169). Shifts or rotates the 64-bit register by an immediate count. -/
  | shfi (sm : Bool) (d : BitVec 6) (a : BitVec 6) (k : BitVec 2) (n : BitVec 6)
  /-- MOVI (R170). Writes a sign-extended 18-bit immediate. -/
  | movi (sm : Bool) (d : BitVec 6) (i : BitVec 18)
  /-- MOVH (R170). Writes a 16-bit immediate into one halfword, keeping the rest. -/
  | movh (sm : Bool) (d : BitVec 6) (h : BitVec 2) (i : BitVec 16)
  /-- LEA (R167). Adds a shifted second source to the first. -/
  | lea (sm : Bool) (d : BitVec 6) (a : BitVec 6) (b : BitVec 6) (u : Bool) (k : BitVec 3)
  /-- FADD (R189). Per-element floating-point addition with one rounding. -/
  | fadd (sm : Bool) (d : BitVec 6) (a : BitVec 6) (b : BitVec 6) (u : Bool) (w : BitVec 2) (f : Bool) (r : BitVec 2)
  /-- FSUB (R189). Per-element floating-point subtraction. -/
  | fsub (sm : Bool) (d : BitVec 6) (a : BitVec 6) (b : BitVec 6) (u : Bool) (w : BitVec 2) (f : Bool) (r : BitVec 2)
  /-- FMUL (R189). Per-element floating-point multiplication. -/
  | fmul (sm : Bool) (d : BitVec 6) (a : BitVec 6) (b : BitVec 6) (u : Bool) (w : BitVec 2) (f : Bool) (r : BitVec 2)
  /-- FFMA (R189). Per-element fused multiply-add into the destination. -/
  | ffma (sm : Bool) (d : BitVec 6) (a : BitVec 6) (b : BitVec 6) (u : Bool) (w : BitVec 2) (f : Bool) (r : BitVec 2)
  /-- FMIN (R190). Per-element floating-point minimum. -/
  | fmin (sm : Bool) (d : BitVec 6) (a : BitVec 6) (b : BitVec 6) (u : Bool) (w : BitVec 2) (f : Bool)
  /-- FMAX (R190). Per-element floating-point maximum. -/
  | fmax (sm : Bool) (d : BitVec 6) (a : BitVec 6) (b : BitVec 6) (u : Bool) (w : BitVec 2) (f : Bool)
  /-- FCMP (R191). Floating-point comparison of all elements into a predicate. -/
  | fcmp (sm : Bool) (p : BitVec 3) (a : BitVec 6) (b : BitVec 6) (u : Bool) (w : BitVec 2) (f : Bool) (c : BitVec 2)
  /-- FSGN (R192). Changes only the sign bit of each element. -/
  | fsgn (sm : Bool) (d : BitVec 6) (a : BitVec 6) (b : BitVec 6) (u : Bool) (w : BitVec 2) (f : Bool) (c : BitVec 2)
  /-- FCVT (R198). Converts elements between formats in registers, optionally recording magnitudes in an amax register. -/
  | fcvt (sm : Bool) (d : BitVec 6) (a : BitVec 6) (c : BitVec 4) (k : BitVec 2) (x : Bool) (w : BitVec 2) (f : Bool) (r : BitVec 2)
  /-- FQST (R201). Converts a register's elements to a narrow format and stores them. -/
  | fqst (sm : Bool) (t : BitVec 6) (a : BitVec 6) (i : BitVec 2) (x : Bool) (r : BitVec 2) (k : Bool) (w : BitVec 2) (z : BitVec 3)
  /-- FCLS (R193). Writes the class code of each element. -/
  | fcls (sm : Bool) (d : BitVec 6) (a : BitVec 6) (w : BitVec 2) (f : Bool)
  /-- FSCL (R194). Scales each element by a power of two. -/
  | fscl (sm : Bool) (d : BitVec 6) (a : BitVec 6) (b : BitVec 6) (u : Bool) (w : BitVec 2) (f : Bool) (r : BitVec 2)
  /-- FDOT2 (R195). Narrow-format dot product accumulated into two F32 elements. -/
  | fdot2 (sm : Bool) (d : BitVec 6) (a : BitVec 6) (b : BitVec 6) (u : Bool) (w : Bool) (f : Bool) (r : BitVec 2)
  /-- FRND (R196). Rounds each element to an integral value. -/
  | frnd (sm : Bool) (d : BitVec 6) (a : BitVec 6) (w : BitVec 2) (f : Bool) (r : BitVec 2)
  /-- RCP (R204). SFU reciprocal. -/
  | rcp (sm : Bool) (d : BitVec 6) (a : BitVec 6) (w : BitVec 2) (f : Bool) (g : Bool)
  /-- RSQ (R204). SFU reciprocal square root. -/
  | rsq (sm : Bool) (d : BitVec 6) (a : BitVec 6) (w : BitVec 2) (f : Bool) (g : Bool)
  /-- SQRT (R204). SFU square root. -/
  | sqrt (sm : Bool) (d : BitVec 6) (a : BitVec 6) (w : BitVec 2) (f : Bool) (g : Bool)
  /-- EXP2 (R204). SFU base-2 exponential. -/
  | exp2 (sm : Bool) (d : BitVec 6) (a : BitVec 6) (w : BitVec 2) (f : Bool) (g : Bool)
  /-- LOG2 (R204). SFU base-2 logarithm. -/
  | log2 (sm : Bool) (d : BitVec 6) (a : BitVec 6) (w : BitVec 2) (f : Bool) (g : Bool)
  /-- SIN (R204). SFU sine. -/
  | sin (sm : Bool) (d : BitVec 6) (a : BitVec 6) (w : BitVec 2) (f : Bool) (g : Bool)
  /-- COS (R204). SFU cosine. -/
  | cos (sm : Bool) (d : BitVec 6) (a : BitVec 6) (w : BitVec 2) (f : Bool) (g : Bool)
  /-- TANH (R204). SFU hyperbolic tangent. -/
  | tanh (sm : Bool) (d : BitVec 6) (a : BitVec 6) (w : BitVec 2) (f : Bool) (g : Bool)
  /-- SIGM (R204). SFU logistic sigmoid. -/
  | sigm (sm : Bool) (d : BitVec 6) (a : BitVec 6) (w : BitVec 2) (f : Bool) (g : Bool)
  /-- ERF (R204). SFU error function. -/
  | erf (sm : Bool) (d : BitVec 6) (a : BitVec 6) (w : BitVec 2) (f : Bool) (g : Bool)
  /-- GELU (R204). SFU GELU activation. -/
  | gelu (sm : Bool) (d : BitVec 6) (a : BitVec 6) (w : BitVec 2) (f : Bool) (g : Bool)
  /-- SILU (R204). SFU SiLU activation. -/
  | silu (sm : Bool) (d : BitVec 6) (a : BitVec 6) (w : BitVec 2) (f : Bool) (g : Bool)
  /-- FDIV (R204). SFU division. -/
  | fdiv (sm : Bool) (d : BitVec 6) (a : BitVec 6) (b : BitVec 6) (u : Bool) (w : BitVec 2) (f : Bool) (g : Bool)
  /-- UADD (R172). Uniform 64-bit addition. -/
  | uadd (sm : Bool) (d : BitVec 5) (a : BitVec 5) (b : BitVec 5) (t : Bool) (g : Bool)
  /-- USUB (R172). Uniform 64-bit subtraction. -/
  | usub (sm : Bool) (d : BitVec 5) (a : BitVec 5) (b : BitVec 5) (t : Bool) (g : Bool)
  /-- UMUL (R172). Uniform 64-bit multiplication. -/
  | umul (sm : Bool) (d : BitVec 5) (a : BitVec 5) (b : BitVec 5) (t : Bool) (g : Bool)
  /-- UAND (R172). Uniform bitwise AND. -/
  | uand (sm : Bool) (d : BitVec 5) (a : BitVec 5) (b : BitVec 5)
  /-- UOR (R172). Uniform bitwise OR. -/
  | uor (sm : Bool) (d : BitVec 5) (a : BitVec 5) (b : BitVec 5)
  /-- UXOR (R172). Uniform bitwise XOR. -/
  | uxor (sm : Bool) (d : BitVec 5) (a : BitVec 5) (b : BitVec 5)
  /-- USHF (R172). Uniform shift or rotate. -/
  | ushf (sm : Bool) (d : BitVec 5) (a : BitVec 5) (b : BitVec 5) (k : BitVec 2)
  /-- UCMP (R173). Uniform comparison written to the predicate of every lane of the issue. -/
  | ucmp (sm : Bool) (p : BitVec 3) (a : BitVec 5) (b : BitVec 5) (c : BitVec 2) (g : Bool)
  /-- UMOVI (R174). Writes a 16-bit immediate into a uniform register halfword. -/
  | umovi (sm : Bool) (d : BitVec 5) (h : BitVec 2) (i : BitVec 16)
  /-- UADDI (R174). Adds a signed immediate to a uniform register. -/
  | uaddi (sm : Bool) (d : BitVec 5) (a : BitVec 5) (i : BitVec 12)
  /-- ULEA (R172). Uniform shifted add. -/
  | ulea (sm : Bool) (d : BitVec 5) (a : BitVec 5) (b : BitVec 5) (k : BitVec 3)
  /-- RFAL (R175). Copies a thread register of the lowest lane of the issue into a uniform register. -/
  | rfal (sm : Bool) (d : BitVec 5) (a : BitVec 6)
  /-- XTOW (R176). Copies one element of a chosen lane into a uniform register. -/
  | xtow (sm : Bool) (d : BitVec 5) (a : BitVec 6) (l : BitVec 5) (sb : BitVec 3) (w : BitVec 2) (m : Bool)
  /-- WTOX (R177). Broadcasts a uniform register to a thread register of every lane of the issue. -/
  | wtox (sm : Bool) (d : BitVec 6) (a : BitVec 5)
  /-- UMIN (R172). Uniform minimum. -/
  | umin (sm : Bool) (d : BitVec 5) (a : BitVec 5) (b : BitVec 5) (g : Bool)
  /-- UMAX (R172). Uniform maximum. -/
  | umax (sm : Bool) (d : BitVec 5) (a : BitVec 5) (b : BitVec 5) (g : Bool)
  /-- LGET (R180). Reads an element of one lane into every lane of the issue. -/
  | lget (sm : Bool) (d : BitVec 6) (a : BitVec 6) (l : BitVec 5) (sb : BitVec 3) (w : BitVec 2) (m : BitVec 2)
  /-- LSHF (R181). Shuffles registers between lanes. -/
  | lshf (sm : Bool) (d : BitVec 6) (a : BitVec 6) (k : BitVec 5) (m : BitVec 2)
  /-- LRED (R182). Reduces each element position across the lanes of the issue. -/
  | lred (sm : Bool) (d : BitVec 6) (a : BitVec 6) (g : Bool) (w : BitVec 2) (m : BitVec 2)
  /-- LSCAN (R182). Inclusive or exclusive scan across the lanes of the issue. -/
  | lscan (sm : Bool) (d : BitVec 6) (a : BitVec 6) (e : Bool) (g : Bool) (w : BitVec 2) (m : BitVec 2)
  /-- VOTE (R183). Votes across lanes into a predicate. -/
  | vote (sm : Bool) (p : BitVec 3) (a : BitVec 6) (sb : BitVec 3) (w : BitVec 2) (m : BitVec 2)
  /-- SPRM (R184). Permutes elements within each lane. -/
  | sprm (sm : Bool) (d : BitVec 6) (a : BitVec 6) (sb : BitVec 3) (w : BitVec 2) (m : BitVec 2)
  /-- PACK (R185). Narrows elements into one half of the destination. -/
  | pack (sm : Bool) (d : BitVec 6) (a : BitVec 6) (h : Bool) (w : BitVec 2) (m : BitVec 2)
  /-- UNPK (R185). Widens one half of the source elements. -/
  | unpk (sm : Bool) (d : BitVec 6) (a : BitVec 6) (h : Bool) (w : BitVec 2) (m : BitVec 2)
  /-- LD (R210). Loads from the virtual space into a thread register per lane. -/
  | ld (sm : Bool) (t : BitVec 6) (a : BitVec 6) (o : BitVec 9) (z : BitVec 3)
  /-- ST (R210). Stores a thread register to the virtual space per lane. -/
  | st (sm : Bool) (t : BitVec 6) (a : BitVec 6) (o : BitVec 9) (z : BitVec 2)
  /-- LDS (R212). Loads from the team's scratchpad window. -/
  | lds (sm : Bool) (t : BitVec 6) (a : BitVec 6) (o : BitVec 9) (z : BitVec 3)
  /-- STS (R212). Stores to the team's scratchpad window. -/
  | sts (sm : Bool) (t : BitVec 6) (a : BitVec 6) (o : BitVec 9) (z : BitVec 2)
  /-- LDU (R213). Loads into a uniform register once per issue. -/
  | ldu (sm : Bool) (t : BitVec 5) (a : BitVec 5) (o : BitVec 9) (z : BitVec 3)
  /-- STU (R213). Stores a uniform register once per issue. -/
  | stu (sm : Bool) (t : BitVec 5) (a : BitVec 5) (o : BitVec 9) (z : BitVec 2)
  /-- AMO (R216). Atomic read-modify-write at the home slice returning the old value. -/
  | amo (sm : Bool) (d : BitVec 6) (a : BitVec 6) (b : BitVec 6) (o : BitVec 2) (w : Bool) (p : BitVec 3)
  /-- CAS (R217). Atomic compare-and-swap at the home slice. -/
  | cas (sm : Bool) (d : BitVec 6) (a : BitVec 6) (b : BitVec 6) (o : BitVec 2) (w : Bool)
  /-- RED (R216). Atomic reduction that returns no value. -/
  | red (sm : Bool) (a : BitVec 6) (b : BitVec 6) (o : BitVec 2) (w : Bool) (p : BitVec 3)
  /-- FENCE_REL (R222). Release fence at the given scope. -/
  | fenceRel (sm : Bool) (c : BitVec 2)
  /-- FENCE_ACQ (R222). Acquire fence at the given scope. -/
  | fenceAcq (sm : Bool) (c : BitVec 2)
  /-- FENCE_AR (R222). Combined release and acquire fence. -/
  | fenceAr (sm : Bool) (c : BitVec 2)
  /-- PREF (R224). Prefetches a line into L1 or L2. -/
  | pref (sm : Bool) (l : Bool) (a : BitVec 6) (o : BitVec 9)
  /-- WBACK (R225). Writes back up to 64 lines. -/
  | wback (sm : Bool) (n : BitVec 6) (a : BitVec 6) (o : BitVec 9)
  /-- INVAL (R226). Discards L1 copies of up to 64 lines. -/
  | inval (sm : Bool) (n : BitVec 6) (a : BitVec 6) (o : BitVec 9)
  /-- PUBL (R227). Publishes a twin descriptor's shadow backing as one event. -/
  | publ (sm : Bool) (a : BitVec 5)
  /-- SAMO (R220). Scratchpad atomic operation. -/
  | samo (sm : Bool) (d : BitVec 6) (a : BitVec 6) (b : BitVec 6) (w : Bool) (p : BitVec 3)
  /-- SAMO_CAS (R220). Scratchpad compare-and-swap. -/
  | samoCas (sm : Bool) (d : BitVec 6) (a : BitVec 6) (b : BitVec 6) (w : Bool)
  /-- BR (R228). Per-lane conditional branch on a predicate. -/
  | br (sm : Bool) (p : BitVec 3) (n : Bool) (o : BitVec 20)
  /-- JMPR (R230). Jumps to a register-held target. -/
  | jmpr (sm : Bool) (a : BitVec 6)
  /-- JMPR_LINK (R230). Jumps to a register-held target and writes the link. -/
  | jmprLink (sm : Bool) (d : BitVec 6) (a : BitVec 6)
  /-- CALL (R229). Writes the link into x1 and transfers to a label. -/
  | call (sm : Bool) (o : BitVec 20)
  /-- RET (R230). Returns to a register-held address. -/
  | ret (sm : Bool) (a : BitVec 6)
  /-- ENROL (R233). Enrols lanes in a rejoin mask. -/
  | enrol (sm : Bool) (k : BitVec 3)
  /-- REJOIN (R233). Parks lanes at a rejoin mask until the mask completes. -/
  | rejoin (sm : Bool) (k : BitVec 3)
  /-- STRIKE (R233). Removes lanes from a rejoin mask. -/
  | strike (sm : Bool) (k : BitVec 3)
  /-- EXIT (R231). Ends the issuing threads, aborting transactions and leaving rejoin masks. -/
  | exit (sm : Bool)
  /-- TXBEG (R239). Opens a transaction and records a checkpoint. -/
  | txbeg (sm : Bool) (d : BitVec 6)
  /-- TXEND (R241). Parks participant lanes and attempts the commit once all arrive. -/
  | txend (sm : Bool)
  /-- RETRY (R244). Takes the innermost alternative or sleeps on the read set. -/
  | retry (sm : Bool)
  /-- TXELSE (R243). Opens an alternative frame in the transaction. -/
  | txelse (sm : Bool) (o : BitVec 20)
  /-- TXABT (R245). Aborts the transaction with a code. -/
  | txabt (sm : Bool) (c : BitVec 6)
  /-- TDEC (R246). Decrements a task record's dependence counter. -/
  | tdec (sm : Bool) (a : BitVec 6)
  /-- TSPAWN (R247). The team leader spawns a child grid from an image. -/
  | tspawn (sm : Bool) (d : BitVec 6) (a : BitVec 6)
  /-- BARV (R249). Arrives at a scratchpad barrier object and ends the group's current task. -/
  | barv (sm : Bool) (a : BitVec 6)
  /-- MMA (R277). Matrix multiply overwriting an accumulator bank. -/
  | mma (sm : Bool) (d : BitVec 5) (a : BitVec 5) (b : BitVec 5)
  /-- MMA_ACC (R277). Matrix multiply accumulating into a bank. -/
  | mmaAcc (sm : Bool) (d : BitVec 5) (a : BitVec 5) (b : BitVec 5)
  /-- OB_RES (R267). Reads a tensor layout descriptor and reserves an operand record. -/
  | obRes (sm : Bool) (d : BitVec 5) (a : BitVec 5) (b : BitVec 5)
  /-- OB_REL (R268). Releases a reservation record. -/
  | obRel (sm : Bool) (a : BitVec 5)
  /-- OB_SETS (R269). Sets a record's scale-window offset. -/
  | obSets (sm : Bool) (a : BitVec 5) (b : BitVec 5)
  /-- OB_SETZ (R269). Sets a record's zero-point-window offset. -/
  | obSetz (sm : Bool) (a : BitVec 5) (b : BitVec 5)
  /-- ACC_ACQ (R273). Requests a grant of accumulator banks. -/
  | accAcq (sm : Bool) (a : BitVec 5)
  /-- ACC_REL (R274). Releases the group's accumulator grant. -/
  | accRel (sm : Bool)
  /-- ACC_ZERO (R275). Clears a granted bank. -/
  | accZero (sm : Bool) (a : BitVec 5)
  /-- ACC_RD (R276). Reads one accumulator row into thread registers. -/
  | accRd (sm : Bool) (d : BitVec 6) (a : BitVec 5) (b : BitVec 5)
  /-- TILE_FETCH (R270). Binds and pins an operand tile for a record. -/
  | tileFetch (sm : Bool) (a : BitVec 5) (b : BitVec 5)
  /-- TILE_DRAIN (R278). Writes a tile to a destination record. -/
  | tileDrain (sm : Bool) (d : BitVec 5) (a : BitVec 5) (b : BitVec 5)
  /-- TILE_DRADD (R279). Adds a tile into a destination as one event. -/
  | tileDradd (sm : Bool) (d : BitVec 5) (a : BitVec 5) (b : BitVec 5)
  /-- TILE_UNPIN (R272). Empties the oldest or both bindings of a record. -/
  | tileUnpin (sm : Bool) (a : BitVec 5)
  /-- PUSH (R283). Pushes one 64-byte command from uniform registers to an engine queue. -/
  | push (sm : Bool) (q : BitVec 6) (a : BitVec 6) (p : BitVec 3) (r : Bool)
  /-- PUSHX (R283). Pushes one command per lane from thread registers. -/
  | pushx (sm : Bool) (q : BitVec 6) (a : BitVec 6) (p : BitVec 3) (r : Bool)
  /-- MFS (R255). Reads a system register into a thread register. -/
  | mfs (sm : Bool) (d : BitVec 6) (y : BitVec 12)
  /-- MTS (R255). Writes a system register that has no behaviour of its own. -/
  | mts (sm : Bool) (d : BitVec 6) (y : BitVec 12)
  /-- TRAP (R256). Raises trap cause 0x0E with an immediate. -/
  | trap (sm : Bool) (i : BitVec 12)
  /-- ERET (R257). Returns from a trap handler to the trapping word. -/
  | eret (sm : Bool)
  /-- ERET_NEXT (R257). Returns from a trap handler past the trapping word. -/
  | eretNext (sm : Bool)
  /-- PREEND (R258). Ends the save handler for the thread, completing the cooperative save when all have. -/
  | preend (sm : Bool)
  /-- HALTT (R259). Halts every other group of the team. -/
  | haltt (sm : Bool)
  /-- HALTT_REL (R259). Clears every halt mark in the team. -/
  | halttRel (sm : Bool)
  /-- TIMER (R260). Arms a timer-table entry for a timed decrement. -/
  | timer (sm : Bool) (d : BitVec 5) (k : BitVec 3)
  /-- WSPLIT (R250). Moves weight from the lowest lane to requesting lanes. -/
  | wsplit (sm : Bool) (d : BitVec 6) (a : BitVec 6)
  /-- WSPLIT_LDR (R250). Moves weight from the team leader to requesting lanes. -/
  | wsplitLdr (sm : Bool) (d : BitVec 6) (a : BitVec 6)
  /-- WRET (R251). Returns the lane's weight to the root after its stores drain. -/
  | wret (sm : Bool)
  /-- WBORROW (R252). Borrows weight units from the phase root. -/
  | wborrow (sm : Bool) (d : BitVec 6) (a : BitVec 6)
  /-- IDEND (R253). Ends the discardable period of an idempotent team. -/
  | idend (sm : Bool)
  /-- NOP (R254). Does nothing. -/
  | nop (sm : Bool)
  /-- YIELD (R254). Moves the group from ACTIVE to READY if another group is READY. -/
  | yield (sm : Bool)
  /-- SPERR_CLEAR (R129). A write of 1 to SY.SPERR.V clears V, WR and OFF together. -/
  | sperrClear (team : Nat)
  /-- FPMODE_WRITE (R145). MTS to SY.FPMODE sets the mode for later instructions and zeroes SRCNT. -/
  | fpmodeWrite (team : Nat) (grp : Nat) (v : BitVec 64)
  /-- RGNCTL_WRITE (R72). MTS to SY.RGNCTLk enables a region if valid, or writes back the enabled region before completing. -/
  | rgnctlWrite (team : Nat) (k : Nat) (v : BitVec 64)
  /-- HVF_WRITE (R131). A harbour write of SY.HVF sets the function that owns the core's work and SY.VFN. -/
  | hvfWrite (core : Nat) (v : BitVec 64)
  /-- PACKAGE_RESET (R26). Package reset brings up Lighthouse, the harbour cores, stacks, compute dies and functions in order. -/
  | packageReset (imageOk : Bool)
  /-- ENQUEUE_WRITE (R386). A 128-byte Deferrable Memory Write to an enqueue page is answered and possibly accepted. -/
  | enqueueWrite (fn : Nat) (len : Nat) (off : Nat) (pasidOk : Bool) (img : BitVec 1024)
  /-- POSTED_ENQUEUE_WRITE (R386). A posted write to the enqueue page is discarded with an error record. -/
  | postedEnqueueWrite (fn : Nat)
  /-- HOST_BAR_REQUEST (R385). A host request to a function's BAR0 window, answered Unsupported Request when the function is absent. -/
  | hostBarRequest (fn : Nat) (bar : Nat) (off : Nat) (wr : Bool) (v : BitVec 64)
  /-- ENGINE_BATCH_PUSH (R45). A ready engine batch pushes its next command when the queue has a free entry. -/
  | engineBatchPush (grid : Nat)
  /-- TEAM_DISPATCH (R46). The dispatcher places a ready team on a core with free slots, blocks and scratchpad. -/
  | teamDispatch (grid : Nat)
  /-- DISPATCH_RESERVE (R47). After a blocked team waits 100 µs the dispatcher reserves the next core that frees enough resources. -/
  | dispatchReserve (grid : Nat)
  /-- GROUP_PARK (R51). An active group parked for 32 cycles with a group READY moves to PARKED. -/
  | groupPark (team : Nat) (grp : Nat)
  /-- GROUP_UNPARK (R51). A parked group whose dependences are all satisfied returns to READY. -/
  | groupUnpark (team : Nat) (grp : Nat)
  /-- GROUP_PROMOTE (R52). A group READY for 1,024 cycles is promoted into the active set, displacing the youngest lowest-priority group. -/
  | groupPromote (team : Nat) (grp : Nat)
  /-- STREAM_LOAD (R54). The affine address engine loads the next element of an inbound stream or stores an outbound one. -/
  | streamLoad (team : Nat) (grp : Nat) (lane : Nat) (port : Nat)
  /-- BARRIER_CONTINUATION (R56). A continuation task is dispatched and resumes its group after BARV. -/
  | barrierContinuation (team : Nat) (grp : Nat)
  /-- DEMAND_FAULT_SAVE (R60). A demand fault halts the team, drains its stores and saves its context to a fault frame. -/
  | demandFaultSave (team : Nat)
  /-- FAULT_RING_WRITE (R462). A page request is written to the function's fault ring when there is room. -/
  | faultRingWrite (fn : Nat)
  /-- TEAM_END (R63). When every thread has exited the team's resources are released, stores drain and held weight returns. -/
  | teamEnd (team : Nat)
  /-- GRID_RETIRE (R58). A grid retires: releases, drain, completion record, successor decrements, hold return and parent decrement. -/
  | gridRetire (grid : Nat)
  /-- LOGICAL_TIME_TICK (R75). Each core's logical time advances by one every SY.TSTICK cycles. -/
  | logicalTimeTick (core : Nat)
  /-- LOAD_RETURN (R210). A loaded value arrives and is written to its register. -/
  | loadReturn (team : Nat) (grp : Nat) (op : Nat)
  /-- POISON_CONSUMED (R431). A poisoned return is taken as trap 0x08 at the lane's next stop point. -/
  | poisonConsumed (team : Nat) (grp : Nat) (lane : Nat)
  /-- STORE_ACK (R82). A store acknowledgement returns and SY.OSAT falls. -/
  | storeAck (op : Nat)
  /-- SFU_RESULT (R206). An SFU result is written to its register. -/
  | sfuResult (team : Nat) (grp : Nat) (op : Nat)
  /-- SCRATCHPAD_ARRIVAL (R69). A direct-mode engine's data for a scratchpad line arrive and its pending count falls. -/
  | scratchpadArrival (op : Nat)
  /-- REGION_FILL_ARRIVAL (R72). A region map's fill data for a line arrive and the line becomes present. -/
  | regionFillArrival (team : Nat) (k : Nat)
  /-- TEAM_KILL (R419). A team is killed: halted, transactions aborted, releases made, stores drained, weight returned failed. -/
  | teamKill (team : Nat) (cause : Nat)
  /-- TX_SLEEP_TIMEOUT (R91). A sleeping group wakes after 100 µs and re-executes from TXBEG. -/
  | txSleepTimeout (team : Nat) (grp : Nat)
  /-- ACC_GRANT (R273). A parked accumulator request is granted when enough banks are free. -/
  | accGrant (pair : Nat)
  /-- TILE_PIN (R270). The tile fetch unit pins a binding's lines and moves its scales. -/
  | tilePin (pair : Nat) (rec : Nat)
  /-- MMA_RETIRE (R263). An MMA retires 24 cycles after its last array cycle, writing its rows and flags. -/
  | mmaRetire (pair : Nat)
  /-- DRAIN_DONE (R278). A drain's stores have all been performed at the destination. -/
  | drainDone (pair : Nat)
  /-- TIMER_FIRE (R260). A timer entry fires after its time and performs one TDEC. -/
  | timerFire (fn : Nat) (idx : Nat)
  /-- SLICE_END (R363). A pool slice ends and the outgoing function's teams are discarded, saved or enter the save handler. -/
  | sliceEnd (pool : Nat)
  /-- SAVE_BUDGET_EXPIRY (R365). The save handler's budget expires and the team is force-saved or killed. -/
  | saveBudgetExpiry (team : Nat)
  /-- SLICE_START (R362). The next pool member's slice starts, restoring saved teams and releasing withheld completions. -/
  | sliceStart (pool : Nat)
  /-- SLACK_WATCHDOG (R443). A non-pre-emptible overrun beyond OVRLIM resets the function's context. -/
  | slackWatchdog (fn : Nat)
  /-- RING_RECORD_WRITE (R388). A completion or error record is written to its ring when there is room and WIDX advances. -/
  | ringRecordWrite (fn : Nat) (ring : Nat)
  /-- COALESCE_TIMER (R390). A ring's coalescing timer reaches CTIME and sends its vector. -/
  | coalesceTimer (fn : Nat) (ring : Nat)
  /-- CHANNEL_COMMAND_ISSUE (R320). A channel scheduler chooses and issues one request at a command slot. -/
  | channelCommandIssue (chan : Nat)
  /-- PARITY_DELTA_APPLY (R324). A parity delta reaches its parity stack and is applied by XOR. -/
  | parityDeltaApply (op : Nat)
  /-- RECONSTRUCTING_READ (R426). An uncorrectable DRAM read is rebuilt from its stripe or poisoned. -/
  | reconstructingRead (found : Damage)
  /-- PARITY_ROW_REBUILD (R428). An uncorrectable parity row is rebuilt from its data rows within 1 ms. -/
  | parityRowRebuild (bank : Nat) (row : Nat)
  /-- PATROL_SCRUB (R434). Each stack patrol-scrubs every row once per 24 hours. -/
  | patrolScrub (bank : Nat) (row : Nat)
  /-- STACK_LOSS (R433). A stack fails and the device enters low-water mode, or fatally on a second loss. -/
  | stackLoss (stack : Nat)
  /-- SHELF_MODULE_LOSS (R434). A shelf module is lost and its reads and appends fail. -/
  | shelfModuleLoss (modl : Nat)
  /-- PAGE_WALK (R333). A walker performs a two-stage walk for a TLB miss. -/
  | pageWalk (core : Nat) (fn : Nat) (va : Nat) (kind : Nat)
  /-- ATS_REPLY (R341). An ATS translation reply arrives and the host access proceeds or faults. -/
  | atsReply (req : Nat) (reply : Nat) (ha : Nat)
  /-- ATS_TIMEOUT (R441). An ATS completion missing for 10 ms turns parked accesses into faults. -/
  | atsTimeout (req : Nat)
  /-- PRI_RESPONSE (R342). A PRI response retries or faults the accesses parked on its page group. -/
  | priResponse (req : Nat) (code : Nat)
  /-- SHOOTDOWN_ACK (R345). A translation unit removes its entries and acknowledges a shoot-down. -/
  | shootdownAck (cmd : Nat) (unit : Nat)
  /-- SHOOTDOWN_TIMEOUT (R442). A unit not acknowledging within 100 µs has its pair fenced. -/
  | shootdownTimeout (cmd : Nat) (unit : Nat)
  /-- POWER_CLOCK_DOWN (R28). Average power above the limit lowers the arithmetic clock one 100 MHz step. -/
  | powerClockDown (avg : Nat)
  /-- POWER_CLOCK_UP (R28). Average power 5 % below the limit raises the clock one step per millisecond. -/
  | powerClockUp (avg : Nat)
  /-- LONGSHORE_INGRESS (R445). A Longshore packet arrives and is admitted or refused by the admission table. -/
  | longshoreIngress (link : Nat) (pkt : LinkPacket)
  /-- REMOTE_ACK_TIMEOUT (R446). A remote request unacknowledged for 1 ms times out. -/
  | remoteAckTimeout (op : Nat)
  /-- FLIT_CHECK_FAILURE (R447). A Longshore flit fails its check and is replayed, retraining after 8 tries. -/
  | flitCheckFailure (link : Nat)
  /-- LINK_RETRAIN_DONE (R447). A Longshore retrain succeeds or marks the link down. -/
  | linkRetrainDone (link : Nat) (ok : Bool)
  /-- HOST_WRITE_ERROR (R448). A device write to host memory is refused or a read completion times out. -/
  | hostWriteError (op : Nat)
  /-- IDE_INTEGRITY_FAILURE (R448). An IDE stream integrity failure zeroises its keys and puts bound functions in ERROR. -/
  | ideIntegrityFailure (stream : Nat)
  /-- ALLREDUCE (R288). Collective all-reduce over the set's members. -/
  | allreduce (cmd : Nat) (remote : List (Nat × List (BitVec 64)))
  /-- REDUCE (R288). Collective reduce to the root rank. -/
  | reduce (cmd : Nat) (remote : List (Nat × List (BitVec 64)))
  /-- BROADCAST (R288). Collective broadcast from the root. -/
  | broadcast (cmd : Nat) (remote : List (Nat × List (BitVec 64)))
  /-- ALLGATHER (R288). Collective all-gather. -/
  | allgather (cmd : Nat) (remote : List (Nat × List (BitVec 64)))
  /-- REDUCESCATTER (R288). Collective reduce-scatter. -/
  | reducescatter (cmd : Nat) (remote : List (Nat × List (BitVec 64)))
  /-- GET_CAPABILITIES (R379). SPDM GET_CAPABILITIES request. -/
  | getCapabilities (wf : Bool)
  /-- NEGOTIATE_ALGORITHMS (R379). SPDM NEGOTIATE_ALGORITHMS request. -/
  | negotiateAlgorithms (wf : Bool)
  /-- GET_DIGESTS (R379). SPDM GET_DIGESTS request. -/
  | getDigests (wf : Bool)
  /-- GET_CERTIFICATE (R379). SPDM GET_CERTIFICATE request. -/
  | getCertificate (slot : Nat) (wf : Bool)
  /-- CHALLENGE (R379). SPDM CHALLENGE request. -/
  | challenge (slot : Nat) (wf : Bool)
  /-- GET_MEASUREMENTS (R380). SPDM GET_MEASUREMENTS request answered with the defined indices. -/
  | getMeasurements (op : Nat) (signed : Bool) (wf : Bool)
  /-- KEY_EXCHANGE (R379). SPDM KEY_EXCHANGE request. -/
  | keyExchange (wf : Bool)
  /-- FINISH (R379). SPDM FINISH request. -/
  | finish (sess : Nat) (wf : Bool)
  /-- END_SESSION (R450). SPDM END_SESSION ends the session and its IDE keys. -/
  | endSession (sess : Nat) (wf : Bool)
  /-- SECURED_MESSAGE_FAILURE (R450). A secured message that fails decryption ends the session. -/
  | securedMessageFailure (sess : Nat)
  /-- IDE_KM (R379). VENDOR_DEFINED IDE_KM request establishing IDE stream keys. -/
  | ideKm (sess : Nat) (stream : Nat) (fn : Nat)
  /-- LOCK_INTERFACE_REQUEST (R371). TDISP request that locks an interface's configuration. -/
  | lockInterfaceRequest (fn : Nat) (sess : Nat)
  /-- START_INTERFACE_REQUEST (R371). TDISP request that puts a locked interface in RUN. -/
  | startInterfaceRequest (fn : Nat)
  /-- STOP_INTERFACE_REQUEST (R371). TDISP request that resets the context, rekeys and unlocks the interface. -/
  | stopInterfaceRequest (fn : Nat)
  /-- GET_DEVICE_INTERFACE_STATE (R449). TDISP request for the interface state. -/
  | getDeviceInterfaceState (fn : Nat)
  /-- RELOCK_REQUEST (R373). Stolmar VENDOR_DEFINED request that marks a relock pending. -/
  | relockRequest (fn : Nat)
  /-- ILLEGAL_INSTRUCTION (R115). A word fetched as an instruction that is no instruction (OP 0x00, 0x2E, 0x2F, 0x3D-0x3F, 0x67, 0x7F, or a selector marked —) raises trap cause 0x01 with no other effect. -/
  | illegalInstruction (word : BitVec 32)
  /-- ILLEGAL_CLAUSE_HEADER (R94). A word reached as a clause header with a reserved bit in [31:21] set raises trap cause 0x02 before any word of the clause executes. -/
  | illegalClauseHeader (word : BitVec 32)
  /-- GET_DEVICE_INTERFACE_REPORT (R373). The TDISP request by which the guest reads the DEVICE_INTERFACE_REPORT, whose vendor part carries REPVER and the configuration of R374. -/
  | getDeviceInterfaceReport (fn : Nat)
  /-- SLUICE_TOKEN_REFILL (R360). A sluice bucket gains tokens at its rate, and a request held because its bucket was at or below zero issues once the balance rises above zero. -/
  | sluiceTokenRefill (fn : Nat)
  /-- DIE_JUNCTION_LIMIT (R29). A logic die nearing 105 °C or a stack nearing 95 °C makes the power controller lower the arithmetic clock by the steps of R28. -/
  | dieJunctionLimit (die : Nat) (temp : Nat)
  /-- POWER_GATING (R29). The harbour firmware power-gates an idle core pair, after which the pair holds no translations and its power controller answers shoot-downs for it. -/
  | powerGating (pair : Nat) (gate : Bool)
  /-- COMMAND_COMPLETION (R285). A command completes or fails: writes performed, error record, CPL action, weight return. -/
  | commandCompletion
  /-- AMSG_RECEIVE (R289). An active message is placed as a new one-group team when a slot and blocks are free. -/
  | amsgReceive
  /-- LKRUN_PLACE (R297). A microkernel team is placed on a ledge core when resources are free. -/
  | lkrunPlace
  /-- HOST_LINK_DOWN (R448). The host link goes down and every function enters ERROR. -/
  | hostLinkDown
  /-- NONCE_EXPIRY (R375). An LHNONCE nonce becomes invalid 60 s after issue. -/
  | nonceExpiry
  /-- COPY (R286). Copy engine copies rows of bytes. -/
  | copy
  /-- FILL (R286). Copy engine fills rows with a 64-bit pattern. -/
  | fill
  /-- CHAIN (R287). Chain engine applies up to eight element-wise operations. -/
  | chain
  /-- AMSG (R289). Sends an active message that spawns a group at the destination. -/
  | amsg
  /-- EVT (R290). Writes an event completion record to a ring. -/
  | evt
  /-- ROWCOPY (R301). Bank-side copy of co-located rows. -/
  | rowcopy
  /-- ROWOP (R301). Bank-side logical operation over co-located rows. -/
  | rowop
  /-- ROWZERO (R301). Bank-side zeroing of rows. -/
  | rowzero
  /-- SCRUB (R303). Checks rows and rewrites corrected values. -/
  | scrub
  /-- ALLOC (R305). The ledge allocator grants co-located rows and writes a result record. -/
  | alloc
  /-- FREE (R306). Zeroes and returns an allocation's rows to the pool. -/
  | free
  /-- LKRUN (R297). Starts a microkernel team on a ledge core. -/
  | lkrun
  /-- WALK (R308). Embedding walker pools table rows for a list of lookup records. -/
  | walk
  /-- SHELF_READ (R328). Reads shelf pages into stack memory. -/
  | shelfRead
  /-- SHELF_APPEND (R329). Appends pages to the function's shelf log. -/
  | shelfAppend
  /-- VFCREATE (R352). Creates a virtual function and enables it on the host port. -/
  | vfcreate
  /-- VFRESET (R353). Resets or destroys a function's context. -/
  | vfreset
  /-- PAIRS (R351). Assigns core pairs to an owner. -/
  | pairs
  /-- SLICEMAP (R354). Assigns banks and ledge cores to a slice. -/
  | slicemap
  /-- ARTW (R316). Writes an address-range-table entry. -/
  | artw
  /-- STITCH (R358). Applies stitch plans to mesh regions. -/
  | stitch
  /-- SLUICE (R360). Sets a function's token buckets. -/
  | sluice
  /-- POOL (R361). Enables or disables a time-sliced pool. -/
  | pool
  /-- ROOTS (R332). Writes a translation root and shoots down the function. -/
  | roots
  /-- SHOOT (R345). Shoot-down of a range or whole function. -/
  | shoot
  /-- REPLAY (R61). Retries parked engine accesses and returns saved teams to the dispatcher. -/
  | replay
  /-- NBPOOL (R351). Sets a slice's near-bank pool. -/
  | nbpool
  /-- SHELFLOG_SET_LOG (R329). Sets a function's shelf append log. -/
  | shelflogSetLog
  /-- SHELFLOG_SET_QUOTA (R329). Sets a function's shelf quota. -/
  | shelflogSetQuota
  /-- SHELFLOG_TRIM (R329). Trims a shelf log from its start. -/
  | shelflogTrim
  /-- FAQ (R330). Sets up the fault-address queue and zeroes its index word. -/
  | faq
  /-- QUERY (R321). Writes the deadline-miss counters and optionally clears them. -/
  | query
  /-- CLAIM (R344). Places a host migration claim on a page. -/
  | claim
  /-- CLAIM_CANCEL (R344). Cancels a host migration claim. -/
  | claimCancel
  /-- SRAMSPLIT (R351). Writes SY.SRAMSPLIT of both cores of named pairs. -/
  | sramsplit
  /-- LIMITS (R28). Sets the package power limit. -/
  | limits
  /-- READ_POOL_RECORD (R370). Writes a pool record to a buffer. -/
  | readPoolRecord
  /-- READ_ENTRY_IMAGE (R351). Writes an address-range-table entry image to a buffer. -/
  | readEntryImage
  /-- RINGLOAD (R387). Re-reads ring-table entries of a function. -/
  | ringload
  /-- PFCONF (R461). Configures the physical function's tenant context. -/
  | pfconf
  /-- FRING (R462). Sets up a function's fault ring. -/
  | fring
  /-- LHFUSE (R375). Writes the fuse contents to a buffer. -/
  | lhfuse
  /-- LHNONCE (R375). Writes a fresh nonce valid for one unlock. -/
  | lhnonce
  /-- LHUNLOCK (R381). Verifies a debug token, zeroises keys, extends index 30 and opens the debug port. -/
  | lhunlock
  /-- LHMEAS (R375). Writes a measurement index value. -/
  | lhmeas
  /-- LHBAD_READ (R331). Writes the bad-page list count and entries. -/
  | lhbadRead
  /-- LHBAD_ADD (R331). Adds an entry to the bad-page list. -/
  | lhbadAdd
  /-- LHBAD_REMOVE (R331). Removes an entry from the bad-page list. -/
  | lhbadRemove
  /-- MBEGIN (R455). Stages a destination image and starts dirty tracking of an entry. -/
  | mbegin
  /-- MCOPY (R456). Copies every unit of the entry's range to the destination. -/
  | mcopy
  /-- MDIRTY (R455). Recopies every dirty unit once. -/
  | mdirty
  /-- MSWITCH (R457). Holds requests, recopies dirty units and replaces the entry with the staged image. -/
  | mswitch
  /-- MRELEASE (R458). Zeroes and returns the banks the entry no longer names and ends the migration. -/
  | mrelease
  /-- MABORT (R455). Ends tracking and discards the staged image. -/
  | mabort
  /-- GET_VERSION (R379). SPDM GET_VERSION request answered by Lighthouse. -/
  | getVersion
  /-- MANUFACTURING_FLOW (R377). Stolmar's manufacturing flow moves the lifecycle from MANUFACTURE to PROVISIONED by writing the fuse. -/
  | manufacturingFlow
  deriving DecidableEq, Repr

end Sys2Proof
end

