-- ==== Sys2Proof/WellFormed.lean ====
section
/-! DEFINITION. Which instructions the manual's static rules allow: the limits of R94, R103–R110, R128 and of the
instruction chapters that the fields alone decide. A word that breaks one is an illegal instruction or header. -/

namespace Sys2Proof

/-- With U = 1, B names w0–w31 (R104). -/
def uOk (u : Bool) (b : BitVec 6) : Bool := !u || decide (b.toNat < 32)

/-- The kind bit is reserved for F64 and F32 (R104, R187). -/
def kindOk (w : BitVec 2) (f : Bool) : Bool := !f || w == 2 || w == 3

/-- A field that may not name a port (R176, R178). -/
def noPort (r : BitVec 6) : Bool := decide (r.toNat < 60)

/-- Elements in a register of element width code `w` (R104): 1, 2, 4 or 8. -/
def elems (w : BitVec 2) : Nat := 2 ^ w.toNat

/-- SUB is below the number of elements (R109). -/
def subOk (w : BitVec 2) (sub : BitVec 3) : Bool := decide (sub.toNat < elems w)

/-- Combinations of SPRM (R184). -/
def sprmOk (w : BitVec 2) (sub : BitVec 3) (m : BitVec 2) : Bool :=
  if m == 1 then sub == 0
  else if m == 3 then sub == 0 && w != 0
  else subOk w sub

/-- Legal source and destination pairings of FQST (R200, R201). -/
def fqstOk (w : BitVec 2) (k : Bool) (z : BitVec 3) : Bool :=
  (!k || w == 2) &&
  (if w == 0 then decide (z.toNat ≤ 4)
   else if w == 1 then decide (z.toNat ≤ 4) || z == 7
   else w == 2)

/-- SFU combinations (R104, R203): `wide` marks the functions that exist in F64. -/
def sfuOk (wide : Bool) (w : BitVec 2) (f g : Bool) : Bool :=
  w != 3 && (!f || w == 2) && (w != 0 || (g && wide))

/-- System-register numbers of R129 and R131. -/
def sysListed (y : Nat) : Bool :=
  decide (y ≤ 0x006) || (decide (0x008 ≤ y) && decide (y ≤ 0x00B)) || (decide (0x010 ≤ y) && decide (y ≤ 0x013)) ||
  y == 0x018 || y == 0x019 || (decide (0x020 ≤ y) && decide (y ≤ 0x022)) || (decide (0x030 ≤ y) && decide (y ≤ 0x034)) ||
  (decide (0x040 ≤ y) && decide (y ≤ 0x04F)) || (decide (0x800 ≤ y) && decide (y ≤ 0x802))

/-- The static legality of an instruction. -/
def Instr.wellFormed : Instr → Bool
  | .clauseHeader _ _ q o _ _ _ _ _ _ _ c n => n != 0 && c != 7 && (o || q == 0)
  | .add _ _ _ b u _ _ _ => uOk u b
  | .sub _ _ _ b u _ _ _ => uOk u b
  | .mull _ _ _ b u _ _ _ => uOk u b
  | .mulh _ _ _ b u _ _ => uOk u b
  | .imad _ _ _ b u _ _ _ => uOk u b
  | .and _ _ _ b u => uOk u b
  | .or _ _ _ b u => uOk u b
  | .xor _ _ _ b u => uOk u b
  | .andn _ _ _ b u => uOk u b
  | .shl _ _ _ b u _ => uOk u b
  | .shr _ _ _ b u _ _ => uOk u b
  | .rot _ _ _ b u _ => uOk u b
  | .min _ _ _ b u _ _ => uOk u b
  | .max _ _ _ b u _ _ => uOk u b
  | .absd _ _ _ b u _ _ => uOk u b
  | .cmp _ _ _ b u _ _ _ => uOk u b
  | .sel _ _ _ b u _ => uOk u b
  | .popc _ _ _ _ => true
  | .clz _ _ _ _ => true
  | .bfx _ _ _ b u _ => uOk u b
  | .bfi _ _ _ b u => uOk u b
  | .dot4 _ _ _ b u _ _ _ => uOk u b
  | .mulw _ _ _ b u w _ _ => uOk u b && w != 0
  | .addi _ _ _ _ => true
  | .andi _ _ _ _ => true
  | .ori _ _ _ _ => true
  | .xori _ _ _ _ => true
  | .shfi _ _ _ _ _ => true
  | .movi _ _ _ => true
  | .movh _ _ _ _ => true
  | .lea _ _ _ b u _ => uOk u b
  | .fadd _ _ _ b u w f _ => uOk u b && kindOk w f
  | .fsub _ _ _ b u w f _ => uOk u b && kindOk w f
  | .fmul _ _ _ b u w f _ => uOk u b && kindOk w f
  | .ffma _ _ _ b u w f _ => uOk u b && kindOk w f
  | .fmin _ _ _ b u w f => uOk u b && kindOk w f
  | .fmax _ _ _ b u w f => uOk u b && kindOk w f
  | .fcmp _ _ _ b u w f _ => uOk u b && kindOk w f
  | .fsgn _ _ _ b u w f c => kindOk w f && (if c.toNat < 2 then b == 0 && !u else uOk u b)
  | .fcvt _ _ _ c k x w f _ => kindOk w f && c != 15 && (if x then decide (c.toNat < 8) else k == 0)
  | .fqst _ _ _ i x _ k w z => fqstOk w k z && (x || i == 0)
  | .fcls _ _ _ w f => kindOk w f
  | .fscl _ _ _ b u w f _ => uOk u b && kindOk w f
  | .fdot2 _ _ _ b u _ _ _ => uOk u b
  | .frnd _ _ _ w f _ => kindOk w f
  | .rcp _ _ _ w f g => sfuOk true w f g
  | .rsq _ _ _ w f g => sfuOk true w f g
  | .sqrt _ _ _ w f g => sfuOk true w f g
  | .exp2 _ _ _ w f g => sfuOk true w f g
  | .log2 _ _ _ w f g => sfuOk true w f g
  | .sin _ _ _ w f g => sfuOk false w f g
  | .cos _ _ _ w f g => sfuOk false w f g
  | .tanh _ _ _ w f g => sfuOk false w f g
  | .sigm _ _ _ w f g => sfuOk false w f g
  | .erf _ _ _ w f g => sfuOk false w f g
  | .gelu _ _ _ w f g => sfuOk false w f g
  | .silu _ _ _ w f g => sfuOk false w f g
  | .fdiv _ _ _ b u w f g => sfuOk true w f g && uOk u b
  | .uadd _ _ _ _ _ _ => true
  | .usub _ _ _ _ _ _ => true
  | .umul _ _ _ _ _ _ => true
  | .uand _ _ _ _ => true
  | .uor _ _ _ _ => true
  | .uxor _ _ _ _ => true
  | .ushf _ _ _ _ _ => true
  | .ucmp _ _ _ _ _ _ => true
  | .umovi _ _ _ _ => true
  | .uaddi _ _ _ _ => true
  | .ulea _ _ _ _ _ => true
  | .rfal _ _ _ => true
  | .xtow _ _ a _ sb w _ => noPort a && subOk w sb
  | .wtox _ _ _ => true
  | .umin _ _ _ _ _ => true
  | .umax _ _ _ _ _ => true
  | .lget _ d a _ sb w _ => noPort d && noPort a && subOk w sb
  | .lshf _ d a _ _ => noPort d && noPort a
  | .lred _ d a g _ m => noPort d && noPort a && (!g || m == 1 || m == 2)
  | .lscan _ d a _ g _ m => noPort d && noPort a && (!g || m == 1 || m == 2)
  | .vote _ _ a sb w _ => noPort a && subOk w sb
  | .sprm _ d a sb w m => noPort d && noPort a && sprmOk w sb m
  | .pack _ d a _ w m => noPort d && noPort a && w != 0 && m != 3
  | .unpk _ d a _ w m => noPort d && noPort a && w != 0 && (m == 0 || m == 1)
  | .ld _ _ _ _ z => z != 7
  | .st _ _ _ _ _ => true
  | .lds _ _ _ _ z => z != 7
  | .sts _ _ _ _ _ => true
  | .ldu _ _ _ _ z => z != 7
  | .stu _ _ _ _ _ => true
  | .amo _ _ _ _ _ _ _ => true
  | .cas _ _ _ _ _ _ => true
  | .red _ _ _ _ _ p => p != 6
  | .fenceRel _ c => c != 3
  | .fenceAcq _ c => c != 3
  | .fenceAr _ c => c != 3
  | .pref _ _ _ _ => true
  | .wback _ _ _ _ => true
  | .inval _ _ _ _ => true
  | .publ _ _ => true
  | .samo _ _ _ _ _ _ => true
  | .samoCas _ _ _ _ _ => true
  | .br _ p n _ => !(p == 7 && n)
  | .jmpr _ _ => true
  | .jmprLink _ _ _ => true
  | .call _ _ => true
  | .ret _ _ => true
  | .enrol _ _ => true
  | .rejoin _ _ => true
  | .strike _ _ => true
  | .exit _ => true
  | .txbeg _ _ => true
  | .txend _ => true
  | .retry _ => true
  | .txelse _ _ => true
  | .txabt _ _ => true
  | .tdec _ _ => true
  | .tspawn _ _ _ => true
  | .barv _ _ => true
  | .mma _ _ _ _ => true
  | .mmaAcc _ _ _ _ => true
  | .obRes _ _ _ _ => true
  | .obRel _ _ => true
  | .obSets _ _ _ => true
  | .obSetz _ _ _ => true
  | .accAcq _ _ => true
  | .accRel _ => true
  | .accZero _ _ => true
  | .accRd _ _ _ _ => true
  | .tileFetch _ _ _ => true
  | .tileDrain _ _ _ _ => true
  | .tileDradd _ _ _ _ => true
  | .tileUnpin _ _ => true
  | .push _ _ a _ _ => decide (a.toNat ≤ 24)
  | .pushx _ _ a _ _ => decide (a.toNat ≤ 52)
  | .mfs _ _ y => sysListed y.toNat
  | .mts _ _ y => sysListed y.toNat
  | .trap _ _ => true
  | .eret _ => true
  | .eretNext _ => true
  | .preend _ => true
  | .haltt _ => true
  | .halttRel _ => true
  | .timer _ d _ => decide (d.toNat ≤ 30)
  | .wsplit _ _ _ => true
  | .wsplitLdr _ _ _ => true
  | .wret _ => true
  | .wborrow _ _ _ => true
  | .idend _ => true
  | .nop _ => true
  | .yield _ => true
  | .sperrClear _ => true
  | .fpmodeWrite _ _ _ => true
  | .rgnctlWrite _ _ _ => true
  | .hvfWrite _ _ => true
  | .packageReset _ => true
  | .enqueueWrite _ _ _ _ _ => true
  | .postedEnqueueWrite _ => true
  | .hostBarRequest _ _ _ _ _ => true
  | .engineBatchPush _ => true
  | .teamDispatch _ => true
  | .dispatchReserve _ => true
  | .groupPark _ _ => true
  | .groupUnpark _ _ => true
  | .groupPromote _ _ => true
  | .streamLoad _ _ _ _ => true
  | .barrierContinuation _ _ => true
  | .demandFaultSave _ => true
  | .faultRingWrite _ => true
  | .teamEnd _ => true
  | .gridRetire _ => true
  | .logicalTimeTick _ => true
  | .loadReturn _ _ _ => true
  | .poisonConsumed _ _ _ => true
  | .storeAck _ => true
  | .sfuResult _ _ _ => true
  | .scratchpadArrival _ => true
  | .regionFillArrival _ _ => true
  | .teamKill _ _ => true
  | .txSleepTimeout _ _ => true
  | .accGrant _ => true
  | .tilePin _ _ => true
  | .mmaRetire _ => true
  | .drainDone _ => true
  | .timerFire _ _ => true
  | .sliceEnd _ => true
  | .saveBudgetExpiry _ => true
  | .sliceStart _ => true
  | .slackWatchdog _ => true
  | .ringRecordWrite _ _ => true
  | .coalesceTimer _ _ => true
  | .channelCommandIssue _ => true
  | .parityDeltaApply _ => true
  | .reconstructingRead _ => true
  | .parityRowRebuild _ _ => true
  | .patrolScrub _ _ => true
  | .stackLoss _ => true
  | .shelfModuleLoss _ => true
  | .pageWalk _ _ _ _ => true
  | .atsReply _ _ _ => true
  | .atsTimeout _ => true
  | .priResponse _ _ => true
  | .shootdownAck _ _ => true
  | .shootdownTimeout _ _ => true
  | .powerClockDown _ => true
  | .powerClockUp _ => true
  | .longshoreIngress _ _ => true
  | .remoteAckTimeout _ => true
  | .flitCheckFailure _ => true
  | .linkRetrainDone _ _ => true
  | .hostWriteError _ => true
  | .ideIntegrityFailure _ => true
  | .allreduce _ _ => true
  | .reduce _ _ => true
  | .broadcast _ _ => true
  | .allgather _ _ => true
  | .reducescatter _ _ => true
  | .getCapabilities _ => true
  | .negotiateAlgorithms _ => true
  | .getDigests _ => true
  | .getCertificate _ _ => true
  | .challenge _ _ => true
  | .getMeasurements _ _ _ => true
  | .keyExchange _ => true
  | .finish _ _ => true
  | .endSession _ _ => true
  | .securedMessageFailure _ => true
  | .ideKm _ _ _ => true
  | .lockInterfaceRequest _ _ => true
  | .startInterfaceRequest _ => true
  | .stopInterfaceRequest _ => true
  | .getDeviceInterfaceState _ => true
  | .relockRequest _ => true
  | .illegalInstruction _ => true
  | .illegalClauseHeader _ => true
  | .getDeviceInterfaceReport _ => true
  | .sluiceTokenRefill _ => true
  | .dieJunctionLimit _ _ => true
  | .powerGating _ _ => true
  | .commandCompletion => true
  | .amsgReceive => true
  | .lkrunPlace => true
  | .hostLinkDown => true
  | .nonceExpiry => true
  | .copy => true
  | .fill => true
  | .chain => true
  | .amsg => true
  | .evt => true
  | .rowcopy => true
  | .rowop => true
  | .rowzero => true
  | .scrub => true
  | .alloc => true
  | .free => true
  | .lkrun => true
  | .walk => true
  | .shelfRead => true
  | .shelfAppend => true
  | .vfcreate => true
  | .vfreset => true
  | .pairs => true
  | .slicemap => true
  | .artw => true
  | .stitch => true
  | .sluice => true
  | .pool => true
  | .roots => true
  | .shoot => true
  | .replay => true
  | .nbpool => true
  | .shelflogSetLog => true
  | .shelflogSetQuota => true
  | .shelflogTrim => true
  | .faq => true
  | .query => true
  | .claim => true
  | .claimCancel => true
  | .sramsplit => true
  | .limits => true
  | .readPoolRecord => true
  | .readEntryImage => true
  | .ringload => true
  | .pfconf => true
  | .fring => true
  | .lhfuse => true
  | .lhnonce => true
  | .lhunlock => true
  | .lhmeas => true
  | .lhbadRead => true
  | .lhbadAdd => true
  | .lhbadRemove => true
  | .mbegin => true
  | .mcopy => true
  | .mdirty => true
  | .mswitch => true
  | .mrelease => true
  | .mabort => true
  | .getVersion => true
  | .manufacturingFlow => true

end Sys2Proof
end

