-- ==== Sys2Proof/Decode.lean ====
section
/-! DEFINITION. The decoder from the encodings of R93, R102–R114 and the instruction chapters, total on every word and
on every list of bytes, and the encoder written from the same encodings. -/

namespace Sys2Proof

/-- Why a word is no instruction (R115). -/
inductive DecodeErr where
  /-- An OP value that R113 does not list, or a selector that R114 marks as none. -/
  | noInstruction
  /-- A reserved field is not zero (R7, R102). -/
  | reservedField
  /-- Fewer than four bytes are left. -/
  | truncated
  deriving DecidableEq, Repr

/-- Bits `lo` to `lo + n - 1` of a word as a number (R3). -/
def bits (w lo n : Nat) : Nat := w / 2 ^ lo % 2 ^ n

/-- A field of a word. -/
def fld (w lo n : Nat) : BitVec n := BitVec.ofNat n (w / 2 ^ lo)

/-- A one-bit field of a word. -/
def flag (w lo : Nat) : Bool := w / 2 ^ lo % 2 = 1

/-- A word's instruction when its reserved bits are as they must be. -/
def orReserved (ok : Bool) (i : Instr) : Except DecodeErr Instr := if ok then .ok i else .error .reservedField

/-- The instruction word `w` (R102, R113, R114), whose place is inside a clause. -/
def decodeInstr (w : Nat) : Except DecodeErr Instr :=
  match bits w 24 7 with
  | 0x01 => orReserved (bits w 2 1 == 0) (.add (flag w 31) (fld w 18 6) (fld w 12 6) (fld w 6 6) (flag w 5) (fld w 3 2) (flag w 1) (flag w 0))
  | 0x02 => orReserved (bits w 2 1 == 0) (.sub (flag w 31) (fld w 18 6) (fld w 12 6) (fld w 6 6) (flag w 5) (fld w 3 2) (flag w 1) (flag w 0))
  | 0x03 => orReserved (bits w 2 1 == 0) (.mull (flag w 31) (fld w 18 6) (fld w 12 6) (fld w 6 6) (flag w 5) (fld w 3 2) (flag w 1) (flag w 0))
  | 0x04 => orReserved (bits w 1 2 == 0) (.mulh (flag w 31) (fld w 18 6) (fld w 12 6) (fld w 6 6) (flag w 5) (fld w 3 2) (flag w 0))
  | 0x05 => orReserved (bits w 2 1 == 0) (.imad (flag w 31) (fld w 18 6) (fld w 12 6) (fld w 6 6) (flag w 5) (fld w 3 2) (flag w 1) (flag w 0))
  | 0x06 => orReserved (bits w 0 5 == 0) (.and (flag w 31) (fld w 18 6) (fld w 12 6) (fld w 6 6) (flag w 5))
  | 0x07 => orReserved (bits w 0 5 == 0) (.or (flag w 31) (fld w 18 6) (fld w 12 6) (fld w 6 6) (flag w 5))
  | 0x08 => orReserved (bits w 0 5 == 0) (.xor (flag w 31) (fld w 18 6) (fld w 12 6) (fld w 6 6) (flag w 5))
  | 0x09 => orReserved (bits w 0 5 == 0) (.andn (flag w 31) (fld w 18 6) (fld w 12 6) (fld w 6 6) (flag w 5))
  | 0x0A => orReserved (bits w 0 3 == 0) (.shl (flag w 31) (fld w 18 6) (fld w 12 6) (fld w 6 6) (flag w 5) (fld w 3 2))
  | 0x0B => orReserved (bits w 1 2 == 0) (.shr (flag w 31) (fld w 18 6) (fld w 12 6) (fld w 6 6) (flag w 5) (fld w 3 2) (flag w 0))
  | 0x0C => orReserved (bits w 0 3 == 0) (.rot (flag w 31) (fld w 18 6) (fld w 12 6) (fld w 6 6) (flag w 5) (fld w 3 2))
  | 0x0D => orReserved (bits w 1 2 == 0) (.min (flag w 31) (fld w 18 6) (fld w 12 6) (fld w 6 6) (flag w 5) (fld w 3 2) (flag w 0))
  | 0x0E => orReserved (bits w 1 2 == 0) (.max (flag w 31) (fld w 18 6) (fld w 12 6) (fld w 6 6) (flag w 5) (fld w 3 2) (flag w 0))
  | 0x0F => orReserved (bits w 1 2 == 0) (.absd (flag w 31) (fld w 18 6) (fld w 12 6) (fld w 6 6) (flag w 5) (fld w 3 2) (flag w 0))
  | 0x10 => orReserved (bits w 21 3 == 0) (.cmp (flag w 31) (fld w 18 3) (fld w 12 6) (fld w 6 6) (flag w 5) (fld w 3 2) (fld w 1 2) (flag w 0))
  | 0x11 => orReserved (bits w 3 2 == 0) (.sel (flag w 31) (fld w 18 6) (fld w 12 6) (fld w 6 6) (flag w 5) (fld w 0 3))
  | 0x12 => orReserved (bits w 5 7 == 0 && bits w 0 3 == 0) (.popc (flag w 31) (fld w 18 6) (fld w 12 6) (fld w 3 2))
  | 0x13 => orReserved (bits w 5 7 == 0 && bits w 0 3 == 0) (.clz (flag w 31) (fld w 18 6) (fld w 12 6) (fld w 3 2))
  | 0x14 => orReserved (bits w 1 4 == 0) (.bfx (flag w 31) (fld w 18 6) (fld w 12 6) (fld w 6 6) (flag w 5) (flag w 0))
  | 0x15 => orReserved (bits w 0 5 == 0) (.bfi (flag w 31) (fld w 18 6) (fld w 12 6) (fld w 6 6) (flag w 5))
  | 0x16 => orReserved (bits w 3 2 == 1) (.dot4 (flag w 31) (fld w 18 6) (fld w 12 6) (fld w 6 6) (flag w 5) (flag w 2) (flag w 1) (flag w 0))
  | 0x17 => orReserved (bits w 1 1 == 0) (.mulw (flag w 31) (fld w 18 6) (fld w 12 6) (fld w 6 6) (flag w 5) (fld w 3 2) (flag w 2) (flag w 0))
  | 0x18 => .ok (.addi (flag w 31) (fld w 18 6) (fld w 12 6) (fld w 0 12))
  | 0x19 => .ok (.andi (flag w 31) (fld w 18 6) (fld w 12 6) (fld w 0 12))
  | 0x1A => .ok (.ori (flag w 31) (fld w 18 6) (fld w 12 6) (fld w 0 12))
  | 0x1B => .ok (.xori (flag w 31) (fld w 18 6) (fld w 12 6) (fld w 0 12))
  | 0x1C => orReserved (bits w 6 4 == 0) (.shfi (flag w 31) (fld w 18 6) (fld w 12 6) (fld w 10 2) (fld w 0 6))
  | 0x1D => .ok (.movi (flag w 31) (fld w 18 6) (fld w 0 18))
  | 0x1E => .ok (.movh (flag w 31) (fld w 18 6) (fld w 16 2) (fld w 0 16))
  | 0x1F => orReserved (bits w 3 2 == 0) (.lea (flag w 31) (fld w 18 6) (fld w 12 6) (fld w 6 6) (flag w 5) (fld w 0 3))
  | 0x20 => .ok (.fadd (flag w 31) (fld w 18 6) (fld w 12 6) (fld w 6 6) (flag w 5) (fld w 3 2) (flag w 2) (fld w 0 2))
  | 0x21 => .ok (.fsub (flag w 31) (fld w 18 6) (fld w 12 6) (fld w 6 6) (flag w 5) (fld w 3 2) (flag w 2) (fld w 0 2))
  | 0x22 => .ok (.fmul (flag w 31) (fld w 18 6) (fld w 12 6) (fld w 6 6) (flag w 5) (fld w 3 2) (flag w 2) (fld w 0 2))
  | 0x23 => .ok (.ffma (flag w 31) (fld w 18 6) (fld w 12 6) (fld w 6 6) (flag w 5) (fld w 3 2) (flag w 2) (fld w 0 2))
  | 0x24 => orReserved (bits w 0 2 == 0) (.fmin (flag w 31) (fld w 18 6) (fld w 12 6) (fld w 6 6) (flag w 5) (fld w 3 2) (flag w 2))
  | 0x25 => orReserved (bits w 0 2 == 0) (.fmax (flag w 31) (fld w 18 6) (fld w 12 6) (fld w 6 6) (flag w 5) (fld w 3 2) (flag w 2))
  | 0x26 => orReserved (bits w 21 3 == 0) (.fcmp (flag w 31) (fld w 18 3) (fld w 12 6) (fld w 6 6) (flag w 5) (fld w 3 2) (flag w 2) (fld w 0 2))
  | 0x27 => .ok (.fsgn (flag w 31) (fld w 18 6) (fld w 12 6) (fld w 6 6) (flag w 5) (fld w 3 2) (flag w 2) (fld w 0 2))
  | 0x28 => .ok (.fcvt (flag w 31) (fld w 18 6) (fld w 12 6) (fld w 8 4) (fld w 6 2) (flag w 5) (fld w 3 2) (flag w 2) (fld w 0 2))
  | 0x29 => orReserved (bits w 11 1 == 0) (.fqst (flag w 31) (fld w 18 6) (fld w 12 6) (fld w 9 2) (flag w 8) (fld w 6 2) (flag w 5) (fld w 3 2) (fld w 0 3))
  | 0x2A => orReserved (bits w 5 7 == 0 && bits w 0 2 == 0) (.fcls (flag w 31) (fld w 18 6) (fld w 12 6) (fld w 3 2) (flag w 2))
  | 0x2B => .ok (.fscl (flag w 31) (fld w 18 6) (fld w 12 6) (fld w 6 6) (flag w 5) (fld w 3 2) (flag w 2) (fld w 0 2))
  | 0x2C => orReserved (bits w 4 1 == 1) (.fdot2 (flag w 31) (fld w 18 6) (fld w 12 6) (fld w 6 6) (flag w 5) (flag w 3) (flag w 2) (fld w 0 2))
  | 0x2D => orReserved (bits w 5 7 == 0) (.frnd (flag w 31) (fld w 18 6) (fld w 12 6) (fld w 3 2) (flag w 2) (fld w 0 2))
  | 0x30 => orReserved (bits w 5 7 == 0 && bits w 1 1 == 0) (.rcp (flag w 31) (fld w 18 6) (fld w 12 6) (fld w 3 2) (flag w 2) (flag w 0))
  | 0x31 => orReserved (bits w 5 7 == 0 && bits w 1 1 == 0) (.rsq (flag w 31) (fld w 18 6) (fld w 12 6) (fld w 3 2) (flag w 2) (flag w 0))
  | 0x32 => orReserved (bits w 5 7 == 0 && bits w 1 1 == 0) (.sqrt (flag w 31) (fld w 18 6) (fld w 12 6) (fld w 3 2) (flag w 2) (flag w 0))
  | 0x33 => orReserved (bits w 5 7 == 0 && bits w 1 1 == 0) (.exp2 (flag w 31) (fld w 18 6) (fld w 12 6) (fld w 3 2) (flag w 2) (flag w 0))
  | 0x34 => orReserved (bits w 5 7 == 0 && bits w 1 1 == 0) (.log2 (flag w 31) (fld w 18 6) (fld w 12 6) (fld w 3 2) (flag w 2) (flag w 0))
  | 0x35 => orReserved (bits w 5 7 == 0 && bits w 1 1 == 0) (.sin (flag w 31) (fld w 18 6) (fld w 12 6) (fld w 3 2) (flag w 2) (flag w 0))
  | 0x36 => orReserved (bits w 5 7 == 0 && bits w 1 1 == 0) (.cos (flag w 31) (fld w 18 6) (fld w 12 6) (fld w 3 2) (flag w 2) (flag w 0))
  | 0x37 => orReserved (bits w 5 7 == 0 && bits w 1 1 == 0) (.tanh (flag w 31) (fld w 18 6) (fld w 12 6) (fld w 3 2) (flag w 2) (flag w 0))
  | 0x38 => orReserved (bits w 5 7 == 0 && bits w 1 1 == 0) (.sigm (flag w 31) (fld w 18 6) (fld w 12 6) (fld w 3 2) (flag w 2) (flag w 0))
  | 0x39 => orReserved (bits w 5 7 == 0 && bits w 1 1 == 0) (.erf (flag w 31) (fld w 18 6) (fld w 12 6) (fld w 3 2) (flag w 2) (flag w 0))
  | 0x3A => orReserved (bits w 5 7 == 0 && bits w 1 1 == 0) (.gelu (flag w 31) (fld w 18 6) (fld w 12 6) (fld w 3 2) (flag w 2) (flag w 0))
  | 0x3B => orReserved (bits w 5 7 == 0 && bits w 1 1 == 0) (.silu (flag w 31) (fld w 18 6) (fld w 12 6) (fld w 3 2) (flag w 2) (flag w 0))
  | 0x3C => orReserved (bits w 1 1 == 0) (.fdiv (flag w 31) (fld w 18 6) (fld w 12 6) (fld w 6 6) (flag w 5) (fld w 3 2) (flag w 2) (flag w 0))
  | 0x40 => orReserved (bits w 23 1 == 0 && bits w 17 1 == 0 && bits w 11 1 == 0 && bits w 2 4 == 0) (.uadd (flag w 31) (fld w 18 5) (fld w 12 5) (fld w 6 5) (flag w 1) (flag w 0))
  | 0x41 => orReserved (bits w 23 1 == 0 && bits w 17 1 == 0 && bits w 11 1 == 0 && bits w 2 4 == 0) (.usub (flag w 31) (fld w 18 5) (fld w 12 5) (fld w 6 5) (flag w 1) (flag w 0))
  | 0x42 => orReserved (bits w 23 1 == 0 && bits w 17 1 == 0 && bits w 11 1 == 0 && bits w 2 4 == 0) (.umul (flag w 31) (fld w 18 5) (fld w 12 5) (fld w 6 5) (flag w 1) (flag w 0))
  | 0x43 => orReserved (bits w 23 1 == 0 && bits w 17 1 == 0 && bits w 11 1 == 0 && bits w 0 6 == 0) (.uand (flag w 31) (fld w 18 5) (fld w 12 5) (fld w 6 5))
  | 0x44 => orReserved (bits w 23 1 == 0 && bits w 17 1 == 0 && bits w 11 1 == 0 && bits w 0 6 == 0) (.uor (flag w 31) (fld w 18 5) (fld w 12 5) (fld w 6 5))
  | 0x45 => orReserved (bits w 23 1 == 0 && bits w 17 1 == 0 && bits w 11 1 == 0 && bits w 0 6 == 0) (.uxor (flag w 31) (fld w 18 5) (fld w 12 5) (fld w 6 5))
  | 0x46 => orReserved (bits w 23 1 == 0 && bits w 17 1 == 0 && bits w 11 1 == 0 && bits w 3 3 == 0 && bits w 0 1 == 0) (.ushf (flag w 31) (fld w 18 5) (fld w 12 5) (fld w 6 5) (fld w 1 2))
  | 0x47 => orReserved (bits w 21 3 == 0 && bits w 17 1 == 0 && bits w 11 1 == 0 && bits w 3 3 == 0) (.ucmp (flag w 31) (fld w 18 3) (fld w 12 5) (fld w 6 5) (fld w 1 2) (flag w 0))
  | 0x48 => orReserved (bits w 23 1 == 0) (.umovi (flag w 31) (fld w 18 5) (fld w 16 2) (fld w 0 16))
  | 0x49 => orReserved (bits w 23 1 == 0 && bits w 17 1 == 0) (.uaddi (flag w 31) (fld w 18 5) (fld w 12 5) (fld w 0 12))
  | 0x4A => orReserved (bits w 23 1 == 0 && bits w 17 1 == 0 && bits w 11 1 == 0 && bits w 3 3 == 0) (.ulea (flag w 31) (fld w 18 5) (fld w 12 5) (fld w 6 5) (fld w 0 3))
  | 0x4B => orReserved (bits w 23 1 == 0 && bits w 0 12 == 0) (.rfal (flag w 31) (fld w 18 5) (fld w 12 6))
  | 0x4C => orReserved (bits w 23 1 == 0 && bits w 1 1 == 0) (.xtow (flag w 31) (fld w 18 5) (fld w 12 6) (fld w 7 5) (fld w 4 3) (fld w 2 2) (flag w 0))
  | 0x4D => orReserved (bits w 17 1 == 0 && bits w 0 12 == 0) (.wtox (flag w 31) (fld w 18 6) (fld w 12 5))
  | 0x4E => orReserved (bits w 23 1 == 0 && bits w 17 1 == 0 && bits w 11 1 == 0 && bits w 1 5 == 0) (.umin (flag w 31) (fld w 18 5) (fld w 12 5) (fld w 6 5) (flag w 0))
  | 0x4F => orReserved (bits w 23 1 == 0 && bits w 17 1 == 0 && bits w 11 1 == 0 && bits w 1 5 == 0) (.umax (flag w 31) (fld w 18 5) (fld w 12 5) (fld w 6 5) (flag w 0))
  | 0x50 => .ok (.lget (flag w 31) (fld w 18 6) (fld w 12 6) (fld w 7 5) (fld w 4 3) (fld w 2 2) (fld w 0 2))
  | 0x51 => orReserved (bits w 2 5 == 0) (.lshf (flag w 31) (fld w 18 6) (fld w 12 6) (fld w 7 5) (fld w 0 2))
  | 0x52 => orReserved (bits w 8 4 == 0 && bits w 4 3 == 0) (.lred (flag w 31) (fld w 18 6) (fld w 12 6) (flag w 7) (fld w 2 2) (fld w 0 2))
  | 0x53 => orReserved (bits w 9 3 == 0 && bits w 4 3 == 0) (.lscan (flag w 31) (fld w 18 6) (fld w 12 6) (flag w 8) (flag w 7) (fld w 2 2) (fld w 0 2))
  | 0x54 => orReserved (bits w 21 3 == 0 && bits w 7 5 == 0) (.vote (flag w 31) (fld w 18 3) (fld w 12 6) (fld w 4 3) (fld w 2 2) (fld w 0 2))
  | 0x55 => orReserved (bits w 7 5 == 0) (.sprm (flag w 31) (fld w 18 6) (fld w 12 6) (fld w 4 3) (fld w 2 2) (fld w 0 2))
  | 0x56 => orReserved (bits w 5 7 == 0) (.pack (flag w 31) (fld w 18 6) (fld w 12 6) (flag w 4) (fld w 2 2) (fld w 0 2))
  | 0x57 => orReserved (bits w 5 7 == 0) (.unpk (flag w 31) (fld w 18 6) (fld w 12 6) (flag w 4) (fld w 2 2) (fld w 0 2))
  | 0x58 => .ok (.ld (flag w 31) (fld w 18 6) (fld w 12 6) (fld w 3 9) (fld w 0 3))
  | 0x59 => orReserved (bits w 2 1 == 0) (.st (flag w 31) (fld w 18 6) (fld w 12 6) (fld w 3 9) (fld w 0 2))
  | 0x5A => .ok (.lds (flag w 31) (fld w 18 6) (fld w 12 6) (fld w 3 9) (fld w 0 3))
  | 0x5B => orReserved (bits w 2 1 == 0) (.sts (flag w 31) (fld w 18 6) (fld w 12 6) (fld w 3 9) (fld w 0 2))
  | 0x5C => orReserved (bits w 23 1 == 0 && bits w 17 1 == 0) (.ldu (flag w 31) (fld w 18 5) (fld w 12 5) (fld w 3 9) (fld w 0 3))
  | 0x5D => orReserved (bits w 23 1 == 0 && bits w 17 1 == 0 && bits w 2 1 == 0) (.stu (flag w 31) (fld w 18 5) (fld w 12 5) (fld w 3 9) (fld w 0 2))
  | 0x5E => .ok (.amo (flag w 31) (fld w 18 6) (fld w 12 6) (fld w 6 6) (fld w 4 2) (flag w 3) (fld w 0 3))
  | 0x5F => orReserved (bits w 0 3 == 0) (.cas (flag w 31) (fld w 18 6) (fld w 12 6) (fld w 6 6) (fld w 4 2) (flag w 3))
  | 0x60 => orReserved (bits w 18 6 == 0) (.red (flag w 31) (fld w 12 6) (fld w 6 6) (fld w 4 2) (flag w 3) (fld w 0 3))
  | 0x61 =>
    match bits w 0 2 with
    | 1 => orReserved (bits w 4 20 == 0) (.fenceRel (flag w 31) (fld w 2 2))
    | 2 => orReserved (bits w 4 20 == 0) (.fenceAcq (flag w 31) (fld w 2 2))
    | 3 => orReserved (bits w 4 20 == 0) (.fenceAr (flag w 31) (fld w 2 2))
    | _ => .error .noInstruction
  | 0x62 => orReserved (bits w 19 5 == 0 && bits w 0 3 == 3) (.pref (flag w 31) (flag w 18) (fld w 12 6) (fld w 3 9))
  | 0x63 => orReserved (bits w 0 3 == 3) (.wback (flag w 31) (fld w 18 6) (fld w 12 6) (fld w 3 9))
  | 0x64 => orReserved (bits w 0 3 == 3) (.inval (flag w 31) (fld w 18 6) (fld w 12 6) (fld w 3 9))
  | 0x65 => orReserved (bits w 17 7 == 0 && bits w 0 12 == 0) (.publ (flag w 31) (fld w 12 5))
  | 0x66 =>
    match bits w 5 1 with
    | 0 => orReserved (bits w 4 1 == 0) (.samo (flag w 31) (fld w 18 6) (fld w 12 6) (fld w 6 6) (flag w 3) (fld w 0 3))
    | 1 => orReserved (bits w 4 1 == 0 && bits w 0 3 == 0) (.samoCas (flag w 31) (fld w 18 6) (fld w 12 6) (fld w 6 6) (flag w 3))
    | _ => .error .noInstruction
  | 0x68 => .ok (.br (flag w 31) (fld w 21 3) (flag w 20) (fld w 0 20))
  | 0x69 =>
    match bits w 0 1 with
    | 0 => orReserved (bits w 18 6 == 0 && bits w 1 11 == 0) (.jmpr (flag w 31) (fld w 12 6))
    | 1 => orReserved (bits w 1 11 == 0) (.jmprLink (flag w 31) (fld w 18 6) (fld w 12 6))
    | _ => .error .noInstruction
  | 0x6A => orReserved (bits w 20 4 == 14) (.call (flag w 31) (fld w 0 20))
  | 0x6B => orReserved (bits w 18 6 == 0 && bits w 0 12 == 0) (.ret (flag w 31) (fld w 12 6))
  | 0x6C => orReserved (bits w 21 3 == 0 && bits w 0 18 == 0) (.enrol (flag w 31) (fld w 18 3))
  | 0x6D => orReserved (bits w 21 3 == 0 && bits w 0 18 == 0) (.rejoin (flag w 31) (fld w 18 3))
  | 0x6E => orReserved (bits w 21 3 == 0 && bits w 0 18 == 0) (.strike (flag w 31) (fld w 18 3))
  | 0x6F => orReserved (bits w 0 24 == 0) (.exit (flag w 31))
  | 0x70 => orReserved (bits w 0 18 == 0) (.txbeg (flag w 31) (fld w 18 6))
  | 0x71 => orReserved (bits w 0 24 == 0) (.txend (flag w 31))
  | 0x72 => orReserved (bits w 0 24 == 0) (.retry (flag w 31))
  | 0x73 => orReserved (bits w 20 4 == 14) (.txelse (flag w 31) (fld w 0 20))
  | 0x74 => orReserved (bits w 6 18 == 0) (.txabt (flag w 31) (fld w 0 6))
  | 0x75 => orReserved (bits w 18 6 == 0 && bits w 0 12 == 0) (.tdec (flag w 31) (fld w 12 6))
  | 0x76 => orReserved (bits w 0 12 == 0) (.tspawn (flag w 31) (fld w 18 6) (fld w 12 6))
  | 0x77 => orReserved (bits w 18 6 == 0 && bits w 0 12 == 0) (.barv (flag w 31) (fld w 12 6))
  | 0x78 =>
    match bits w 0 1 with
    | 0 => orReserved (bits w 23 1 == 0 && bits w 17 1 == 0 && bits w 11 1 == 0 && bits w 1 5 == 0) (.mma (flag w 31) (fld w 18 5) (fld w 12 5) (fld w 6 5))
    | 1 => orReserved (bits w 23 1 == 0 && bits w 17 1 == 0 && bits w 11 1 == 0 && bits w 1 5 == 0) (.mmaAcc (flag w 31) (fld w 18 5) (fld w 12 5) (fld w 6 5))
    | _ => .error .noInstruction
  | 0x79 =>
    match bits w 0 2 with
    | 0 => orReserved (bits w 23 1 == 0 && bits w 17 1 == 0 && bits w 11 1 == 0 && bits w 2 4 == 0) (.obRes (flag w 31) (fld w 18 5) (fld w 12 5) (fld w 6 5))
    | 1 => orReserved (bits w 17 7 == 0 && bits w 2 10 == 0) (.obRel (flag w 31) (fld w 12 5))
    | 2 => orReserved (bits w 17 7 == 0 && bits w 11 1 == 0 && bits w 2 4 == 0) (.obSets (flag w 31) (fld w 12 5) (fld w 6 5))
    | 3 => orReserved (bits w 17 7 == 0 && bits w 11 1 == 0 && bits w 2 4 == 0) (.obSetz (flag w 31) (fld w 12 5) (fld w 6 5))
    | _ => .error .noInstruction
  | 0x7A =>
    match bits w 0 2 with
    | 0 => orReserved (bits w 17 7 == 0 && bits w 2 10 == 0) (.accAcq (flag w 31) (fld w 12 5))
    | 1 => orReserved (bits w 2 22 == 0) (.accRel (flag w 31))
    | 2 => orReserved (bits w 17 7 == 0 && bits w 2 10 == 0) (.accZero (flag w 31) (fld w 12 5))
    | 3 => orReserved (bits w 17 1 == 0 && bits w 11 1 == 0 && bits w 2 4 == 0) (.accRd (flag w 31) (fld w 18 6) (fld w 12 5) (fld w 6 5))
    | _ => .error .noInstruction
  | 0x7B =>
    match bits w 0 2 with
    | 0 => orReserved (bits w 17 7 == 0 && bits w 11 1 == 0 && bits w 2 4 == 0) (.tileFetch (flag w 31) (fld w 12 5) (fld w 6 5))
    | 1 => orReserved (bits w 23 1 == 0 && bits w 17 1 == 0 && bits w 11 1 == 0 && bits w 2 4 == 0) (.tileDrain (flag w 31) (fld w 18 5) (fld w 12 5) (fld w 6 5))
    | 2 => orReserved (bits w 23 1 == 0 && bits w 17 1 == 0 && bits w 11 1 == 0 && bits w 2 4 == 0) (.tileDradd (flag w 31) (fld w 18 5) (fld w 12 5) (fld w 6 5))
    | 3 => orReserved (bits w 17 7 == 0 && bits w 2 10 == 0) (.tileUnpin (flag w 31) (fld w 12 5))
    | _ => .error .noInstruction
  | 0x7C =>
    match bits w 8 1 with
    | 0 => orReserved (bits w 1 7 == 0) (.push (flag w 31) (fld w 18 6) (fld w 12 6) (fld w 9 3) (flag w 0))
    | 1 => orReserved (bits w 1 7 == 0) (.pushx (flag w 31) (fld w 18 6) (fld w 12 6) (fld w 9 3) (flag w 0))
    | _ => .error .noInstruction
  | 0x7D =>
    match bits w 12 6 with
    | 0 => .ok (.mfs (flag w 31) (fld w 18 6) (fld w 0 12))
    | 1 => .ok (.mts (flag w 31) (fld w 18 6) (fld w 0 12))
    | 2 => orReserved (bits w 18 6 == 0) (.trap (flag w 31) (fld w 0 12))
    | 3 => if flag w 0 then orReserved (bits w 18 6 == 0 && bits w 1 11 == 0) (.eretNext (flag w 31)) else orReserved (bits w 18 6 == 0 && bits w 1 11 == 0) (.eret (flag w 31))
    | 4 => orReserved (bits w 18 6 == 0 && bits w 0 12 == 0) (.preend (flag w 31))
    | 5 => if flag w 0 then orReserved (bits w 18 6 == 0 && bits w 1 11 == 0) (.halttRel (flag w 31)) else orReserved (bits w 18 6 == 0 && bits w 1 11 == 0) (.haltt (flag w 31))
    | 6 => orReserved (bits w 23 1 == 0 && bits w 3 9 == 0) (.timer (flag w 31) (fld w 18 5) (fld w 0 3))
    | _ => .error .noInstruction
  | 0x7E =>
    match bits w 0 3 with
    | 0 => if flag w 11 then orReserved (bits w 3 8 == 0) (.wsplitLdr (flag w 31) (fld w 18 6) (fld w 12 6)) else orReserved (bits w 3 8 == 0) (.wsplit (flag w 31) (fld w 18 6) (fld w 12 6))
    | 1 => orReserved (bits w 3 21 == 0) (.wret (flag w 31))
    | 2 => orReserved (bits w 3 9 == 0) (.wborrow (flag w 31) (fld w 18 6) (fld w 12 6))
    | 3 => orReserved (bits w 3 21 == 0) (.idend (flag w 31))
    | 4 => orReserved (bits w 3 21 == 0) (.nop (flag w 31))
    | 5 => orReserved (bits w 3 21 == 0) (.yield (flag w 31))
    | _ => .error .noInstruction
  | _ => .error .noInstruction

/-- The word `w` reached as a clause header (R93): a word with a bit of [31:21] set is no header. -/
def decodeHeader (w : Nat) : Except DecodeErr Instr :=
  orReserved (bits w 21 11 == 0) (.clauseHeader (flag w 20) (flag w 19) (fld w 15 4) (flag w 14) (flag w 13) (flag w 12) (flag w 11) (flag w 10) (flag w 9) (flag w 8) (flag w 7) (fld w 4 3) (fld w 0 4))

/-- A word read with no clause around it: words with [31:21] zero are headers, the rest instruction words. OP 0x00 is no
instruction, so no word has both readings (R93, R115). -/
def decodeWord (w : Nat) : Except DecodeErr Instr :=
  if bits w 21 11 = 0 then decodeHeader w else decodeInstr w

/-- The word at the front of a list of bytes, little-endian (R4, R92), and the bytes after it. -/
def wordOfBytes : List Byte → Except DecodeErr (Nat × List Byte)
  | b0 :: b1 :: b2 :: b3 :: t => .ok (b0.toNat + b1.toNat * 2 ^ 8 + b2.toNat * 2 ^ 16 + b3.toNat * 2 ^ 24, t)
  | _ => .error .truncated

/-- Decode the front of a list of bytes. -/
def decodeBytes (bs : List Byte) : Except DecodeErr (Instr × List Byte) :=
  match wordOfBytes bs with
  | .error e => .error e
  | .ok (w, t) =>
    match decodeWord w with
    | .error e => .error e
    | .ok i => .ok (i, t)

/-- The four bytes of a word, lowest address first (R4). -/
def bytesOfWord (w : Nat) : List Byte :=
  [BitVec.ofNat 8 w, BitVec.ofNat 8 (w / 2 ^ 8), BitVec.ofNat 8 (w / 2 ^ 16), BitVec.ofNat 8 (w / 2 ^ 24)]

/-- The instruction the decoder reads from a word numbered as the opcode table numbers it; every code word has 32 bits. -/
def decodeTableWord (nbits w : Nat) : Option Instr :=
  if nbits = 32 then
    match decodeBytes (bytesOfWord w) with
    | .ok (i, _) => some i
    | .error _ => none
  else none

/-- A flag as a number. -/
def flagNat (b : Bool) : Nat := if b then 1 else 0

/-- A word with the field `v` put at bit `lo`, where the word is still zero. -/
def put (w lo v : Nat) : Nat := w + v * 2 ^ lo

/-- The word of an instruction; a step without bits has none (R93, R102, R113, R114). -/
def encode : Instr → Option Nat
  | .clauseHeader l y q o t e r m f sm d c n => some (put (put (put (put (put (put (put (put (put (put (put (put (put 0x00000000 20 (flagNat l)) 19 (flagNat y)) 15 q.toNat) 14 (flagNat o)) 13 (flagNat t)) 12 (flagNat e)) 11 (flagNat r)) 10 (flagNat m)) 9 (flagNat f)) 8 (flagNat sm)) 7 (flagNat d)) 4 c.toNat) 0 n.toNat)
  | .add sm d a b u w t g => some (put (put (put (put (put (put (put (put 0x01000000 31 (flagNat sm)) 18 d.toNat) 12 a.toNat) 6 b.toNat) 5 (flagNat u)) 3 w.toNat) 1 (flagNat t)) 0 (flagNat g))
  | .sub sm d a b u w t g => some (put (put (put (put (put (put (put (put 0x02000000 31 (flagNat sm)) 18 d.toNat) 12 a.toNat) 6 b.toNat) 5 (flagNat u)) 3 w.toNat) 1 (flagNat t)) 0 (flagNat g))
  | .mull sm d a b u w t g => some (put (put (put (put (put (put (put (put 0x03000000 31 (flagNat sm)) 18 d.toNat) 12 a.toNat) 6 b.toNat) 5 (flagNat u)) 3 w.toNat) 1 (flagNat t)) 0 (flagNat g))
  | .mulh sm d a b u w g => some (put (put (put (put (put (put (put 0x04000000 31 (flagNat sm)) 18 d.toNat) 12 a.toNat) 6 b.toNat) 5 (flagNat u)) 3 w.toNat) 0 (flagNat g))
  | .imad sm d a b u w t g => some (put (put (put (put (put (put (put (put 0x05000000 31 (flagNat sm)) 18 d.toNat) 12 a.toNat) 6 b.toNat) 5 (flagNat u)) 3 w.toNat) 1 (flagNat t)) 0 (flagNat g))
  | .and sm d a b u => some (put (put (put (put (put 0x06000000 31 (flagNat sm)) 18 d.toNat) 12 a.toNat) 6 b.toNat) 5 (flagNat u))
  | .or sm d a b u => some (put (put (put (put (put 0x07000000 31 (flagNat sm)) 18 d.toNat) 12 a.toNat) 6 b.toNat) 5 (flagNat u))
  | .xor sm d a b u => some (put (put (put (put (put 0x08000000 31 (flagNat sm)) 18 d.toNat) 12 a.toNat) 6 b.toNat) 5 (flagNat u))
  | .andn sm d a b u => some (put (put (put (put (put 0x09000000 31 (flagNat sm)) 18 d.toNat) 12 a.toNat) 6 b.toNat) 5 (flagNat u))
  | .shl sm d a b u w => some (put (put (put (put (put (put 0x0A000000 31 (flagNat sm)) 18 d.toNat) 12 a.toNat) 6 b.toNat) 5 (flagNat u)) 3 w.toNat)
  | .shr sm d a b u w g => some (put (put (put (put (put (put (put 0x0B000000 31 (flagNat sm)) 18 d.toNat) 12 a.toNat) 6 b.toNat) 5 (flagNat u)) 3 w.toNat) 0 (flagNat g))
  | .rot sm d a b u w => some (put (put (put (put (put (put 0x0C000000 31 (flagNat sm)) 18 d.toNat) 12 a.toNat) 6 b.toNat) 5 (flagNat u)) 3 w.toNat)
  | .min sm d a b u w g => some (put (put (put (put (put (put (put 0x0D000000 31 (flagNat sm)) 18 d.toNat) 12 a.toNat) 6 b.toNat) 5 (flagNat u)) 3 w.toNat) 0 (flagNat g))
  | .max sm d a b u w g => some (put (put (put (put (put (put (put 0x0E000000 31 (flagNat sm)) 18 d.toNat) 12 a.toNat) 6 b.toNat) 5 (flagNat u)) 3 w.toNat) 0 (flagNat g))
  | .absd sm d a b u w g => some (put (put (put (put (put (put (put 0x0F000000 31 (flagNat sm)) 18 d.toNat) 12 a.toNat) 6 b.toNat) 5 (flagNat u)) 3 w.toNat) 0 (flagNat g))
  | .cmp sm p a b u w c g => some (put (put (put (put (put (put (put (put 0x10000000 31 (flagNat sm)) 18 p.toNat) 12 a.toNat) 6 b.toNat) 5 (flagNat u)) 3 w.toNat) 1 c.toNat) 0 (flagNat g))
  | .sel sm d a b u k => some (put (put (put (put (put (put 0x11000000 31 (flagNat sm)) 18 d.toNat) 12 a.toNat) 6 b.toNat) 5 (flagNat u)) 0 k.toNat)
  | .popc sm d a w => some (put (put (put (put 0x12000000 31 (flagNat sm)) 18 d.toNat) 12 a.toNat) 3 w.toNat)
  | .clz sm d a w => some (put (put (put (put 0x13000000 31 (flagNat sm)) 18 d.toNat) 12 a.toNat) 3 w.toNat)
  | .bfx sm d a b u g => some (put (put (put (put (put (put 0x14000000 31 (flagNat sm)) 18 d.toNat) 12 a.toNat) 6 b.toNat) 5 (flagNat u)) 0 (flagNat g))
  | .bfi sm d a b u => some (put (put (put (put (put 0x15000000 31 (flagNat sm)) 18 d.toNat) 12 a.toNat) 6 b.toNat) 5 (flagNat u))
  | .dot4 sm d a b u m t g => some (put (put (put (put (put (put (put (put 0x16000008 31 (flagNat sm)) 18 d.toNat) 12 a.toNat) 6 b.toNat) 5 (flagNat u)) 2 (flagNat m)) 1 (flagNat t)) 0 (flagNat g))
  | .mulw sm d a b u w h g => some (put (put (put (put (put (put (put (put 0x17000000 31 (flagNat sm)) 18 d.toNat) 12 a.toNat) 6 b.toNat) 5 (flagNat u)) 3 w.toNat) 2 (flagNat h)) 0 (flagNat g))
  | .addi sm d a i => some (put (put (put (put 0x18000000 31 (flagNat sm)) 18 d.toNat) 12 a.toNat) 0 i.toNat)
  | .andi sm d a i => some (put (put (put (put 0x19000000 31 (flagNat sm)) 18 d.toNat) 12 a.toNat) 0 i.toNat)
  | .ori sm d a i => some (put (put (put (put 0x1A000000 31 (flagNat sm)) 18 d.toNat) 12 a.toNat) 0 i.toNat)
  | .xori sm d a i => some (put (put (put (put 0x1B000000 31 (flagNat sm)) 18 d.toNat) 12 a.toNat) 0 i.toNat)
  | .shfi sm d a k n => some (put (put (put (put (put 0x1C000000 31 (flagNat sm)) 18 d.toNat) 12 a.toNat) 10 k.toNat) 0 n.toNat)
  | .movi sm d i => some (put (put (put 0x1D000000 31 (flagNat sm)) 18 d.toNat) 0 i.toNat)
  | .movh sm d h i => some (put (put (put (put 0x1E000000 31 (flagNat sm)) 18 d.toNat) 16 h.toNat) 0 i.toNat)
  | .lea sm d a b u k => some (put (put (put (put (put (put 0x1F000000 31 (flagNat sm)) 18 d.toNat) 12 a.toNat) 6 b.toNat) 5 (flagNat u)) 0 k.toNat)
  | .fadd sm d a b u w f r => some (put (put (put (put (put (put (put (put 0x20000000 31 (flagNat sm)) 18 d.toNat) 12 a.toNat) 6 b.toNat) 5 (flagNat u)) 3 w.toNat) 2 (flagNat f)) 0 r.toNat)
  | .fsub sm d a b u w f r => some (put (put (put (put (put (put (put (put 0x21000000 31 (flagNat sm)) 18 d.toNat) 12 a.toNat) 6 b.toNat) 5 (flagNat u)) 3 w.toNat) 2 (flagNat f)) 0 r.toNat)
  | .fmul sm d a b u w f r => some (put (put (put (put (put (put (put (put 0x22000000 31 (flagNat sm)) 18 d.toNat) 12 a.toNat) 6 b.toNat) 5 (flagNat u)) 3 w.toNat) 2 (flagNat f)) 0 r.toNat)
  | .ffma sm d a b u w f r => some (put (put (put (put (put (put (put (put 0x23000000 31 (flagNat sm)) 18 d.toNat) 12 a.toNat) 6 b.toNat) 5 (flagNat u)) 3 w.toNat) 2 (flagNat f)) 0 r.toNat)
  | .fmin sm d a b u w f => some (put (put (put (put (put (put (put 0x24000000 31 (flagNat sm)) 18 d.toNat) 12 a.toNat) 6 b.toNat) 5 (flagNat u)) 3 w.toNat) 2 (flagNat f))
  | .fmax sm d a b u w f => some (put (put (put (put (put (put (put 0x25000000 31 (flagNat sm)) 18 d.toNat) 12 a.toNat) 6 b.toNat) 5 (flagNat u)) 3 w.toNat) 2 (flagNat f))
  | .fcmp sm p a b u w f c => some (put (put (put (put (put (put (put (put 0x26000000 31 (flagNat sm)) 18 p.toNat) 12 a.toNat) 6 b.toNat) 5 (flagNat u)) 3 w.toNat) 2 (flagNat f)) 0 c.toNat)
  | .fsgn sm d a b u w f c => some (put (put (put (put (put (put (put (put 0x27000000 31 (flagNat sm)) 18 d.toNat) 12 a.toNat) 6 b.toNat) 5 (flagNat u)) 3 w.toNat) 2 (flagNat f)) 0 c.toNat)
  | .fcvt sm d a c k x w f r => some (put (put (put (put (put (put (put (put (put 0x28000000 31 (flagNat sm)) 18 d.toNat) 12 a.toNat) 8 c.toNat) 6 k.toNat) 5 (flagNat x)) 3 w.toNat) 2 (flagNat f)) 0 r.toNat)
  | .fqst sm t a i x r k w z => some (put (put (put (put (put (put (put (put (put 0x29000000 31 (flagNat sm)) 18 t.toNat) 12 a.toNat) 9 i.toNat) 8 (flagNat x)) 6 r.toNat) 5 (flagNat k)) 3 w.toNat) 0 z.toNat)
  | .fcls sm d a w f => some (put (put (put (put (put 0x2A000000 31 (flagNat sm)) 18 d.toNat) 12 a.toNat) 3 w.toNat) 2 (flagNat f))
  | .fscl sm d a b u w f r => some (put (put (put (put (put (put (put (put 0x2B000000 31 (flagNat sm)) 18 d.toNat) 12 a.toNat) 6 b.toNat) 5 (flagNat u)) 3 w.toNat) 2 (flagNat f)) 0 r.toNat)
  | .fdot2 sm d a b u w f r => some (put (put (put (put (put (put (put (put 0x2C000010 31 (flagNat sm)) 18 d.toNat) 12 a.toNat) 6 b.toNat) 5 (flagNat u)) 3 (flagNat w)) 2 (flagNat f)) 0 r.toNat)
  | .frnd sm d a w f r => some (put (put (put (put (put (put 0x2D000000 31 (flagNat sm)) 18 d.toNat) 12 a.toNat) 3 w.toNat) 2 (flagNat f)) 0 r.toNat)
  | .rcp sm d a w f g => some (put (put (put (put (put (put 0x30000000 31 (flagNat sm)) 18 d.toNat) 12 a.toNat) 3 w.toNat) 2 (flagNat f)) 0 (flagNat g))
  | .rsq sm d a w f g => some (put (put (put (put (put (put 0x31000000 31 (flagNat sm)) 18 d.toNat) 12 a.toNat) 3 w.toNat) 2 (flagNat f)) 0 (flagNat g))
  | .sqrt sm d a w f g => some (put (put (put (put (put (put 0x32000000 31 (flagNat sm)) 18 d.toNat) 12 a.toNat) 3 w.toNat) 2 (flagNat f)) 0 (flagNat g))
  | .exp2 sm d a w f g => some (put (put (put (put (put (put 0x33000000 31 (flagNat sm)) 18 d.toNat) 12 a.toNat) 3 w.toNat) 2 (flagNat f)) 0 (flagNat g))
  | .log2 sm d a w f g => some (put (put (put (put (put (put 0x34000000 31 (flagNat sm)) 18 d.toNat) 12 a.toNat) 3 w.toNat) 2 (flagNat f)) 0 (flagNat g))
  | .sin sm d a w f g => some (put (put (put (put (put (put 0x35000000 31 (flagNat sm)) 18 d.toNat) 12 a.toNat) 3 w.toNat) 2 (flagNat f)) 0 (flagNat g))
  | .cos sm d a w f g => some (put (put (put (put (put (put 0x36000000 31 (flagNat sm)) 18 d.toNat) 12 a.toNat) 3 w.toNat) 2 (flagNat f)) 0 (flagNat g))
  | .tanh sm d a w f g => some (put (put (put (put (put (put 0x37000000 31 (flagNat sm)) 18 d.toNat) 12 a.toNat) 3 w.toNat) 2 (flagNat f)) 0 (flagNat g))
  | .sigm sm d a w f g => some (put (put (put (put (put (put 0x38000000 31 (flagNat sm)) 18 d.toNat) 12 a.toNat) 3 w.toNat) 2 (flagNat f)) 0 (flagNat g))
  | .erf sm d a w f g => some (put (put (put (put (put (put 0x39000000 31 (flagNat sm)) 18 d.toNat) 12 a.toNat) 3 w.toNat) 2 (flagNat f)) 0 (flagNat g))
  | .gelu sm d a w f g => some (put (put (put (put (put (put 0x3A000000 31 (flagNat sm)) 18 d.toNat) 12 a.toNat) 3 w.toNat) 2 (flagNat f)) 0 (flagNat g))
  | .silu sm d a w f g => some (put (put (put (put (put (put 0x3B000000 31 (flagNat sm)) 18 d.toNat) 12 a.toNat) 3 w.toNat) 2 (flagNat f)) 0 (flagNat g))
  | .fdiv sm d a b u w f g => some (put (put (put (put (put (put (put (put 0x3C000000 31 (flagNat sm)) 18 d.toNat) 12 a.toNat) 6 b.toNat) 5 (flagNat u)) 3 w.toNat) 2 (flagNat f)) 0 (flagNat g))
  | .uadd sm d a b t g => some (put (put (put (put (put (put 0x40000000 31 (flagNat sm)) 18 d.toNat) 12 a.toNat) 6 b.toNat) 1 (flagNat t)) 0 (flagNat g))
  | .usub sm d a b t g => some (put (put (put (put (put (put 0x41000000 31 (flagNat sm)) 18 d.toNat) 12 a.toNat) 6 b.toNat) 1 (flagNat t)) 0 (flagNat g))
  | .umul sm d a b t g => some (put (put (put (put (put (put 0x42000000 31 (flagNat sm)) 18 d.toNat) 12 a.toNat) 6 b.toNat) 1 (flagNat t)) 0 (flagNat g))
  | .uand sm d a b => some (put (put (put (put 0x43000000 31 (flagNat sm)) 18 d.toNat) 12 a.toNat) 6 b.toNat)
  | .uor sm d a b => some (put (put (put (put 0x44000000 31 (flagNat sm)) 18 d.toNat) 12 a.toNat) 6 b.toNat)
  | .uxor sm d a b => some (put (put (put (put 0x45000000 31 (flagNat sm)) 18 d.toNat) 12 a.toNat) 6 b.toNat)
  | .ushf sm d a b k => some (put (put (put (put (put 0x46000000 31 (flagNat sm)) 18 d.toNat) 12 a.toNat) 6 b.toNat) 1 k.toNat)
  | .ucmp sm p a b c g => some (put (put (put (put (put (put 0x47000000 31 (flagNat sm)) 18 p.toNat) 12 a.toNat) 6 b.toNat) 1 c.toNat) 0 (flagNat g))
  | .umovi sm d h i => some (put (put (put (put 0x48000000 31 (flagNat sm)) 18 d.toNat) 16 h.toNat) 0 i.toNat)
  | .uaddi sm d a i => some (put (put (put (put 0x49000000 31 (flagNat sm)) 18 d.toNat) 12 a.toNat) 0 i.toNat)
  | .ulea sm d a b k => some (put (put (put (put (put 0x4A000000 31 (flagNat sm)) 18 d.toNat) 12 a.toNat) 6 b.toNat) 0 k.toNat)
  | .rfal sm d a => some (put (put (put 0x4B000000 31 (flagNat sm)) 18 d.toNat) 12 a.toNat)
  | .xtow sm d a l sb w m => some (put (put (put (put (put (put (put 0x4C000000 31 (flagNat sm)) 18 d.toNat) 12 a.toNat) 7 l.toNat) 4 sb.toNat) 2 w.toNat) 0 (flagNat m))
  | .wtox sm d a => some (put (put (put 0x4D000000 31 (flagNat sm)) 18 d.toNat) 12 a.toNat)
  | .umin sm d a b g => some (put (put (put (put (put 0x4E000000 31 (flagNat sm)) 18 d.toNat) 12 a.toNat) 6 b.toNat) 0 (flagNat g))
  | .umax sm d a b g => some (put (put (put (put (put 0x4F000000 31 (flagNat sm)) 18 d.toNat) 12 a.toNat) 6 b.toNat) 0 (flagNat g))
  | .lget sm d a l sb w m => some (put (put (put (put (put (put (put 0x50000000 31 (flagNat sm)) 18 d.toNat) 12 a.toNat) 7 l.toNat) 4 sb.toNat) 2 w.toNat) 0 m.toNat)
  | .lshf sm d a k m => some (put (put (put (put (put 0x51000000 31 (flagNat sm)) 18 d.toNat) 12 a.toNat) 7 k.toNat) 0 m.toNat)
  | .lred sm d a g w m => some (put (put (put (put (put (put 0x52000000 31 (flagNat sm)) 18 d.toNat) 12 a.toNat) 7 (flagNat g)) 2 w.toNat) 0 m.toNat)
  | .lscan sm d a e g w m => some (put (put (put (put (put (put (put 0x53000000 31 (flagNat sm)) 18 d.toNat) 12 a.toNat) 8 (flagNat e)) 7 (flagNat g)) 2 w.toNat) 0 m.toNat)
  | .vote sm p a sb w m => some (put (put (put (put (put (put 0x54000000 31 (flagNat sm)) 18 p.toNat) 12 a.toNat) 4 sb.toNat) 2 w.toNat) 0 m.toNat)
  | .sprm sm d a sb w m => some (put (put (put (put (put (put 0x55000000 31 (flagNat sm)) 18 d.toNat) 12 a.toNat) 4 sb.toNat) 2 w.toNat) 0 m.toNat)
  | .pack sm d a h w m => some (put (put (put (put (put (put 0x56000000 31 (flagNat sm)) 18 d.toNat) 12 a.toNat) 4 (flagNat h)) 2 w.toNat) 0 m.toNat)
  | .unpk sm d a h w m => some (put (put (put (put (put (put 0x57000000 31 (flagNat sm)) 18 d.toNat) 12 a.toNat) 4 (flagNat h)) 2 w.toNat) 0 m.toNat)
  | .ld sm t a o z => some (put (put (put (put (put 0x58000000 31 (flagNat sm)) 18 t.toNat) 12 a.toNat) 3 o.toNat) 0 z.toNat)
  | .st sm t a o z => some (put (put (put (put (put 0x59000000 31 (flagNat sm)) 18 t.toNat) 12 a.toNat) 3 o.toNat) 0 z.toNat)
  | .lds sm t a o z => some (put (put (put (put (put 0x5A000000 31 (flagNat sm)) 18 t.toNat) 12 a.toNat) 3 o.toNat) 0 z.toNat)
  | .sts sm t a o z => some (put (put (put (put (put 0x5B000000 31 (flagNat sm)) 18 t.toNat) 12 a.toNat) 3 o.toNat) 0 z.toNat)
  | .ldu sm t a o z => some (put (put (put (put (put 0x5C000000 31 (flagNat sm)) 18 t.toNat) 12 a.toNat) 3 o.toNat) 0 z.toNat)
  | .stu sm t a o z => some (put (put (put (put (put 0x5D000000 31 (flagNat sm)) 18 t.toNat) 12 a.toNat) 3 o.toNat) 0 z.toNat)
  | .amo sm d a b o w p => some (put (put (put (put (put (put (put 0x5E000000 31 (flagNat sm)) 18 d.toNat) 12 a.toNat) 6 b.toNat) 4 o.toNat) 3 (flagNat w)) 0 p.toNat)
  | .cas sm d a b o w => some (put (put (put (put (put (put 0x5F000000 31 (flagNat sm)) 18 d.toNat) 12 a.toNat) 6 b.toNat) 4 o.toNat) 3 (flagNat w))
  | .red sm a b o w p => some (put (put (put (put (put (put 0x60000000 31 (flagNat sm)) 12 a.toNat) 6 b.toNat) 4 o.toNat) 3 (flagNat w)) 0 p.toNat)
  | .fenceRel sm c => some (put (put 0x61000001 31 (flagNat sm)) 2 c.toNat)
  | .fenceAcq sm c => some (put (put 0x61000002 31 (flagNat sm)) 2 c.toNat)
  | .fenceAr sm c => some (put (put 0x61000003 31 (flagNat sm)) 2 c.toNat)
  | .pref sm l a o => some (put (put (put (put 0x62000003 31 (flagNat sm)) 18 (flagNat l)) 12 a.toNat) 3 o.toNat)
  | .wback sm n a o => some (put (put (put (put 0x63000003 31 (flagNat sm)) 18 n.toNat) 12 a.toNat) 3 o.toNat)
  | .inval sm n a o => some (put (put (put (put 0x64000003 31 (flagNat sm)) 18 n.toNat) 12 a.toNat) 3 o.toNat)
  | .publ sm a => some (put (put 0x65000000 31 (flagNat sm)) 12 a.toNat)
  | .samo sm d a b w p => some (put (put (put (put (put (put 0x66000000 31 (flagNat sm)) 18 d.toNat) 12 a.toNat) 6 b.toNat) 3 (flagNat w)) 0 p.toNat)
  | .samoCas sm d a b w => some (put (put (put (put (put 0x66000020 31 (flagNat sm)) 18 d.toNat) 12 a.toNat) 6 b.toNat) 3 (flagNat w))
  | .br sm p n o => some (put (put (put (put 0x68000000 31 (flagNat sm)) 21 p.toNat) 20 (flagNat n)) 0 o.toNat)
  | .jmpr sm a => some (put (put 0x69000000 31 (flagNat sm)) 12 a.toNat)
  | .jmprLink sm d a => some (put (put (put 0x69000001 31 (flagNat sm)) 18 d.toNat) 12 a.toNat)
  | .call sm o => some (put (put 0x6AE00000 31 (flagNat sm)) 0 o.toNat)
  | .ret sm a => some (put (put 0x6B000000 31 (flagNat sm)) 12 a.toNat)
  | .enrol sm k => some (put (put 0x6C000000 31 (flagNat sm)) 18 k.toNat)
  | .rejoin sm k => some (put (put 0x6D000000 31 (flagNat sm)) 18 k.toNat)
  | .strike sm k => some (put (put 0x6E000000 31 (flagNat sm)) 18 k.toNat)
  | .exit sm => some (put 0x6F000000 31 (flagNat sm))
  | .txbeg sm d => some (put (put 0x70000000 31 (flagNat sm)) 18 d.toNat)
  | .txend sm => some (put 0x71000000 31 (flagNat sm))
  | .retry sm => some (put 0x72000000 31 (flagNat sm))
  | .txelse sm o => some (put (put 0x73E00000 31 (flagNat sm)) 0 o.toNat)
  | .txabt sm c => some (put (put 0x74000000 31 (flagNat sm)) 0 c.toNat)
  | .tdec sm a => some (put (put 0x75000000 31 (flagNat sm)) 12 a.toNat)
  | .tspawn sm d a => some (put (put (put 0x76000000 31 (flagNat sm)) 18 d.toNat) 12 a.toNat)
  | .barv sm a => some (put (put 0x77000000 31 (flagNat sm)) 12 a.toNat)
  | .mma sm d a b => some (put (put (put (put 0x78000000 31 (flagNat sm)) 18 d.toNat) 12 a.toNat) 6 b.toNat)
  | .mmaAcc sm d a b => some (put (put (put (put 0x78000001 31 (flagNat sm)) 18 d.toNat) 12 a.toNat) 6 b.toNat)
  | .obRes sm d a b => some (put (put (put (put 0x79000000 31 (flagNat sm)) 18 d.toNat) 12 a.toNat) 6 b.toNat)
  | .obRel sm a => some (put (put 0x79000001 31 (flagNat sm)) 12 a.toNat)
  | .obSets sm a b => some (put (put (put 0x79000002 31 (flagNat sm)) 12 a.toNat) 6 b.toNat)
  | .obSetz sm a b => some (put (put (put 0x79000003 31 (flagNat sm)) 12 a.toNat) 6 b.toNat)
  | .accAcq sm a => some (put (put 0x7A000000 31 (flagNat sm)) 12 a.toNat)
  | .accRel sm => some (put 0x7A000001 31 (flagNat sm))
  | .accZero sm a => some (put (put 0x7A000002 31 (flagNat sm)) 12 a.toNat)
  | .accRd sm d a b => some (put (put (put (put 0x7A000003 31 (flagNat sm)) 18 d.toNat) 12 a.toNat) 6 b.toNat)
  | .tileFetch sm a b => some (put (put (put 0x7B000000 31 (flagNat sm)) 12 a.toNat) 6 b.toNat)
  | .tileDrain sm d a b => some (put (put (put (put 0x7B000001 31 (flagNat sm)) 18 d.toNat) 12 a.toNat) 6 b.toNat)
  | .tileDradd sm d a b => some (put (put (put (put 0x7B000002 31 (flagNat sm)) 18 d.toNat) 12 a.toNat) 6 b.toNat)
  | .tileUnpin sm a => some (put (put 0x7B000003 31 (flagNat sm)) 12 a.toNat)
  | .push sm q a p r => some (put (put (put (put (put 0x7C000000 31 (flagNat sm)) 18 q.toNat) 12 a.toNat) 9 p.toNat) 0 (flagNat r))
  | .pushx sm q a p r => some (put (put (put (put (put 0x7C000100 31 (flagNat sm)) 18 q.toNat) 12 a.toNat) 9 p.toNat) 0 (flagNat r))
  | .mfs sm d y => some (put (put (put 0x7D000000 31 (flagNat sm)) 18 d.toNat) 0 y.toNat)
  | .mts sm d y => some (put (put (put 0x7D001000 31 (flagNat sm)) 18 d.toNat) 0 y.toNat)
  | .trap sm i => some (put (put 0x7D002000 31 (flagNat sm)) 0 i.toNat)
  | .eret sm => some (put 0x7D003000 31 (flagNat sm))
  | .eretNext sm => some (put 0x7D003001 31 (flagNat sm))
  | .preend sm => some (put 0x7D004000 31 (flagNat sm))
  | .haltt sm => some (put 0x7D005000 31 (flagNat sm))
  | .halttRel sm => some (put 0x7D005001 31 (flagNat sm))
  | .timer sm d k => some (put (put (put 0x7D006000 31 (flagNat sm)) 18 d.toNat) 0 k.toNat)
  | .wsplit sm d a => some (put (put (put 0x7E000000 31 (flagNat sm)) 18 d.toNat) 12 a.toNat)
  | .wsplitLdr sm d a => some (put (put (put 0x7E000800 31 (flagNat sm)) 18 d.toNat) 12 a.toNat)
  | .wret sm => some (put 0x7E000001 31 (flagNat sm))
  | .wborrow sm d a => some (put (put (put 0x7E000002 31 (flagNat sm)) 18 d.toNat) 12 a.toNat)
  | .idend sm => some (put 0x7E000003 31 (flagNat sm))
  | .nop sm => some (put 0x7E000004 31 (flagNat sm))
  | .yield sm => some (put 0x7E000005 31 (flagNat sm))
  | .sperrClear _ => none
  | .fpmodeWrite _ _ _ => none
  | .rgnctlWrite _ _ _ => none
  | .hvfWrite _ _ => none
  | .packageReset _ => none
  | .enqueueWrite _ _ _ _ _ => none
  | .postedEnqueueWrite _ => none
  | .hostBarRequest _ _ _ _ _ => none
  | .engineBatchPush _ => none
  | .teamDispatch _ => none
  | .dispatchReserve _ => none
  | .groupPark _ _ => none
  | .groupUnpark _ _ => none
  | .groupPromote _ _ => none
  | .streamLoad _ _ _ _ => none
  | .barrierContinuation _ _ => none
  | .demandFaultSave _ => none
  | .faultRingWrite _ => none
  | .teamEnd _ => none
  | .gridRetire _ => none
  | .logicalTimeTick _ => none
  | .loadReturn _ _ _ => none
  | .poisonConsumed _ _ _ => none
  | .storeAck _ => none
  | .sfuResult _ _ _ => none
  | .scratchpadArrival _ => none
  | .regionFillArrival _ _ => none
  | .teamKill _ _ => none
  | .txSleepTimeout _ _ => none
  | .accGrant _ => none
  | .tilePin _ _ => none
  | .mmaRetire _ => none
  | .drainDone _ => none
  | .timerFire _ _ => none
  | .sliceEnd _ => none
  | .saveBudgetExpiry _ => none
  | .sliceStart _ => none
  | .slackWatchdog _ => none
  | .ringRecordWrite _ _ => none
  | .coalesceTimer _ _ => none
  | .channelCommandIssue _ => none
  | .parityDeltaApply _ => none
  | .reconstructingRead _ => none
  | .parityRowRebuild _ _ => none
  | .patrolScrub _ _ => none
  | .stackLoss _ => none
  | .shelfModuleLoss _ => none
  | .pageWalk _ _ _ _ => none
  | .atsReply _ _ _ => none
  | .atsTimeout _ => none
  | .priResponse _ _ => none
  | .shootdownAck _ _ => none
  | .shootdownTimeout _ _ => none
  | .powerClockDown _ => none
  | .powerClockUp _ => none
  | .longshoreIngress _ _ => none
  | .remoteAckTimeout _ => none
  | .flitCheckFailure _ => none
  | .linkRetrainDone _ _ => none
  | .hostWriteError _ => none
  | .ideIntegrityFailure _ => none
  | .allreduce _ _ => none
  | .reduce _ _ => none
  | .broadcast _ _ => none
  | .allgather _ _ => none
  | .reducescatter _ _ => none
  | .getCapabilities _ => none
  | .negotiateAlgorithms _ => none
  | .getDigests _ => none
  | .getCertificate _ _ => none
  | .challenge _ _ => none
  | .getMeasurements _ _ _ => none
  | .keyExchange _ => none
  | .finish _ _ => none
  | .endSession _ _ => none
  | .securedMessageFailure _ => none
  | .ideKm _ _ _ => none
  | .lockInterfaceRequest _ _ => none
  | .startInterfaceRequest _ => none
  | .stopInterfaceRequest _ => none
  | .getDeviceInterfaceState _ => none
  | .relockRequest _ => none
  | .illegalInstruction _ => none
  | .illegalClauseHeader _ => none
  | .getDeviceInterfaceReport _ => none
  | .sluiceTokenRefill _ => none
  | .dieJunctionLimit _ _ => none
  | .powerGating _ _ => none
  | .commandCompletion => none
  | .amsgReceive => none
  | .lkrunPlace => none
  | .hostLinkDown => none
  | .nonceExpiry => none
  | .copy => none
  | .fill => none
  | .chain => none
  | .amsg => none
  | .evt => none
  | .rowcopy => none
  | .rowop => none
  | .rowzero => none
  | .scrub => none
  | .alloc => none
  | .free => none
  | .lkrun => none
  | .walk => none
  | .shelfRead => none
  | .shelfAppend => none
  | .vfcreate => none
  | .vfreset => none
  | .pairs => none
  | .slicemap => none
  | .artw => none
  | .stitch => none
  | .sluice => none
  | .pool => none
  | .roots => none
  | .shoot => none
  | .replay => none
  | .nbpool => none
  | .shelflogSetLog => none
  | .shelflogSetQuota => none
  | .shelflogTrim => none
  | .faq => none
  | .query => none
  | .claim => none
  | .claimCancel => none
  | .sramsplit => none
  | .limits => none
  | .readPoolRecord => none
  | .readEntryImage => none
  | .ringload => none
  | .pfconf => none
  | .fring => none
  | .lhfuse => none
  | .lhnonce => none
  | .lhunlock => none
  | .lhmeas => none
  | .lhbadRead => none
  | .lhbadAdd => none
  | .lhbadRemove => none
  | .mbegin => none
  | .mcopy => none
  | .mdirty => none
  | .mswitch => none
  | .mrelease => none
  | .mabort => none
  | .getVersion => none
  | .manufacturingFlow => none

end Sys2Proof
end

