-- ==== Sys2Proof/Machine/State.lean ====
section
/-! DEFINITION. The machine's state as plain data: everything the manual gives the device, unit by unit, and
State.reset, the package right after reset, before the start-up sequence of R26. -/

namespace Sys2Proof.Machine

open Sys2Proof

/-- A place in the code: a clause header's address, how many words past it the thread stands (0: at the header),
and the CLASS, N and Y that the header gave when it was taken (R92). The word's address is `hdr + 4 * pos`. -/
structure CodePt where
  hdr : Addr48 := 0
  pos : Nat := 0
  cls : Nat := 0
  n : Nat := 0
  /-- The header's yield hint Y (R96). -/
  y : Bool := false
  deriving DecidableEq, Repr

/-- What a lane is doing (R32, R233, R241, R249). -/
inductive Run where
  | running
  | exited
  | rejoin (k : Nat)
  | txend
  | barv (off : Nat)
  deriving DecidableEq, Repr

/-- Trap registers kept beneath those of a save handler (R417). -/
structure TrapBelow where
  cause : Word := 0
  pc : Word := 0
  addr : Word := 0
  pt : CodePt := {}
  inTrap : Bool := false
  tx : Option (CodePt × Nat × Word) := none
  deriving DecidableEq, Repr

/-- The system state of one thread (R30, R129, R415–R417, R431). -/
structure Thread where
  /-- Where the thread stands. -/
  pt : CodePt := {}
  run : Run := .running
  /-- Parked by a switch marker until its outstanding results are written (R99). -/
  waitRes : Bool := false
  /-- The issue number at which the thread reached the header it stands at (R95). -/
  reached : Option Nat := none
  /-- The next fetch of the header at SY.BPADDR does not trap (R257). -/
  bpSkip : Bool := false
  trapCause : Word := 0
  trapPc : Word := 0
  trapAddr : Word := 0
  /-- Trap-handler state (R415). -/
  inTrap : Bool := false
  /-- The resumption point that SY.TRAPPC names, with its clause (R92, R257). -/
  trapPt : CodePt := {}
  /-- The pending ERET restarts a transaction: resume point and status for x[D] (R242). -/
  trapTx : Option (CodePt × Nat × Word) := none
  /-- In the save handler (R364). -/
  inSave : Bool := false
  preended : Bool := false
  /-- Marked spent by a forced save inside the handler (R365). -/
  spent : Bool := false
  /-- The barrier object at which it was parked when it entered the save handler (R249, R364). -/
  barred : Option Nat := none
  below : Option TrapBelow := none
  osat : BitVec 32 := 0
  tsm : Word := 0
  /-- The scope of a FENCE.ACQ that follows an atomic of the thread and still waits (R85, R218). -/
  acq : Option Nat := none
  txNest : BitVec 4 := 0
  depth : BitVec 4 := 0
  weight : Word := 0
  /-- A poisoned return not yet taken, with its address (R431), and the last stop point passed. -/
  poison : Option Nat := none
  stopPt : Option CodePt := none
  /-- Clauses captured in the loop buffer: header address and entries, newest first (R55). -/
  loopBuf : List (Nat × Nat) := []
  deriving DecidableEq, Repr

/-- One operand-queue port of one lane (R54). `got` are elements loaded and not popped, oldest first. -/
structure Port where
  got : List Word := []
  popped : Nat := 0
  /-- Elements pushed and not yet stored, oldest first; none where the value is still on its way. -/
  push : List (Option Word) := []
  pushed : Nat := 0
  stored : Nat := 0
  deriving DecidableEq, Repr

/-- Which WAIT condition covers an outstanding result (R95). -/
inductive PendKind where
  | ld
  | sf
  | eq
  /-- None: the predicate of a TIMER that a transaction holds (R464). -/
  | other
  deriving DecidableEq, Repr

/-- Which register file a result goes to (R413). -/
inductive RegFile where
  | x
  | w
  | p
  | port
  deriving DecidableEq, Repr

/-- An outstanding variable-latency result (R99, R100). -/
structure Pend where
  id : Nat
  seq : Nat
  kind : PendKind
  lane : Nat
  /-- The lanes of the issue, which a marker parks (R99). For a port, `addr` is the element's index. -/
  lanes : LaneMask := 0
  file : RegFile
  reg : Nat
  val : Word
  /-- False when a later write to the same register stands instead (R100). -/
  live : Bool := true
  poison : Bool := false
  addr : Nat := 0
  /-- False while the value does not exist yet (a queued matrix read, a held action). -/
  ready : Bool := true
  /-- The result of ACC.RD (R413). -/
  acc : Bool := false
  /-- A value from memory, for which FENCE.ACQ waits (R78). -/
  mem : Bool := false
  /-- 1 from another package, 2 from the host, with the time of issue (R446, R448). -/
  remote : Nat := 0
  since : Word := 0
  /-- A load of another package's memory that is performed only when it returns: memory key, bytes, sign extension (R82). -/
  src : Option (Nat × Nat × Bool) := none
  deriving DecidableEq, Repr

/-- A checkpoint of a transaction or of a frame (R239, R243). -/
structure Ckpt where
  /-- The issue number at which it was taken. -/
  seq : Nat := 0
  x : SMap Word := []
  p : SMap LaneMask := []
  enr : SMap LaneMask := []
  arr : SMap LaneMask := []
  w : SMap Word := []
  weight : SMap Word := []
  deriving DecidableEq, Repr

/-- An action held inside a transaction until its commit (R240, R464). -/
inductive Held where
  | push (qn : Nat) (img : BitVec 512) (wlane : Nat) (flags : LaneMask) (pd : Nat) (rel : Bool) (pend : List Nat)
  | tspawn (lane : Nat) (d : Nat) (addr : Nat) (pend : Nat)
  | tdec (lane : Nat) (addr : Nat)
  | timer (addr : Nat) (at_ : Word) (pend : List Nat)
  | wret (lane : Nat)
  | wborrow (lane : Nat) (d : Nat) (n : Word) (pend : Nat)
  deriving DecidableEq, Repr

/-- What a transaction has gathered (R86, R87). `writes` holds the stored bytes by memory key. -/
structure TxData where
  wlines : List Nat := []
  writes : SMap (Option Byte) := []
  publs : List Nat := []
  held : List Held := []
  /-- Lines stored to through twin descriptors: the line, the descriptor's key, ACT as read, the same line of the other backing (R340). -/
  twins : List (Nat × Nat × Nat × Nat) := []
  /-- Units that WSPLIT took from threads outside the transaction: group, lane, units (R240). -/
  donors : List (Nat × Nat × Nat) := []
  deriving DecidableEq, Repr

/-- An open TXELSE frame (R243). -/
structure TxFrame where
  alt : CodePt := {}
  ck : Ckpt := {}
  data : TxData := {}
  deriving DecidableEq, Repr

/-- An open transaction of a group (R239). -/
structure Tx where
  parts : LaneMask := 0
  dreg : Nat := 0
  beg : CodePt := {}
  aft : CodePt := {}
  ck : Ckpt := {}
  reads : List Nat := []
  data : TxData := {}
  frames : List TxFrame := []
  /-- Priority of R89 and the begin timestamp. -/
  prio : Bool := false
  ts : Int := 0
  deriving DecidableEq, Repr

/-- The scheduling state of a group (R50). -/
inductive GState where
  | ready
  | active
  | parked
  | barrier
  | sleep
  | saved
  | done
  deriving DecidableEq, Repr

/-- How a group comes along. Cycles are counted from one here, so that 0 stands for none. -/
structure Pace where
  /-- The cycle in which the group began to wait at its present word (R51). -/
  since : Nat := 0
  /-- Its word was last held: at a header's WAIT conditions, at an empty port, at a fence (R51, R95, R105, R222). -/
  holding : Bool := false
  /-- The cycle of its last issue, and that in which its word was last tried and not issued (R49). -/
  issued : Nat := 0
  tried : Nat := 0
  /-- The shared system register that it wrote last, and in which cycle (R127). -/
  wrote : Nat × Nat := (0, 0)
  /-- Scratchpad lines that it needs and that are absent (R69). -/
  needs : List Nat := []
  deriving DecidableEq, Repr

/-- A group of 32 threads (R30). Thread registers are keyed 64·lane + number, ports 4·lane + number. -/
structure Group where
  st : GState := .ready
  halt : Bool := false
  /-- The cycle at which the group last entered READY or ACTIVE from another state (R49). -/
  since : Nat := 0
  /-- How the group comes along: its waits (R51, R69) and its issues in the present cycle (R49, R127). -/
  pace : Pace := {}
  sleepTime : Word := 0
  youngUntil : Nat := 0
  x : SMap Word := []
  w : SMap Word := []
  p : SMap LaneMask := []
  enr : SMap LaneMask := []
  arr : SMap LaneMask := []
  amax : SMap Word := []
  fpmode : Word := 0
  srcnt : BitVec 32 := 0
  thr : SMap Thread := []
  ports : SMap Port := []
  out : List Pend := []
  tx : Option Tx := none
  txConfl : Nat := 0
  /-- Units that an abort gives back to threads outside the transaction (R240). -/
  refund : List (Nat × Nat × Nat) := []
  /-- Lanes whose commands a PUSHX under way has pushed (R283). -/
  pushed : LaneMask := 0
  /-- The barrier object the group waits on, and whether its continuation was created (R56). -/
  barOff : Option Nat := none
  cont : Bool := false
  /-- The stage and page whose demand fault has parked a group of a harbour core until REPLAY; (0, 0) for a page that nothing else brings (R438). -/
  awaits : Option (Nat × Nat) := none
  deriving DecidableEq, Repr

/-- A 128-byte line that a tile touches, as translated: its virtual address, where it begins in device-physical memory and as a memory key,
its page's COH; through a twin descriptor, the descriptor's key, ACT as read, and the line's key in the other backing (R340). -/
structure TileLine where
  va : Nat := 0
  pa : Nat := 0
  key : Nat := 0
  coh : Nat := 0
  twin : Option (Nat × Nat × Nat) := none
  deriving DecidableEq, Repr

/-- A tile binding of a reservation record (R266, R270). State: 1 fetching, 2 pinned. -/
structure Binding where
  row0 : Nat := 0
  k0 : Nat := 0
  keep : Bool := false
  st : Nat := 1
  /-- The group and issue that fetched it (R95). -/
  grp : Nat := 0
  seq : Nat := 0
  capS : Nat := 0
  capZ : Nat := 0
  stale : Bool := false
  poison : Bool := false
  /-- Lines pinned, as memory keys divided by 128. -/
  lines : List Nat := []
  /-- The tile's lines as translated. -/
  map : List TileLine := []
  /-- The tile's bytes when it was pinned, by device-physical address. -/
  data : SMap Byte := []
  deriving DecidableEq, Repr

/-- A reservation record (R266). -/
structure ObRec where
  team : Nat := 0
  handle : Nat := 0
  d0 : Word := 0
  d1 : Word := 0
  d2 : Word := 0
  scale : BitVec 32 := 0
  sclp : Bool := false
  role : Nat := 0
  soff : Nat := 0
  zoff : Nat := 0
  /-- Bindings, oldest first, and the index of the oldest. -/
  binds : List Binding := []
  old : Nat := 0
  deriving DecidableEq, Repr

/-- The tile state of an accumulator bank (R275). -/
inductive TileSt where
  | clear
  | fp32
  | int32
  | fp64lo
  | fp64hi
  deriving DecidableEq, Repr

/-- One granted accumulator bank (R273, R275, R153). `val` holds elements keyed 64·row + column; for FP64 the low bank
holds the whole tile. -/
structure Bank where
  team : Nat := 0
  grp : Nat := 0
  idx : Nat := 0
  st : TileSt := .clear
  val : SMap Word := []
  flags : BitVec 64 := 0
  poison : BitVec 64 := 0
  sA : BitVec 32 := 0x3F800000
  sB : BitVec 32 := 0x3F800000
  deriving DecidableEq, Repr

/-- State of one scratchpad line (R69, R429). -/
structure SpLine where
  /-- The deadline stamp of the latest store to it (R318). -/
  stamp : Nat := 0
  absent : Bool := false
  pending : Nat := 0
  modified : Bool := false
  poison : Bool := false
  deriving DecidableEq, Repr

/-- One stream entry of an access descriptor (R53). -/
structure Stream where
  en : Bool := false
  out : Bool := false
  esz : Nat := 0
  base : Nat := 0
  step : Int := 0
  tstride : Int := 0
  count : Nat := 0
  tmstride : Int := 0
  gstride : Int := 0
  deriving DecidableEq, Repr

/-- Where a team comes from: a grid by its number, a command, the start-up (R26, R46, R289, R297). -/
inductive Origin where
  | grid (id : Nat)
  | lkrun (cmd : Nat)
  | amsg (cmd : Nat)
  /-- The harbour firmware that Lighthouse has released (R26). -/
  | firmware
  deriving DecidableEq, Repr

/-- Whether a team's context stands on its core, in a fault frame, with the device after a cooperative save, or waits
to be dispatched again after a discard (R60, R62, R258, R365). -/
inductive TeamSt where
  | resident
  | saved
  | coop
  | discarded
  | ended
  deriving DecidableEq, Repr

/-- A team (R30) with what its task record gives it (R33, R36) and its team-scope registers (R129). -/
structure Team where
  id : Nat := 0
  core : Nat := 0
  fn : Nat := 0
  harbour : Bool := false
  origin : Origin := .grid 0
  root : Nat := 0
  st : TeamSt := .resident
  lin : Nat := 0
  coord : Word := 0
  nteams : Nat := 0
  gpt : Nat := 1
  rblk : Nat := 1
  spl : Nat := 0
  prio : Nat := 0
  scls : Nat := 0
  dloff : Nat := 0
  idem : Bool := false
  discardable : Bool := false
  entry : Addr48 := 0
  args : Word := 0
  share : Word := 0
  tag : Nat := 0
  groups : SMap Group := []
  sp : SMap Byte := []
  lines : SMap SpLine := []
  rgnva : SMap Word := []
  rgnctl : SMap Word := []
  /-- Regions filled or filling, and lines of a fill still to arrive (R72). -/
  rgnFilled : SMap Bool := []
  rgnFill : SMap Nat := []
  trapvec : Word := 0
  sperr : Word := 0
  dbgctl : Word := 0
  bpaddr : Word := 0
  streams : SMap Stream := []
  /-- Held resident after a demand fault with no frame, until replay (R60, R296). -/
  held : Bool := false
  /-- The cause of a kill under way and the count of later causes (R419, R420). -/
  kill : Option Nat := none
  killCount : Nat := 0
  killAddr : Nat := 0
  killKind : Nat := 0
  killDetail : Nat := 0
  /-- When its first cause was detected (R404). -/
  killTime : Word := 0
  /-- In a cooperative save: the cycle at which the handler was entered (R365). -/
  saveSince : Option Nat := none
  /-- A demand fault was met and the save is still to be made (R60). -/
  faulted : Bool := false
  /-- The stage and page of the fault, where something other than a replay can end the wait: 2 a migration claim, 3 a PRI request
  (R342, R344). -/
  waitPage : Option (Nat × Nat) := none
  /-- The cooperative save has failed and a forced save is due (R364). -/
  forceSave : Bool := false
  /-- Records and banks kept by a save (R281). -/
  savedRecs : List ObRec := []
  savedBanks : List Bank := []
  /-- Matrix state is to be reserved and fetched again before the team issues (R281). -/
  mtxWait : Bool := false
  /-- The team holds a fault frame of its function (R60). -/
  frame : Bool := false
  frameNo : Nat := 0
  /-- Saved by a demand fault: it returns at a replay; otherwise at its function's next slice (R61, R366). -/
  byFault : Bool := false
  /-- Order in which teams were saved (R362). -/
  saveSeq : Nat := 0
  /-- A slice has ended, and the team's lanes are still to enter the save handler (R364). -/
  entering : Bool := false
  /-- Steps 1–4 of a kill are done (R419). -/
  killed : Bool := false
  /-- Its resources are released, and its stores are still to drain (R58). -/
  released : Bool := false
  /-- Resources released implicitly (R63). -/
  impl : Nat := 0
  /-- Weight kept by a discard (R62). -/
  carry : Word := 0
  /-- w0–w5 of R33, or the payload of an active message (R289). -/
  init : List Word := []
  /-- When the team was first found to fit no core (R47). -/
  blockedAt : Option Word := none
  deriving DecidableEq, Repr

/-- The state of an accepted task record in the device (R42–R47, R58). -/
inductive GridSt where
  | waiting
  | ready
  | running
  | heldPort
  | heldCount
  deriving DecidableEq, Repr

/-- An accepted task record as the device read it (R39), with the progress of its work. -/
structure Grid where
  /-- The model's number of the record. -/
  id : Nat := 0
  self : Nat := 0
  /-- The device-physical address at which the record is kept. -/
  pa : Nat := 0
  fn : Nat := 0
  harbour : Bool := false
  img : BitVec 1024 := 0
  st : GridSt := .waiting
  nteams : Nat := 0
  next : Nat := 0
  live : Nat := 0
  dims : Word := 0
  impl : Nat := 0
  failed : Bool := false
  fault : Nat := 0
  empty : Bool := false
  /-- The record stands in its function's ingress queue (R352, R386). -/
  inQ : Bool := false
  blockedAt : Option Word := none
  /-- Held at its next team or command after a demand fault, until replay (R45, R60). -/
  stuck : Bool := false
  deriving DecidableEq, Repr

/-- An entry of a ready queue: a grid's next team or a team that returns (R43, R61). -/
inductive Ready where
  | grid (id : Nat)
  | team (id : Nat)
  deriving DecidableEq, Repr

/-- The fields of an error record (R404). `time`: when the error was detected, where that is not the time of the report. -/
structure ErrInfo where
  time : Option Word := none
  skind : Nat := 0
  snum : Nat := 0
  cause : Nat := 0
  cls : Nat := 2
  dom : Nat := 0
  slice : Nat := 0
  vf : Nat := 0
  count : Nat := 1
  akind : Nat := 0
  addr : Nat := 0
  item : Nat := 0
  synd : Nat := 0
  tag : Nat := 0
  detail : Nat := 0
  deriving DecidableEq, Repr

/-- One thing that the device does on behalf of work (R58, R285, R464, R465). -/
inductive Deed where
  /-- Decrement DEPCNT of the record at an address. -/
  | dec (addr : Nat)
  /-- The same where the address is already translated; device-physical and virtual address. -/
  | decPa (pa addr : Nat)
  /-- Decrement the DEPCNT of `n` records that a list names. -/
  | decList (addr n : Nat)
  /-- Decrement CPLCNT of the record at an address. -/
  | decCpl (addr : Nat)
  /-- Return units of weight to a root. -/
  | ret (root units : Nat) (failed : Bool)
  /-- Write an error record; then wait until it stands in the ring or its backlog. -/
  | err (e : ErrInfo)
  /-- Write a record to an event ring, and wait until it is written. -/
  | post (ring : Nat) (v : BitVec 256)
  | await (ring id : Nat)
  /-- A record becomes ready (R42, R44). -/
  | ready (grid : Nat)
  /-- A phase ends (R59). -/
  | phase (grid : Nat)
  /-- Write a record image to its SELF and accept it (R39). -/
  | enqueue (img : BitVec 1024)
  /-- Write a malformed or refused image to its SELF with STATE 5 (R38). -/
  | keepFailed (img : BitVec 1024)
  /-- An action held by a transaction, for a team and group (R464). -/
  | held (t g : Nat) (h : Held)
  /-- The returns of a lane's WRET, held by a transaction, are performed (R251). -/
  | retDone (t g lane : Nat)
  /-- A borrow of WBORROW (R252). -/
  | borrow (t g lane : Nat) (n : Word) (pend : Nat)
  /-- A command's last write is performed (R285). -/
  | cmdEnd (id : Nat)
  /-- A team or a command of a record has ended, or failed with a cause (R45, R58). -/
  | itemEnd (grid cause : Nat)
  deriving DecidableEq, Repr

/-- Deeds that follow one another; `stuck`: the first waits for replay after a demand fault; `owner`: the lanes that
wait for the end. -/
structure Chain where
  fn : Nat := 0
  harbour : Bool := false
  deeds : List Deed := []
  stuck : Bool := false
  owner : Option (Nat × Nat × LaneMask) := none
  deriving DecidableEq, Repr

/-- The hardware scheduler (R42–R47): records, ready queues in readiness order, reserved cores, deeds under way. -/
structure Sched where
  grids : List Grid := []
  queue : List (Nat × Ready) := []
  reserved : List (Nat × Nat) := []
  chains : List Chain := []
  deriving DecidableEq, Repr

/-- Progress of an engine command (R283, R285). -/
inductive CmdSt where
  | held
  | queued
  | parked
  | sent
  | spawned
  | done
  deriving DecidableEq, Repr

/-- An accepted engine command (R283–R285): its queue, its pusher, its image and its outcome. -/
structure Cmd where
  id : Nat := 0
  qn : Nat := 0
  core : Nat := 0
  fn : Nat := 0
  harbour : Bool := false
  team : Nat := 0
  root : Nat := 0
  gridSelf : Nat := 0
  scls : Nat := 0
  dloff : Nat := 0
  img : BitVec 512 := 0
  wfrag : Word := 0
  st : CmdSt := .queued
  /-- The pushing lane and the stores it must see performed first (PUSH.REL, R283). -/
  rel : List Nat := []
  grp : Nat := 0
  lane : Nat := 0
  batch : Bool := false
  /-- The engine batch that pushed it. -/
  grid : Nat := 0
  /-- Started: its queue entry is free (R283). `pos`: how far a parked command has come. -/
  started : Bool := false
  pos : Nat := 0
  failed : Bool := false
  cause : Nat := 0
  detail : Nat := 0
  eaddr : Nat := 0
  /-- When the failure was detected (R404). -/
  failTime : Word := 0
  /-- Failures of single records: cause, address, index, time of detection (R308, R404). -/
  errs : List (Nat × Nat × Nat × Word) := []
  /-- The result word of a part, mig or lh command (R348). -/
  pst : Nat := 0
  /-- Its failure writes no error record (R289, R297). -/
  quiet : Bool := false
  /-- AKIND of `eaddr` (R404). -/
  akind : Nat := 0
  /-- Pages pinned for the command, as virtual and intermediate page (R313). -/
  pins : List (Nat × Nat) := []
  /-- Twin descriptors met, each with the backing that the command writes (R83). -/
  caps : List (Nat × Nat) := []
  /-- Lines of the window whose pending count it still holds (R69). -/
  lines : List Nat := []
  /-- The first shelf page assigned to an append (R329). -/
  spn : Nat := 0
  /-- A message from another package: its sender's number plus one, 0 for none (R289). -/
  far : Nat := 0
  /-- A message that has left for another package. -/
  away : Bool := false
  /-- Deltas of its writes that are sent and not applied (R325). -/
  deltas : List Nat := []
  /-- The cycle in which it arrived (R350). -/
  cycle : Nat := 0
  deriving DecidableEq, Repr

/-- A scratchpad line's share of a direct-mode command whose data are on their way (R69). -/
structure Arrival where
  id : Nat
  cmd : Nat
  team : Nat
  line : Nat
  bytes : List (Nat × Byte)
  deriving DecidableEq, Repr

/-- The engines: commands in acceptance order, scratchpad data on the way, live allocations (R306). -/
structure Eng where
  cmds : List Cmd := []
  arrivals : List Arrival := []
  deriving DecidableEq, Repr

/-- An operation in a pair's matrix queue (R262). Records and banks are physical ones; what the operation does to tile states
was settled at its issue (R275, R277), and stands here with it. -/
inductive MtxOp where
  /-- Accumulate or overwrite; tile state; its bank, or two for FP64; banks that it clears; records of A and B. -/
  | mma (acc : Bool) (st : TileSt) (bank : Nat) (hi : Option Nat) (clears : List Nat) (ra rb : Nat)
  | accZero (banks : List Nat)
  /-- The results that it gives: lane, result number. -/
  | accRd (bank row : Nat) (half : Bool) (st : TileSt) (idx : Nat) (pends : List (Nat × Nat))
  /-- Sum or store; tile state and scales; destination record, bank, origin, lines of memory. -/
  | drain (add : Bool) (st : TileSt) (sA sB : BitVec 32) (rec : Nat) (banks : List Nat) (row0 col0 : Nat) (lines : List TileLine)
  | unpin (rec : Nat) (all : Bool)
  | obRel (rec : Nat)
  | accRel (banks : List Nat)
  deriving DecidableEq, Repr

/-- A queued matrix operation with its team, group and lanes. -/
structure MtxEnt where
  team : Nat
  grp : Nat
  lanes : LaneMask := 0
  /-- The issue number (R95). -/
  seq : Nat := 0
  /-- A drain to SW memory, for which FENCE.REL waits (R278). -/
  sw : Bool := false
  /-- A drain to HC memory or to the window, which later accesses of its threads follow (R73, R278). -/
  hc : Bool := false
  op : MtxOp
  deriving DecidableEq, Repr

/-- The matrix unit of a pair (R262, R266, R273): records 0–47, banks 0–31, the queue, waiting requests for banks as team, group
and number, and grants whose ACC.ACQ has not yet retired. -/
structure PairMtx where
  recs : SMap (Option ObRec) := []
  banks : SMap (Option Bank) := []
  queue : List MtxEnt := []
  reqs : List (Nat × Nat × Nat) := []
  granted : List (Nat × Nat) := []
  deriving DecidableEq, Repr

/-- The device's copy of one event ring (R387, R390), and records waiting for it (R388, R406), each with the
number of its writer. A completion record takes the low 256 bits. -/
structure Ring where
  base : Nat := 0
  en : Bool := false
  log2n : Nat := 0
  vec : Nat := 0
  ccount : Nat := 0
  ctime : Nat := 0
  widx : BitVec 32 := 0
  pend : Nat := 0
  timer : Option Word := none
  wait : List (Nat × BitVec 512) := []
  deriving DecidableEq, Repr

/-- TDISP interface state (R371). -/
inductive Iface where
  | unlocked
  | locked
  | run
  | error
  deriving DecidableEq, Repr

/-- A page request (R343). -/
structure PageReq where
  addr : Nat := 0
  stage : Nat := 0
  kind : Nat := 0
  time : Word := 0
  deriving DecidableEq, Repr

/-- An event record withheld from a descheduled function (R369). -/
structure Withheld where
  ring : Nat := 0
  record : BitVec 512 := 0
  deriving DecidableEq, Repr

/-- An entry of a timer table (R260): record, absolute time; `stuck`: it waits for replay. -/
structure TimerEnt where
  addr : Nat := 0
  at_ : Word := 0
  harbour : Bool := false
  stuck : Bool := false
  deriving DecidableEq, Repr

/-- A context reset under way (R353, R443): the CAUSE of its last record (0: none), whether the interface enters ERROR at its end,
whether it waits for operations that cannot be pre-empted, whether it ends in STOP_INTERFACE_REQUEST's fresh keys (R371). -/
structure CtxReset where
  cause : Nat := 0
  toErr : Bool := false
  wait : Bool := true
  stop : Bool := false
  deriving DecidableEq, Repr

/-- A slice end past which work that cannot be pre-empted runs on (R368): its time, the OVRLIM of the pool in µs, and the commands. -/
structure Slack where
  time : Word := 0
  lim : Nat := 0
  ids : List Nat := []
  deriving DecidableEq, Repr

/-- The context of a function (R352, R359, R371, R385–R390, R462); number 0 is the physical function. -/
structure Fn where
  made : Bool := false
  bandLo : Nat := 0
  bandHi : Nat := 0
  iqDepth : Nat := 0
  ringTab : Nat := 0
  s1root : Option Nat := none
  s2root : Option Nat := none
  frames : Nat := 0
  nframes : Nat := 0
  used : Nat := 0
  iface : Iface := .unlocked
  repver : Nat := 0
  relock : Bool := false
  lockSess : Nat := 0
  prehdl : Word := 0
  prebud : Word := 20000
  /-- SY.PREHDL and SY.PREBUD as they stood at the function's last slice end, until the next one (R129). -/
  preAt : Word := 0
  budAt : Word := 20000
  rings : SMap Ring := []
  /-- Fault ring (R462): base, log2n, vector, vector enable, index word address. -/
  fring : Option (Nat × Nat × Nat × Bool × Nat) := none
  fwidx : BitVec 32 := 0
  backlog : List PageReq := []
  /-- Pages noted until the next replay: stage, first address, bytes (R343). -/
  noted : List (Nat × Nat × Nat) := []
  heldFault : Bool := false
  timers : List TimerEnt := []
  /-- Shelf log (R329): first page, pages, HEAD, start after trims; quota in pages. -/
  logBase : Nat := 0
  logLen : Nat := 0
  logHead : Nat := 0
  logStart : Nat := 0
  quota : Nat := 0
  /-- Sluice (R359, R360): bursts, rates, lowest debt; balances in thousandths of a token, and when they were last brought up. -/
  mburst : Nat := 0
  mrate : Nat := 0
  lburst : Nat := 0
  lrate : Nat := 0
  debtmax : Nat := 0
  mbal : Int := 0
  lbal : Int := 0
  sluiceT : Word := 0
  withheld : List Withheld := []
  debt : Nat := 0
  /-- Slice ends past which bank-side commands or appends of the function still run (R368). -/
  slacks : List Slack := []
  /-- MSI-X table by doubleword, its mask bits, and the pending-bit array (R385, R390). -/
  msix : SMap Word := []
  masked : Word := 0xFFFFFFFFFFFFFFFF
  msixPend : Word := 0
  /-- Under way: the function is in reset, and its packets are doomed (R353, R444). -/
  reset : Option CtxReset := none
  deriving DecidableEq, Repr

/-- A pool (R361, R370). -/
structure Pool where
  en : Bool := false
  slicelen : Nat := 0
  members : List Nat := []
  budget : Nat := 0
  ovrlim : Nat := 0
  cur : Nat := 0
  /-- Length granted to the current slice, in ns (R368, R370). -/
  curlen : Nat := 0
  /-- When the slice that is being vacated ended, and when its last core was vacated (R368). -/
  endTime : Option Word := none
  vacated : Option Word := none
  start : Word := 0
  /-- Members from the next slice end on (R361). -/
  next : Option (List Nat) := none
  deriving DecidableEq, Repr

/-- One entry of the address range table: the four doublewords of R315. -/
structure ArtEntry where
  d0 : Word := 0
  d1 : Word := 0
  d2 : Word := 0
  d3 : Word := 0
  deriving DecidableEq, Repr

/-- A live allocation of the ledge allocator (R306): its tensors as intermediate addresses, and rows of each. -/
structure Alloc where
  slice : Nat := 0
  id : Nat := 0
  bases : List Nat := []
  nrows : Nat := 0
  deriving DecidableEq, Repr

/-- The active slice migration (R455, R456). Dirty rows are memory keys divided by 1,024. -/
structure Mig where
  entry : Nat := 0
  image : ArtEntry := {}
  old : ArtEntry := {}
  switched : Bool := false
  dirty : List Nat := []
  /-- Units that MDIRTY still has to copy. -/
  todo : List Nat := []
  deriving DecidableEq, Repr

/-- A shoot-down under way (R345, R442). -/
structure Shoot where
  cmd : Nat := 0
  fn : Nat := 0
  stage : Nat := 0
  all : Bool := false
  base : Nat := 0
  len : Nat := 0
  acked : List Nat := []
  since : Word := 0
  deriving DecidableEq, Repr

/-- A migration claim on a page of a function's intermediate space: first address, bytes, and the leaf that the migration is to replace
(R344). -/
structure Claim where
  fn : Nat := 0
  base : Nat := 0
  size : Nat := 4096
  e : Nat := 0
  host : Bool := false
  deriving DecidableEq, Repr

/-- What the partition manager keeps (R315, R348–R372). An owner is a function 0–15 or 256 + pool. -/
structure Part where
  owner : SMap Nat := []
  bankSlice : SMap Nat := []
  ledgeSlice : SMap Nat := []
  art : SMap ArtEntry := []
  /-- The stitched-plane ports of each pair, two bits each for N, E, S, W: 0 MESH, 1 WRAP, 2 OPEN (R355–R358). -/
  ports : SMap Nat := []
  pools : SMap Pool := []
  fenced : List Nat := []
  gated : List Nat := []
  nbpool : SMap (Nat × Nat) := []
  allocs : List Alloc := []
  mig : Option Mig := none
  shoots : List Shoot := []
  claims : List Claim := []
  /-- Pages that stay put: function, first address, bytes, and the leaf, which ends it when it changes (R344). -/
  stay : List (Nat × Nat × Nat × Nat) := []
  hvf : SMap Nat := []
  /-- SY.SRAMSPLIT of each core, and the split in effect there (R65). -/
  split : SMap Nat := []
  splitEff : SMap Nat := []
  misses : SMap Nat := []
  faq : Option (Nat × Nat × Nat) := none
  faqW : BitVec 32 := 0
  faqOvf : Nat := 0
  deriving DecidableEq, Repr

/-- How far SPDM negotiation has gone (R379). -/
inductive SpdmPhase where
  | start
  | version
  | caps
  | algs
  deriving DecidableEq, Repr

/-- Lighthouse (R26, R375–R384): the lifecycle fuse, lifecycle, nonce, keys by generation (0: none), measurements, bad pages, SPDM, the
start-up. -/
structure Lh where
  fuseLcs : Nat := 2
  lcs : Nat := 2
  nonce : Option (BitVec 256 × Word) := none
  failed : Nat := 0
  meas : SMap (BitVec 384) := []
  ext : SMap Nat := []
  bad : List (BitVec 36) := []
  debugLevel : Nat := 0
  /-- Generations of the slice keys in the key stores of the stacks: by the stack whose store it is, the stack whose rows they are for, and the
  slice (R326, R378). -/
  keys : SMap Nat := []
  keyless : List Nat := []
  shelfKey : SMap Nat := []
  ide : List (Nat × Nat × Nat) := []
  spdm : SpdmPhase := .start
  sessions : List (Nat × Bool) := []
  nextSess : Nat := 1
  nextKey : Nat := 1
  /-- The device identity key, which DECOMMISSIONED loses (R378). -/
  idKey : Bool := true
  /-- Steps of the start-up of R26 that are done: 0 before it, and where it has stopped; whether the firmware's image verifies (R384). -/
  up : Nat := 0
  imageOk : Bool := true
  /-- LEVEL and nonce of an unlock under way, whose nonce is spent (R381). -/
  unlocking : Option (Nat × List Byte) := none
  harbourRun : Bool := false
  spdmOnly : Bool := false
  deriving DecidableEq, Repr

/-- An access that waits for the host's address translation (R341, R342). -/
structure AtsReq where
  id : Nat := 0
  unit : Nat := 0
  fn : Nat := 0
  page : Nat := 0
  pri : Bool := false
  since : Word := 0
  /-- Whose accesses wait for it (R342). -/
  who : List Nat := []
  deriving DecidableEq, Repr

/-- Links to the outside (R385, R391, R447, R448). -/
structure Ext where
  linkDown : List Nat := []
  retrain : List Nat := []
  replays : SMap Nat := []
  peer : SMap Word := []
  admission : SMap (Option (Nat × Nat)) := []
  hostDown : Bool := false
  ats : List AtsReq := []
  /-- Replies that no TLB entry has taken up yet: translation unit, function, page, host address (R341). -/
  atc : List (Nat × Nat × Nat × Nat) := []
  /-- Refusals not yet met: function, page, who waited (R342). -/
  atsBad : List (Nat × Nat × Nat) := []
  deriving DecidableEq, Repr

/-- A request in a channel's queue (R318–R321). -/
structure ChanReq where
  chan : Nat := 0
  fn : Nat := 0
  cls : Nat := 0
  stamp : Nat := 0
  arrived : Word := 0
  seq : Nat := 0
  /-- Who made it and counts its misses (R321): a translation unit, 1000 + an engine, 2000 for the device itself. -/
  req : Nat := 0
  deriving DecidableEq, Repr

/-- A parity delta that a write has sent and that its parity stack has not yet applied (R324, R325): its number, the parity row it is for, and
for each of that row's lines that it covers the old ciphertext and tag XOR the new. -/
structure Delta where
  id : Nat := 0
  row : Nat := 0
  lines : List (Nat × Nat) := []
  deriving DecidableEq, Repr

/-- Faults of the storage arrays, parity, power and the shelf's pages (R28, R322–R331, R423–R435). Lines are memory
keys divided by 64, rows memory keys divided by 1,024. -/
structure Ras where
  poison : List Nat := []
  ce : SMap Nat := []
  /-- Corrections in the SRAMs and caches of a unit since its last record of them, at 4,096 SKIND + SNUM (R424). -/
  sram : SMap Nat := []
  parityBad : List Nat := []
  lost : List Nat := []
  shelfLost : List Nat := []
  shelf : SMap (Option (Nat × Nat)) := []
  fatal : Bool := false
  clockMhz : Nat := 1400
  limitW : Nat := 3200
  lastUp : Word := 0
  chans : List ChanReq := []
  guard : SMap Nat := []
  /-- Deltas on the parity ring, and how many have been sent (R324). -/
  deltas : List Delta := []
  sent : Nat := 0
  deriving DecidableEq, Repr

/-- A line held in the L1 of a core (R75, R77, R80, R82): `kind` 1 SW, 2 CP, 3 another package or the host. -/
structure L1Line where
  core : Nat := 0
  line : Nat := 0
  kind : Nat := 0
  /-- The page of a CP line, as ownership counts it. -/
  frame : Nat := 0
  dirty : Bool := false
  poison : Bool := false
  data : SMap Byte := []
  /-- Service class and deadline stamp of the latest store that dirtied it (R318). -/
  cls : Nat := 0
  stamp : Nat := 0
  deriving DecidableEq, Repr

/-- What a held translation of a TWIN page names besides backing 0 (R338–R340): the descriptor's key and intermediate address, the leaf's
page size, and the pages of the two backings, device-physical (or remote) and intermediate. -/
structure TlbTwin where
  key : Nat := 0
  ipa : Nat := 0
  lsize : Nat := 4096
  pa0 : Nat := 0
  ipa0 : Nat := 0
  pa1 : Nat := 0
  ipa1 : Nat := 0
  deriving DecidableEq, Repr

/-- A translation held by a translation unit (R332, R338). `unit` is the pair, 192 + ledge core, or 320 + harbour core.
`kind` 0 this package, 1 host, 2 package `pkg`; `size` bytes from `va` map to `pa`. -/
structure Tlb where
  unit : Nat := 0
  fn : Nat := 0
  va : Nat := 0
  ipa : Nat := 0
  size : Nat := 0
  pa : Nat := 0
  kind : Nat := 0
  pkg : Nat := 0
  r : Bool := false
  w : Bool := false
  x : Bool := false
  coh : Nat := 0
  home : Nat := 0
  nbw : Bool := false
  mig : Bool := false
  twin : Option TlbTwin := none
  deriving DecidableEq, Repr

/-- A non-leaf table entry that a compute die's walk cache holds (R338): its die, function, stage, address and value. -/
structure WalkEnt where
  die : Nat := 0
  fn : Nat := 0
  stage : Nat := 1
  addr : Nat := 0
  val : Nat := 0
  deriving DecidableEq, Repr

/-- Caches whose contents programs can observe, translations, owners of CP pages, wake tables, logical times (R19,
R75–R80, R90, R337). -/
structure Cache where
  l1 : List L1Line := []
  tlb : List Tlb := []
  /-- Walk caches of the compute dies, oldest entry first (R338). -/
  walks : List WalkEnt := []
  cpOwner : SMap Nat := []
  /-- Teams that accessed a CP page: page key and team (R80). -/
  cpUse : List (Nat × Nat) := []
  wake : List (Nat × Nat × Nat) := []
  ltime : SMap Nat := []
  /-- Write timestamp and lease end of each line at its home slice (R19, R75). -/
  stamp : SMap (Nat × Nat) := []
  /-- The cycle of each core's last tick. -/
  ltick : SMap Nat := []
  tstick : Word := 64
  lease : Word := 16
  deriving DecidableEq, Repr

/-- An atomic operation on memory (R215–R217): CAS, or an operation code; bytes, operand, comparand. -/
structure Rmw where
  cas : Bool := false
  p : BitVec 3 := 0
  n : Nat := 8
  b : Nat := 0
  cmp : Nat := 0
  deriving DecidableEq, Repr

/-- A unit of a drain that is on its way (R278): the threads whose it is, whether it goes to the window, to an SW page, from a poisoned row
(R430). -/
structure DrainUnit where
  lanes : LaneMask := 0
  sp : Bool := false
  sw : Bool := false
  bad : Bool := false
  /-- The drain writes the whole 64-byte line in which the unit lies, and no part of it from a poisoned row (R429). -/
  whole : Bool := false
  deriving DecidableEq, Repr

/-- A store, or a remote atomic, that has issued and is not yet acknowledged (R75, R77, R82, R95, R325). -/
structure InFlight where
  id : Nat := 0
  seq : Nat := 0
  team : Nat := 0
  grp : Nat := 0
  lane : Nat := 0
  key : Nat := 0
  size : Nat := 0
  val : Word := 0
  /-- Performed at its home already (HC), or on its way (SW, remote). -/
  performed : Bool := true
  remote : Bool := false
  /-- Its parity deltas that are not yet applied (R325). -/
  deltas : List Nat := []
  since : Word := 0
  /-- A remote atomic that is performed only at its home (R82). -/
  rmw : Option Rmw := none
  /-- Through a twin descriptor: its key, ACT as read, and the key in the other backing (R340). -/
  twin : Option (Nat × Nat × Nat) := none
  /-- A unit of a drain. -/
  drain : Option DrainUnit := none
  deriving DecidableEq, Repr

/-- Which issue moves next: a team, a group and the lanes served (R55, R154). -/
structure Focus where
  team : Nat := 0
  grp : Nat := 0
  lanes : LaneMask := 0
  deriving DecidableEq, Repr

/-- The tags of a packet on a Longshore link: the system package that it goes to, its partition tag, the destination virtual function, the
service class and the deadline stamp (R24, R391). -/
structure Tags where
  pkg : Nat := 0
  tag : Nat := 0
  vf : Nat := 0
  cls : Nat := 0
  stamp : Nat := 0
  deriving DecidableEq, Repr

/-- What the device sends to parties outside it. -/
inductive Out where
  | msix (fn vec : Nat)
  | enqueue (fn : Nat) (answer : Nat)
  | bar (fn : Nat) (ur : Bool) (v : Word)
  | spdm (code : Nat) (data : List (BitVec 384))
  | tdisp (fn : Nat) (code : Nat) (v : Nat)
  | report (fn : Nat) (fields : List Nat)
  | link (pkt : Nat) (ok : Bool) (v : Word)
  | ended (msg cause units : Nat)
  | amsg (tags : Tags) (img : BitVec 512)
  /-- A load, store or atomic, or a member's part in a collective, leaves for another package. -/
  | packet (tags : Tags) (addr : Nat)
  | pri (fn page : Nat)
  | ats (unit fn page : Nat)
  deriving DecidableEq, Repr

/-- Counters: SY.TIME, the arithmetic clock's cycles, and the model's own counters of issues, identifiers and free
values (the last three are the model's, not the manual's). -/
structure Clk where
  time : Word := 0
  cycle : Nat := 0
  seq : Nat := 0
  ids : Nat := 1
  fresh : Nat := 0
  deriving DecidableEq, Repr

/-- The whole package. -/
structure State where
  clk : Clk := {}
  mem : List Host.Cell := []
  ras : Ras := {}
  cache : Cache := {}
  stores : List InFlight := []
  teams : SMap Team := []
  sched : Sched := {}
  eng : Eng := {}
  mtx : SMap PairMtx := []
  fns : SMap Fn := []
  part : Part := {}
  lh : Lh := {}
  ext : Ext := {}
  focus : Option Focus := none
  /-- The command or message that the step under way concerns. -/
  item : Nat := 0
  inbox : List Instr := []
  outbox : List Out := []
  deriving DecidableEq, Repr

/-- Reasons the machine stops. -/
inductive Fault where
  /-- An error of class 3: the package cannot continue (R403, R410, R433). Raised by Step after a second stack is lost.
  Safe: the manual gives no behaviour past it but a package reset. -/
  | fatalPackage
  deriving DecidableEq, Repr

/-- Reasons an instruction has no meaning. -/
inductive Refusal where
  /-- The instruction of this mnemonic is not modelled yet. Safe. -/
  | notModelled (mnemonic : String)
  deriving DecidableEq, Repr

/-- The package right after reset: every field at the manual's reset value, or at the value a log entry names (R5, R27,
R129, R131, R315, R370). -/
def State.reset : State := {}

end Sys2Proof.Machine
end

