-- ==== Sys2Proof/Machine/Ops.lean ====
section
/-! DEFINITION. Named operations over the state: units, registers, results on their way, bytes of memory, error records,
the abort of a transaction, taking a trap and returning from one. -/

namespace Sys2Proof.Machine

open Sys2Proof

/-! ## Units of the state -/

/-- The team with a number. -/
def State.team (s : State) (t : Nat) : Team := SMap.get {} s.teams t

/-- Write a team. -/
def State.setTeam (s : State) (t : Nat) (v : Team) : State := { s with teams := SMap.ins t v s.teams }

/-- Change a team. -/
def State.updTeam (s : State) (t : Nat) (f : Team → Team) : State := s.setTeam t (f (s.team t))

/-- Group `g` of a team. -/
def Team.grp (tm : Team) (g : Nat) : Group := SMap.get {} tm.groups g

/-- Write a group. -/
def Team.setGrp (tm : Team) (g : Nat) (v : Group) : Team := { tm with groups := SMap.ins g v tm.groups }

/-- Group `g` of team `t`. -/
def State.grp (s : State) (t g : Nat) : Group := (s.team t).grp g

/-- Write a group of a team. -/
def State.setGrp (s : State) (t g : Nat) (v : Group) : State := s.updTeam t fun tm => tm.setGrp g v

/-- Change a group of a team. -/
def State.updGrp (s : State) (t g : Nat) (f : Group → Group) : State := s.setGrp t g (f (s.grp t g))

/-- Whether a team exists. -/
def State.hasTeam (s : State) (t : Nat) : Bool := s.teams.any fun e => e.1 = t

/-- Whether a group exists. -/
def State.hasGrp (s : State) (t g : Nat) : Bool := s.hasTeam t && (s.team t).groups.any fun e => e.1 = g

/-- Core numbers: compute, ledge and harbour cores (R129). -/
def coreExists (core : Nat) : Bool := decide (core < 384 ∨ (512 ≤ core ∧ core < 642))

/-- The matrix unit of a core's pair. -/
def State.pairOf (s : State) (core : Nat) : PairMtx := SMap.get {} s.mtx (core / 2)

/-- Change the matrix unit of a pair. -/
def State.updPair (s : State) (p : Nat) (f : PairMtx → PairMtx) : State :=
  { s with mtx := SMap.set {} s.mtx p (f (SMap.get {} s.mtx p)) }

/-- The context of a function (R352). -/
def State.fn (s : State) (f : Nat) : Fn := SMap.get {} s.fns f

/-- Write a function's context. -/
def State.setFn (s : State) (f : Nat) (v : Fn) : State := { s with fns := SMap.ins f v s.fns }

/-- Change a function's context. -/
def State.updFn (s : State) (f : Nat) (h : Fn → Fn) : State := s.setFn f (h (s.fn f))

/-- The thread on a lane. -/
def Group.th (g : Group) (lane : Nat) : Thread := SMap.get {} g.thr lane

/-- Write the thread on a lane. -/
def Group.setTh (g : Group) (lane : Nat) (v : Thread) : Group := { g with thr := SMap.ins lane v g.thr }

/-- Change the thread on a lane. -/
def Group.updTh (g : Group) (lane : Nat) (f : Thread → Thread) : Group := g.setTh lane (f (g.th lane))

/-! ## Lanes -/

/-- The lanes of a mask in ascending order (R30). -/
def lanesOf (m : LaneMask) : List Nat := (List.range 32).filter fun i => m.getLsbD i

/-- The mask with one lane. -/
def laneBit (i : Nat) : LaneMask := BitVec.ofNat 32 (2 ^ i)

/-- Set or clear a lane's bit. -/
def LaneMask.put (m : LaneMask) (i : Nat) (b : Bool) : LaneMask := if b then m ||| laneBit i else m &&& ~~~ laneBit i

/-- The mask of the lanes that satisfy a test. -/
def maskWhere (f : Nat → Bool) : LaneMask := (List.range 32).foldl (fun m i => if f i then m ||| laneBit i else m) 0

/-- The lowest lane of a mask, 0 for the empty one. -/
def lowLane (m : LaneMask) : Nat := (lanesOf m).headD 0

/-- Apply a change to every lane of a mask, in ascending order. -/
def overLanes {σ : Type} (m : LaneMask) (f : Nat → σ → σ) (x : σ) : σ := (lanesOf m).foldl (fun a i => f i a) x

/-- Change the threads of a mask. -/
def Group.mapTh (g : Group) (m : LaneMask) (f : Thread → Thread) : Group := overLanes m (fun i g => g.updTh i f) g

/-- Threads that have not exited (R32). -/
def Group.live (g : Group) : LaneMask := maskWhere fun i => (g.th i).run != .exited

/-- Whether a thread is parked at REJOIN. -/
def Run.isRejoin : Run → Bool
  | .rejoin _ => true
  | _ => false

/-- The active mask: not exited and not parked at REJOIN (R32). -/
def Group.active (g : Group) : LaneMask := maskWhere fun i => (g.th i).run != .exited && !(g.th i).run.isRejoin

/-! ## Places in the code (R92) -/

/-- The byte address of the word at a place. -/
def CodePt.addr (p : CodePt) : Addr48 := p.hdr + BitVec.ofNat 48 (4 * p.pos)

/-- A clause header reached by a control transfer or by falling past a clause. -/
def CodePt.header (a : Addr48) : CodePt := { hdr := a }

/-- The header that follows the clause (R92). -/
def CodePt.link (p : CodePt) : Addr48 := p.hdr + BitVec.ofNat 48 (4 * (p.n + 1))

/-- The place after a word: the next word, or the next header after the last; after a legal header, its first word; after a header
with no clause, the word behind it as a header (R92, R257, R416). -/
def CodePt.next (p : CodePt) : CodePt :=
  if p.pos = 0 ∧ p.n = 0 then .header (p.hdr + 4)
  else if p.pos < p.n then { p with pos := p.pos + 1 }
  else .header p.link

/-- The target of a branch (R108). -/
def CodePt.target (p : CodePt) (off : BitVec 20) : CodePt := .header (p.hdr + 4 * off.signExtend 48)

/-- Place lanes at a point of the code. -/
def Group.place (g : Group) (m : LaneMask) (p : CodePt) : Group :=
  g.mapTh m fun th => { th with pt := p, run := .running, waitRes := false, reached := none, stopPt := none }

/-! ## Free values -/

/-- Free value number `k` of the step under way. -/
def State.free (s : State) (k : Nat) : Word := Config.freeBits (s.clk.fresh * 2 ^ 32 + k)

/-- A new identifier for a result, a store or a record. -/
def State.newId (s : State) : Nat × State := (s.clk.ids, { s with clk := { s.clk with ids := s.clk.ids + 1 } })

/-! ## Registers (R126) -/

/-- Thread register `r` of a lane. -/
def Group.xr (g : Group) (lane r : Nat) : Word := SMap.get 0 g.x (64 * lane + r)

/-- Write a thread register. -/
def Group.setX (g : Group) (lane r : Nat) (v : Word) : Group := { g with x := SMap.set 0 g.x (64 * lane + r) v }

/-- Uniform register `r`. -/
def Group.wr (g : Group) (r : Nat) : Word := SMap.get 0 g.w r

/-- Write a uniform register. -/
def Group.setW (g : Group) (r : Nat) (v : Word) : Group := { g with w := SMap.set 0 g.w r v }

/-- Predicate `k` of a lane; p7 reads 1 (R30). -/
def Group.pr (g : Group) (k lane : Nat) : Bool := k = 7 || (SMap.get 0 g.p k).getLsbD lane

/-- Write a predicate; writes to p7 are discarded (R30). -/
def Group.setP (g : Group) (k lane : Nat) (b : Bool) : Group :=
  if k = 7 then g else { g with p := SMap.set 0 g.p k (LaneMask.put (SMap.get 0 g.p k) lane b) }

/-- A lane's port. -/
def Group.port (g : Group) (lane q : Nat) : Port := SMap.get {} g.ports (4 * lane + q)

/-- Change a lane's port. -/
def Group.updPort (g : Group) (lane q : Nat) (f : Port → Port) : Group :=
  { g with ports := SMap.set {} g.ports (4 * lane + q) (f (g.port lane q)) }

/-! ## Results on their way (R99, R100) -/

/-- Whether a result is for a given register; none is for p7, whose writes are discarded (R30, R283). -/
def Pend.isFor (p : Pend) (f : RegFile) (lane reg : Nat) : Bool :=
  p.file = f && p.reg = reg && (f = .w || p.lane = lane) && !(f = .p && reg = 7)

/-- A later write to the register stands in place of the results on their way (R100). -/
def Group.supersede (g : Group) (f : RegFile) (lane reg : Nat) : Group :=
  { g with out := g.out.map fun p => if p.isFor f lane reg then { p with live := false } else p }

/-- The fixed-latency write of a thread register. -/
def Group.wrX (g : Group) (lane r : Nat) (v : Word) : Group := (g.supersede .x lane r).setX lane r v

/-- The fixed-latency write of a uniform register. -/
def Group.wrW (g : Group) (r : Nat) (v : Word) : Group := (g.supersede .w 0 r).setW r v

/-- The fixed-latency write of a predicate. -/
def Group.wrP (g : Group) (k lane : Nat) (b : Bool) : Group := (g.supersede .p lane k).setP k lane b

/-- Whether a lane waits for results that it issued. -/
def Group.waits (g : Group) (lane : Nat) : Bool := g.out.any fun p => p.lanes.getLsbD lane

/-- Write a result into a checkpoint that was taken after its issue. -/
def Ckpt.land (c : Ckpt) (p : Pend) : Ckpt :=
  if c.seq ≤ p.seq then c
  else match p.file with
    | .x => { c with x := SMap.set 0 c.x (64 * p.lane + p.reg) p.val }
    | .w => { c with w := SMap.set 0 c.w p.reg p.val }
    | .p => if p.reg = 7 then c else { c with p := SMap.set 0 c.p p.reg (LaneMask.put (SMap.get 0 c.p p.reg) p.lane (p.val != 0)) }
    | .port => c

/-- Write a result into the checkpoints of an open transaction. -/
def Tx.land (x : Tx) (p : Pend) : Tx :=
  { x with ck := x.ck.land p, frames := x.frames.map fun f => { f with ck := f.ck.land p } }

/-- Write a value to the register of a result. -/
def Group.write (g : Group) (p : Pend) : Group :=
  match p.file with
  | .x => g.setX p.lane p.reg p.val
  | .w => g.setW p.reg p.val
  | .p => g.setP p.reg p.lane (p.val != 0)
  | .port => g.updPort p.lane p.reg fun q => { q with push := q.push.set (p.addr - q.stored) (some p.val) }

/-- A result arrives: it leaves the list; unless a later write stands, the register takes it, or, with poison, the lane
keeps its old value and takes the poison at its next stop point (R100, R431). Poison for an exited lane is dropped. -/
def Group.land (g : Group) (p : Pend) : Group :=
  let rest := g.out.filter fun q => q.id != p.id
  let older := rest.map fun q => if p.file != .port && q.isFor p.file p.lane p.reg && decide (q.seq < p.seq) then { q with live := false } else q
  let g1 := { g with out := older }
  if p.file = .port then
    let g2 := g1.write p
    if p.poison ∧ (g.th p.lane).run ≠ .exited then g2.updTh p.lane fun th => { th with poison := some (th.poison.getD p.addr) } else g2
  else if p.poison then
    if (g.th p.lane).run = .exited then g1 else g1.updTh p.lane fun th => { th with poison := some (th.poison.getD p.addr) }
  else if p.live then
    let g2 := g1.write p
    { g2 with tx := g2.tx.map fun x => x.land p }
  else g1

/-- Every result that the lanes of a mask have outstanding is written (R101). -/
def Group.settle (g : Group) (m : LaneMask) : Group :=
  (g.out.filter fun p => p.ready && (p.lanes &&& m) != 0).foldl (fun g p => g.land p) g

/-- Whether a result of these lanes does not exist yet; those that an abort of the lanes' transaction drops do not count. -/
def Group.unready (g : Group) (m : LaneMask) : Bool :=
  g.out.any fun p => !p.ready && (p.lanes &&& m) != 0 &&
    !(match g.tx with
      | some x => (x.parts &&& m) != 0 && x.parts.getLsbD p.lane && decide (x.ck.seq ≤ p.seq)
      | none => false)

/-! ## Bytes of memory (R4) -/

/-- Read `n` bytes of a sparse memory as a little-endian number. -/
def memRead (m : SMap Byte) (k : Nat) : Nat → Nat
  | 0 => 0
  | n + 1 => (SMap.get 0 m k).toNat + 256 * memRead m (k + 1) n

/-- Write `n` bytes of a little-endian number into a sparse memory. -/
def memWrite (m : SMap Byte) (k : Nat) : Nat → Nat → SMap Byte
  | 0, _ => m
  | n + 1, v => memWrite (SMap.set 0 m k (BitVec.ofNat 8 v)) (k + 1) n (v / 256)

/-- The canonical form of a memory: addresses strictly rising, no entry equal to what an unlisted address reads as. -/
def Memory.wf (m : List Host.Cell) : Bool := SMap.wf (α := Byte) 0 m

/-- Read `n` bytes at a memory key. -/
def State.rd (s : State) (k n : Nat) : Nat := memRead s.mem k n

/-- The 128-byte line of a memory key (R19). -/
def lineOf (k : Nat) : Nat := k / 128

/-- The lines of `n` bytes at a key. -/
def linesOf (k n : Nat) : List Nat := (List.range ((k + n - 1) / 128 - k / 128 + 1)).map (k / 128 + ·)

/-! ## Error records (R404–R406) -/

/-- Doublewords joined, the first lowest (R4). -/
def ofDwords : List Nat → Nat
  | [] => 0
  | d :: t => d % 2 ^ 64 + 2 ^ 64 * ofDwords t

/-- The 64 bytes of an error record, its phase bits still zero (R404). -/
def ErrInfo.bits (e : ErrInfo) (time : Word) : BitVec 512 :=
  BitVec.ofNat 512 (ofDwords [time.toNat,
    e.skind * 2 ^ 60 + e.snum % 2 ^ 12 * 2 ^ 48 + e.cause % 256 * 2 ^ 40 + e.cls * 2 ^ 38 + e.dom * 2 ^ 36 +
      e.slice % 16 * 2 ^ 32 + e.vf % 16 * 2 ^ 28 + min e.count 65535,
    e.akind * 2 ^ 60 + e.addr % 2 ^ 48, e.item % 2 ^ 48, e.synd, e.tag % 2 ^ 32 * 2 ^ 32 + e.detail % 2 ^ 32, 0, 0])

/-- CLASS of a cause (R403, R405, R423, R437). -/
def causeClass (c : Nat) : Nat :=
  if [0x40, 0x41, 0x44, 0x45, 0x52, 0x62, 0x6A, 0x71].contains c then 0
  else if [0x42, 0x46, 0x48, 0x51].contains c then 1
  else if c = 0x4A then 3 else 2

/-- DOMAIN of a cause (R405, R423, R437). -/
def causeDom (c : Nat) : Nat :=
  if [0x25, 0x26, 0x29, 0x62, 0x64, 0x65, 0x6A, 0x6B, 0x6C, 0x6D, 0x6E, 0x6F, 0x70, 0x71].contains c then 1
  else if [0x40, 0x41, 0x42, 0x43, 0x49, 0x4C, 0x50, 0x51, 0x52].contains c then 2
  else if c = 0x4A then 3 else 0

/-- A record of a cause, with its class and domain. -/
def errOf (c : Nat) : ErrInfo := { cause := c, cls := causeClass c, dom := causeDom c }

/-- A doubleword of a record. -/
def dwordOf {n : Nat} (b : BitVec n) (i : Nat) : Nat := b.toNat / 2 ^ (64 * i) % 2 ^ 64

/-- Whether two records have the same SKIND, SNUM, CAUSE and ADDR (R406). -/
def sameReport (a b : BitVec 512) : Bool :=
  dwordOf a 1 / 2 ^ 40 == dwordOf b 1 / 2 ^ 40 && dwordOf a 2 % 2 ^ 48 == dwordOf b 2 % 2 ^ 48

/-- CLASS and VF of an error record (R404). -/
def recClass (v : BitVec 512) : Nat := dwordOf v 1 / 2 ^ 38 % 4
def recVf (v : BitVec 512) : Nat := dwordOf v 1 / 2 ^ 28 % 16

/-- Add to the COUNT of a record, saturating (R404). -/
def addCount (a : BitVec 512) (n : Nat) : BitVec 512 :=
  let d := dwordOf a 1
  let c := d % 2 ^ 16
  BitVec.ofNat 512 (a.toNat - c * 2 ^ 64 + min (c + n) 65535 * 2 ^ 64)

/-- A record joins a ring's writers. -/
def Ring.join (r : Ring) (id : Nat) (v : BitVec 512) : Ring := { r with wait := r.wait ++ [(id, v)] }

/-- What merges when no more records find room (R406): the number of the last of the 16 records of the backlog, and the number and COUNT of a
corrected record behind it that reports the same. -/
def mergeOf (l : List (Nat × BitVec 512)) : Option (Nat × Nat × Nat) :=
  match l.drop 15 with
  | [] => none
  | (a, v) :: t => (t.find? fun e => recClass e.2 = 0 && sameReport v e.2).map fun e => (a, e.1, dwordOf e.2 1 % 2 ^ 16)

/-- One waiting record adds to the COUNT of another and goes (R406). -/
def Ring.merge (r : Ring) (a b n : Nat) : Ring :=
  { r with wait := (r.wait.filter fun e => e.1 != b).map fun e => if e.1 = a then (a, addCount e.2 n) else e }

/-- A ring of a function. -/
def Fn.ring (f : Fn) (n : Nat) : Ring := SMap.get {} f.rings n

/-- Change a ring of a function. -/
def Fn.updRing (f : Fn) (n : Nat) (h : Ring → Ring) : Fn := { f with rings := SMap.ins n (h (f.ring n)) f.rings }

/-- A record, its SYNDROME free for memory and data errors and zero otherwise (R404), goes to ring 63 of its function, then to the harbour ring; with VF = 0 once. A disabled ring 63 of a virtual
function takes none (R388, R406). -/
def State.postErr (s : State) (e : ErrInfo) : State :=
  let (id, s) := s.newId
  let v := { e with synd := if 0x40 ≤ e.cause ∧ e.cause < 0x60 then (Config.syndrome id).toNat else 0 }.bits (e.time.getD s.clk.time)
  let s := if e.vf ≠ 0 ∧ ((s.fn e.vf).ring 63).en then s.updFn e.vf fun f => f.updRing 63 fun r => r.join id v else s
  s.updFn 0 fun f => f.updRing 63 fun r => r.join id v

/-- A record joins a ring of a function as a 32-byte completion; the number tells the writer when it is written. -/
def State.postRing (s : State) (f n : Nat) (v : BitVec 256) : Nat × State :=
  let (id, s) := s.newId
  (id, s.updFn f fun c => c.updRing n fun r => { r with wait := r.wait ++ [(id, v.setWidth 512)] })

/-- Whether a writer's record still waits for its ring. -/
def State.recWaits (s : State) (f n id : Nat) : Bool := ((s.fn f).ring n).wait.any fun p => p.1 = id

/-- Whether the tenant copy of a record of the harbour ring is still to be written: it comes first (R406). -/
def State.tenantFirst (s : State) (e : Nat × BitVec 512) : Bool := recVf e.2 != 0 && s.recWaits (recVf e.2) 63 e.1

/-- Records that the event-ring engine may write into a ring now, in order. A record of the harbour ring whose tenant copy waits holds none
of another function behind it (R406). -/
def State.ringWriters (s : State) (f n : Nat) : List (Nat × BitVec 512) :=
  if f = 0 ∧ n = 63 then ((s.fn f).ring n).wait.filter fun e => !s.tenantFirst e else ((s.fn f).ring n).wait

/-- Whether a writer of error records for a function must wait: a full backlog, its own or the harbour's (R406). -/
def State.errHeld (s : State) (vf : Nat) : Bool :=
  decide (16 ≤ (s.ringWriters vf 63).length ∨ 16 ≤ (s.ringWriters 0 63).length)

/-! ## Transactions: checkpoint and abort (R239, R242) -/

/-- Whether a key of the thread registers belongs to a lane of the mask. -/
def keyIn (m : LaneMask) (k : Nat) : Bool := m.getLsbD (k / 64)

/-- Replace the entries of some keys by another map's. -/
def SMap.mix {α : Type} (sel : Nat → Bool) (old new : SMap α) : SMap α :=
  ((old.filter fun e => sel e.1).foldl (fun m e => SMap.ins e.1 e.2 m) (new.filter fun e => !sel e.1))

/-- The checkpoint of a group's lanes (R239). -/
def Group.checkpoint (g : Group) (seq : Nat) (m : LaneMask) : Ckpt :=
  { seq := seq, x := g.x.filter fun e => keyIn m e.1, p := g.p, enr := g.enr, arr := g.arr, w := g.w,
    weight := (lanesOf m).map fun i => (i, (g.th i).weight) }

/-- Restore a checkpoint for the lanes of a mask; results issued since it was taken are dropped (R242). -/
def Group.restore (g : Group) (c : Ckpt) (m : LaneMask) : Group :=
  let g := { g with
    x := SMap.mix (keyIn m) c.x g.x
    p := (List.range 7).foldl (fun p k => SMap.set 0 p k ((SMap.get 0 c.p k &&& m) ||| (SMap.get 0 p k &&& ~~~ m))) g.p
    enr := c.enr, arr := c.arr, w := c.w
    out := g.out.filter fun q => !(decide (c.seq ≤ q.seq) && m.getLsbD q.lane) }
  overLanes m (fun i g => g.updTh i fun th => { th with weight := SMap.get th.weight c.weight i }) g

/-- Why a transaction aborts (R242). -/
inductive Abort where
  | conflict
  | again
  | capacity
  | code (c : Nat)
  | trap (cause : Nat)
  deriving DecidableEq, Repr

/-- The status that an abort leaves in x[D]; 0 where TXBEG runs again. -/
def Abort.status : Abort → Nat
  | .conflict => 0
  | .again => 0
  | .capacity => 1
  | .code c => 2 + 256 * c
  | .trap c => 3 + 256 * c

/-- Whether the abort resumes at the TXBEG word. -/
def Abort.rerun : Abort → Bool
  | .conflict => true
  | .again => true
  | _ => false

/-- The conflict count after an abort (R242). -/
def Abort.count (a : Abort) (n : Nat) : Nat :=
  match a with
  | .conflict => n + 1
  | .again => n
  | _ => 0

/-- All the writes gathered so far, outermost first. -/
def Tx.datas (x : Tx) : List TxData := x.data :: x.frames.reverse.map (·.data)

/-- The group's open transaction aborts: checkpoint restored, sets and held actions dropped; lanes of P that have not
exited resume at TXBEG or at the word after it with their status, but for the lanes `stay`, which only leave it. -/
def Group.abortTx (g : Group) (a : Abort) (stay : LaneMask) : Group :=
  match g.tx with
  | none => g
  | some x =>
    let g1 := (g.restore x.ck x.parts)
    let g2 := { g1 with tx := none, txConfl := a.count g.txConfl, refund := g.refund ++ x.datas.flatMap TxData.donors }
    let move := x.parts &&& g.live &&& ~~~ stay
    let g3 := g2.mapTh x.parts fun th => { th with txNest := 0 }
    let g4 := g3.place move (if a.rerun then x.beg else x.aft)
    if a.rerun then g4 else overLanes move (fun i g => g.setX i x.dreg (BitVec.ofNat 64 a.status)) g4

/-- Lines of a transaction's read set. -/
def Tx.inReads (x : Tx) (line : Nat) : Bool := x.reads.contains line

/-- Lines of a transaction's write set. -/
def Tx.wlines (x : Tx) : List Nat := x.datas.flatMap (·.wlines)

/-- Keys of the descriptors that it publishes. -/
def Tx.publs (x : Tx) : List Nat := x.datas.flatMap (·.publs)

/-- Whether a line stands in a transaction's sets. -/
def Tx.touches (x : Tx) (line : Nat) : Bool := x.inReads line || x.wlines.contains line

/-! ## Writes that are performed (R88, R91, R429) -/

/-- A group's wait is over. -/
def Pace.rest (p : Pace) : Pace := { p with since := 0, holding := false, needs := [] }

/-- A group has issued in a cycle; with S its wait begins (R49, R51, R99). -/
def Pace.go (p : Pace) (cycle : Nat) (sm : Bool) : Pace :=
  { p with since := if sm then cycle + 1 else 0, holding := false, needs := [], issued := cycle + 1 }

/-- A group's word was held in a cycle, where its wait at that word begins unless it has begun (R51). -/
def Pace.hold (p : Pace) (cycle : Nat) : Pace :=
  { p with since := if p.holding then p.since else cycle + 1, holding := true, tried := cycle + 1 }

/-- A sleeping group wakes; its lanes stand at TXBEG already. With a halt mark it goes to PARKED (R51, R91). -/
def Group.wake (g : Group) (cycle : Nat) : Group :=
  if g.st = .sleep then { g with st := if g.halt then .parked else .ready, since := cycle, pace := g.pace.rest } else g

/-- Apply a change to every group of every team. -/
def State.mapGroups (s : State) (f : Nat → Nat → Group → Group) : State :=
  { s with teams := s.teams.map fun e =>
      (e.1, { e.2 with groups := e.2.groups.map fun h => (h.1, f e.1 h.1 h.2) }) }

/-- A write to a line is performed: open transactions that touch it abort, but for group `skip`, and groups asleep on it
wake, with every entry of theirs removed (R88, R91). -/
def State.noteLine (s : State) (skip : Option (Nat × Nat)) (line : Nat) : State :=
  let woken := (s.cache.wake.filter fun e => e.1 = line).map fun e => e.2
  let hit (t g : Nat) (gr : Group) : Bool :=
    match gr.tx with
    | some x => x.touches line && skip != some (t, g)
    | none => false
  let s1 := if s.teams.any fun e => e.2.groups.any fun h => hit e.1 h.1 h.2
    then s.mapGroups fun t g gr => if hit t g gr then gr.abortTx .conflict 0 else gr else s
  if woken.isEmpty then s1
  else { s1.mapGroups fun t g gr => if woken.contains (t, g) then gr.wake s1.clk.cycle else gr with
         cache := { s1.cache with wake := s1.cache.wake.filter fun e => !woken.contains e.2 } }

/-- 64-byte lines wholly inside a range. -/
def wholeLines (k n : Nat) : List Nat :=
  let a := (k + 63) / 64
  (List.range ((k + n) / 64 - a)).map (a + ·)

/-- Rows already copied by a slice migration are marked modified by a write to them (R456). -/
def Mig.mark (m : Mig) (k n : Nat) : Mig :=
  let rows := (List.range ((k + n - 1) / 1024 - k / 1024 + 1)).map (k / 1024 + ·)
  { m with dirty := m.dirty ++ rows.filter fun r => !m.dirty.contains r }

/-! ## Ciphertext and parity (R311, R322–R325) -/

/-- The stack whose key store also holds a stack's keys (R326). -/
def buddy (k : Nat) : Nat := (k + 8) % 16

/-- The place of a key: the store's stack, the stack of the rows, the slice. -/
def keyAt (store k slice : Nat) : Nat := (store * 16 + k) * 16 + slice

/-- The bank of a 64-byte line of the raw stack memory, and its row. -/
def lineBank (l : Nat) : Nat := l / 2 ^ 20
def lineRow (l : Nat) : Nat := l / 16

/-- The slice of a bank (R354). -/
def State.sliceOf (s : State) (bank : Nat) : Nat := SMap.get 0 s.part.bankSlice bank

/-- The key of the parity row of a row's stripe, divided by 1,024 (R322). -/
def parityRowOf (row : Nat) : Nat := row % 2 ^ 26 + row % 2 ^ 16 / 4096 * 2 ^ 26

/-- The generation of the keys under which a line stands: those of its slice in its stack's key store, or, for a lost stack, in the
buddy's (R326, R433). -/
def State.lineKey (s : State) (l : Nat) : Nat :=
  let k := lineBank l / 1024
  SMap.get 0 s.lh.keys (keyAt (if s.ras.lost.contains k then buddy k else k) k (s.sliceOf (lineBank l)))

/-- The ciphertext of a line with contents `v`, and above it its tag (R323). -/
def State.sealed (s : State) (l v : Nat) : Nat :=
  (Config.cipher (s.lineKey l) l (BitVec.ofNat 512 v)).toNat + 2 ^ 512 * (Config.tag (s.lineKey l) l (BitVec.ofNat 512 v)).toNat

/-- 64-byte lines that a range touches. -/
def lines64 (k n : Nat) : List Nat := (List.range ((k + n - 1) / 64 - k / 64 + 1)).map (k / 64 + ·)

/-- The deltas of a write that gives memory `m`: one for each row, old ciphertext and tag XOR new for each line; those bound for a lost stack
are discarded (R324, R433). -/
def State.deltasOf (s : State) (m : SMap Byte) (k n : Nat) : List Delta :=
  if 2 ^ 40 ≤ k then []
  else
    let rows := ((List.range ((k + n - 1) / 1024 - k / 1024 + 1)).map (k / 1024 + ·)).filter fun row =>
      parityRowOf row != row && !s.ras.lost.contains (parityRowOf row / 2 ^ 26)
    rows.zipIdx.map fun e =>
      { id := s.ras.sent + e.2, row := parityRowOf e.1,
        lines := ((lines64 k n).filter fun l => l / 16 = e.1).map fun l =>
          (l % 16, Nat.xor (s.sealed l (memRead s.mem (64 * l) 64)) (s.sealed l (memRead m (64 * l) 64))) }

/-- The deltas go on the parity ring. -/
def Ras.send (r : Ras) (l : List Delta) : Ras := { r with deltas := r.deltas ++ l, sent := r.sent + l.length }

/-- A write of `n` bytes at a memory key is performed. A write that covers a whole 64-byte line clears its poison; one that
covers part keeps it (R429). -/
def State.perform (s : State) (skip : Option (Nat × Nat)) (k n v : Nat) : State :=
  if n = 0 then s else
  let m := memWrite s.mem k n v
  let s1 := { s with mem := m, ras := s.ras.send (s.deltasOf m k n) }
  let s2 := if s1.ras.poison.isEmpty then s1
    else { s1 with ras := { s1.ras with poison := s1.ras.poison.filter fun l => !(wholeLines k n).contains l } }
  let s3 := match s2.part.mig with
    | some m => { s2 with part := { s2.part with mig := some (m.mark k n) } }
    | none => s2
  (linesOf k n).foldl (fun s l => s.noteLine skip l) s3

/-- Deltas sent between two states. -/
def State.sentSince (s t : State) : List Nat := (List.range (t.ras.sent - s.ras.sent)).map (s.ras.sent + ·)

/-- Whether a line of a lost stack cannot be rebuilt from its stripe (R426, R433). -/
def State.lostLine (s : State) (l : Nat) : Bool :=
  l < 2 ^ 34 && s.ras.lost.contains (lineBank l / 1024) &&
  (s.ras.parityBad.contains (parityRowOf (lineRow l)) ||
   s.ras.poison.any fun m => m != l && m % 2 ^ 30 = l % 2 ^ 30)

/-- Whether a line lies in a slice whose keys an unlock has zeroised (R378). -/
def State.keylessLine (s : State) (l : Nat) : Bool :=
  !s.lh.keyless.isEmpty && l < 2 ^ 34 && s.lh.keyless.contains (s.sliceOf (lineBank l))

/-- Whether a 64-byte line is delivered as poison. -/
def State.badLine (s : State) (l : Nat) : Bool := s.ras.poison.contains l || s.keylessLine l || s.lostLine l

/-- Whether some byte of a range lies in a line that is delivered as poison (R429, R432, R433). -/
def State.isPoison (s : State) (k n : Nat) : Bool :=
  !(s.ras.poison.isEmpty && s.lh.keyless.isEmpty && s.ras.lost.isEmpty) && (lines64 k n).any s.badLine

/-- Mark the 64-byte lines of a range poisoned (R429). -/
def State.setPoison (s : State) (k n : Nat) : State :=
  { s with ras := { s.ras with poison := s.ras.poison ++ (lines64 k n).filter fun l => !s.ras.poison.contains l } }

/-! ## Traps (R411–R420) -/

/-- A kill cause arises: the first is kept with its address and time, later ones are counted (R404, R419, R420). -/
def Team.askKill (tm : Team) (now : Word) (cause addr kind : Nat) (detail : Nat := 0) : Team :=
  match tm.kill with
  | none => { tm with kill := some cause, killTime := now, killAddr := addr, killKind := kind, killDetail := detail, killCount := 1 }
  | some _ => { tm with killCount := tm.killCount + 1 }

/-- AKIND, ADDR and DETAIL of a record that reports a trap (R404). -/
def trapAddrInfo (cause : Nat) (sp : Bool) (a : Word) : Nat × Nat × Nat :=
  if 0x04 ≤ cause ∧ cause ≤ 0x08 then (if sp then 4 else 1, a.toNat % 2 ^ 48, 0)
  else (0, 0, a.toNat % 2 ^ 32)

/-- Lanes already in trap-handler state meet another cause: p6 := 1, they go on past the word (R416). -/
def Group.nestTrap (g : Group) (m : LaneMask) (pt : CodePt) : Group :=
  (overLanes m (fun i g => g.wrP 6 i true) g).place m pt.next

/-- A lane's trap registers and its entry at the handler (R411, R415). -/
def Thread.enterTrap (th : Thread) (cause : Nat) (a : Word) (pt : CodePt) (vec : Word)
    (rst : Option (CodePt × Nat × Word)) : Thread :=
  { th with trapCause := BitVec.ofNat 64 cause, trapPc := pt.addr.setWidth 64, trapAddr := a, inTrap := true,
            trapPt := pt, trapTx := rst, pt := .header (vec.setWidth 48), run := .running, waitRes := false,
            reached := none, stopPt := none, bpSkip := false }

/-- The restart of a lane that trapped inside a transaction (R242). -/
def Group.txRestart (g : Group) (cause lane : Nat) : Option (CodePt × Nat × Word) :=
  match g.tx with
  | some x => if x.parts.getLsbD lane then some (x.aft, x.dreg, BitVec.ofNat 64 (3 + 256 * cause)) else none
  | none => none

/-- Lanes of an issue at `pt` trap with a cause. Lanes in the save handler end the cooperative save (R364); lanes in a
trap handler go on (R416); the others take the trap: results written, transaction aborted, registers written, handler
entered, or the team killed when it has none (R415). Consumed poison has a record for each lane (R432). `sp`: the address is a scratchpad offset. -/
def State.takeTrap (s : State) (t g : Nat) (m : LaneMask) (cause : Nat) (sp : Bool) (pt : CodePt) (addr : Nat → Word) : State :=
  let g0 := s.grp t g
  let save := maskWhere fun i => m.getLsbD i && (g0.th i).inSave
  let nest := maskWhere fun i => m.getLsbD i && !(g0.th i).inSave && (g0.th i).inTrap
  let first := m &&& ~~~ save &&& ~~~ nest
  let s := if save = 0 then s else s.updTeam t fun tm => { tm with forceSave := true }
  let s := if nest = 0 then s else
    let tm := s.team t
    let (ak, ad, de) := trapAddrInfo cause sp (addr (lowLane nest))
    (s.updGrp t g fun gr => gr.nestTrap nest pt).postErr
      { skind := 0, snum := tm.core, cause := cause, vf := tm.fn, count := (lanesOf nest).length, akind := ak, addr := ad, detail := de }
  if first = 0 then s else
  let rst := fun i => (s.grp t g).txRestart cause i
  let s := s.updGrp t g fun gr =>
    let gr := gr.settle first
    match gr.tx with
    | some x => if x.parts &&& first = 0 then gr else gr.abortTx (.trap cause) first
    | none => gr
  let vec := (s.team t).trapvec
  let s := s.updGrp t g fun gr =>
    overLanes first (fun i gr => gr.updTh i fun th => th.enterTrap cause (addr i) pt vec (rst i)) gr
  if vec = 0 then
    let (ak, ad, de) := trapAddrInfo cause sp (addr (lowLane first))
    s.updTeam t fun tm => tm.askKill s.clk.time cause ad ak de
  else if cause = 0x08 then
    (lanesOf first).foldl (fun s l =>
      let (ak, ad, de) := trapAddrInfo cause sp (addr l)
      s.postErr { snum := (s.team t).core, cause := cause, vf := (s.team t).fn, akind := ak, addr := ad, detail := de }) s
  else s

/-- Where a lane resumes after ERET (R257): a transaction's restart; else the trapping word, or the place after it. -/
def Thread.resumePt (th : Thread) (next : Bool) : CodePt :=
  match th.trapTx with
  | some (p, _, _) => p
  | none => if next then th.trapPt.next else if th.trapPt.pos = 0 then .header th.trapPt.hdr else th.trapPt

/-- A lane leaves its trap handler (R257, R417); a breakpoint's header is not tested again at its next fetch. Registers
kept beneath those of a save handler become visible again, and a lane that was parked at BARV is parked there again. -/
def Thread.leaveTrap (th : Thread) (next : Bool) : Thread :=
  let p := th.resumePt next
  let r : Thread := { th with pt := p, run := .running, inTrap := false, inSave := false, preended := false, spent := false,
                              trapTx := none, waitRes := false, reached := none, stopPt := none, bpSkip := th.trapCause = 0x0F, barred := none }
  let r : Thread := match th.barred with
    | some off => { r with run := .barv off }
    | none => r
  match th.below with
  | some b => { r with trapCause := b.cause, trapPc := b.pc, trapAddr := b.addr, trapPt := b.pt, inTrap := b.inTrap, trapTx := b.tx, below := none }
  | none => r

/-- ERET of the lanes of a mask (R257). -/
def Group.eret (g : Group) (m : LaneMask) (next : Bool) : Group :=
  overLanes m (fun i g =>
    let th := g.th i
    let g1 := g.updTh i fun th => th.leaveTrap next
    match th.trapTx with
    | some (_, d, v) => g1.wrX i d v
    | none => g1) g

end Sys2Proof.Machine
end

