-- ==== Sys2Proof/Machine/Xlate.lean ====
section
/-! DEFINITION. The address range table (R315–R317), the two-stage walk and its outcomes (R332–R344), twin descriptors
(R339, R340) and the translations that units hold (R338). -/

namespace Sys2Proof.Machine

open Sys2Proof

/-- Bits [hi:lo] of a number (R3). -/
def bf (v hi lo : Nat) : Nat := v / 2 ^ lo % 2 ^ (hi + 1 - lo)

/-- Bit `i` of a number. -/
def bit (v i : Nat) : Bool := v / 2 ^ i % 2 = 1

/-! ## Address range table -/

/-- Positions of the bits set in a mask of `n` bits, ascending (R317). -/
def bitList (n m : Nat) : List Nat := (List.range n).filter fun i => bit m i

/-- Fields of an entry (R315). -/
def ArtEntry.en (e : ArtEntry) : Bool := bit e.d0.toNat 15
def ArtEntry.base (e : ArtEntry) : Nat := bf e.d0.toNat 47 16 * 2 ^ 16
def ArtEntry.limit (e : ArtEntry) : Nat := bf e.d1.toNat 47 16 * 2 ^ 16
def ArtEntry.slice (e : ArtEntry) : Nat := bf e.d0.toNat 11 8
def ArtEntry.gr (e : ArtEntry) : Nat := bf e.d0.toNat 3 0
def ArtEntry.rowbase (e : ArtEntry) : Nat := bf e.d1.toNat 15 0
def ArtEntry.chans (e : ArtEntry) : List Nat := bitList 32 (bf e.d2.toNat 63 32)
def ArtEntry.stacks (e : ArtEntry) : List Nat := bitList 16 (bf e.d2.toNat 15 0)
def ArtEntry.positions (e : ArtEntry) : List Nat := bitList 32 (bf e.d3.toNat 31 0)

/-- The physical row of a data row in stack `k`: parity band `k` is skipped (R317, R322). -/
def physRow (k dr : Nat) : Nat := if dr < 4096 * k then dr else dr + 4096

/-- The memory key of a byte of a bank: banks of 2^26 bytes, rows of 1,024 (R15). -/
def bankKey (bank row col : Nat) : Nat := bank * 2 ^ 26 + row * 2 ^ 10 + col

/-- The bank of a memory key. -/
def keyBank (k : Nat) : Nat := k / 2 ^ 26

/-- The physical row of a memory key in its bank. -/
def keyRow (k : Nat) : Nat := k / 2 ^ 10 % 2 ^ 16

/-- Where an address of an entry's range lies (R317). -/
def ArtEntry.resolve (e : ArtEntry) (a : Nat) : Nat :=
  let o := a - e.base
  let gsz := 2 ^ (8 + e.gr)
  let u := o / gsz
  let k := e.stacks.getD (u % e.stacks.length) 0
  let u1 := u / e.stacks.length
  let ch := e.chans.getD (u1 % e.chans.length) 0
  let u2 := u1 / e.chans.length
  let bp := e.positions.getD (u2 % e.positions.length) 0
  let q := u2 / e.positions.length * gsz + o % gsz
  bankKey (1024 * k + 32 * ch + bp) (physRow k (e.rowbase + q / 1024)) (q % 1024)

/-- Entry `i` of the table. -/
def State.artEntry (s : State) (i : Nat) : ArtEntry := SMap.get {} s.part.art i

/-- The number of the enabled entry that holds a device-physical address. -/
def State.artFind (s : State) (a : Nat) : Option Nat :=
  ((s.part.art.filter fun e => e.2.en && decide (e.2.base ≤ a) && decide (a < e.2.limit)).map fun e => e.1).head?

/-- The memory key of a device-physical address; none where no enabled entry holds it (R317, R439). -/
def State.resolve (s : State) (a : Nat) : Option Nat := (s.artFind a).map fun i => (s.artEntry i).resolve a

/-- Memory keys of host memory, of another package and of the shelf. -/
def hostKey (a : Nat) : Nat := 2 ^ 60 + a
def remoteKey (pkg a : Nat) : Nat := 2 ^ 61 + pkg * 2 ^ 48 + a
def shelfKeyOf (spn off : Nat) : Nat := 2 ^ 62 + spn * 4096 + off

/-! ## Walks -/

/-- What a walk, or a translation, ends in (R336, R438). A note gives the CAUSE of a further record for the harbour ring and
its device-physical address. A demand fault of stage 3 waits for a PRI response. -/
inductive XErr where
  | trap (cause : Nat) (note : Option (Nat × Nat))
  /-- `size`: bytes of the page that the address lies in (R343). -/
  | demand (stage addr kind size : Nat)
  /-- The unit must ask the host for a page (R341). -/
  | ats (unit page : Nat)
  /-- The function's bucket is empty (R360). -/
  | held
  /-- The device meets a host claim on a page: its first address, bytes, leaf (R344). -/
  | stay (base size e : Nat)
  deriving DecidableEq, Repr

/-- A leaf that a stage of a walk has found: the entry and the bytes it maps. -/
structure Leaf where
  e : Nat
  size : Nat
  deriving DecidableEq, Repr

/-- Whether a valid entry is malformed at its level (R336); `s2`: stage 2. -/
def badEntry (s2 : Bool) (e lvl : Nat) : Bool :=
  let leaf := bit e 2
  let size := if lvl = 3 then (if bit e 7 then 2 ^ 16 else 2 ^ 12) else 2 ^ (39 - 9 * lvl)
  if leaf then
    decide (lvl = 0) || bf e 11 8 != 0 || (bit e 7 && decide (lvl ≠ 3)) || (bit e 4 && !bit e 3) ||
    decide (bf e 47 12 * 4096 % size ≠ 0) ||
    (if s2 then bf e 51 48 != 0 || bf e 53 52 == 3 || (bf e 63 54 != 0 && bf e 53 52 != 2) || (bit e 6 && bf e 53 52 != 1)
     else bf e 57 56 != 0 || bit e 6 || (!bit e 62 && bf e 55 48 != 0))
  else decide (lvl = 3) || bf e 63 48 != 0 || bf e 11 3 != 0 || bit e 1

/-- What an entry says at a level: a fault, a leaf, or the next table. The page of a demand fault is the one that the entry's LEAF maps, and
4 KB where it names none (R343, log 178). -/
def entryStep (s2 : Bool) (stage va e lvl : Nat) : Except XErr (Leaf ⊕ Nat) :=
  if !bit e 0 then (if bit e 1 then .error (.demand stage va 0 (if bit e 2 ∧ 0 < lvl then 2 ^ (39 - 9 * lvl) else 4096)) else .error (.trap 0x05 none))
  else if badEntry s2 e lvl then .error (.trap 0x05 none)
  else if bit e 2 then .ok (.inl ⟨e, if lvl = 3 then (if bit e 7 then 2 ^ 16 else 2 ^ 12) else 2 ^ (39 - 9 * lvl)⟩)
  else .ok (.inr (bf e 47 12 * 4096))

/-- A leaf at level 3: the run's first entry when it is a leaf with C = 1, else the page's own, where C must be 0 (R333). -/
def walkLast (rd : Nat → Except XErr Nat) (s2 : Bool) (stage va tbl : Nat) : Except XErr Leaf :=
  let i := bf va 20 12
  match rd (tbl + 8 * (i / 16 * 16)) with
  | .error x => .error x
  | .ok e0 =>
    let run := bit e0 0 && bit e0 2 && bit e0 7
    match (if run || i % 16 = 0 then .ok e0 else rd (tbl + 8 * i)) with
    | .error x => .error x
    | .ok e =>
      if !run && bit e 0 && bit e 7 then .error (.trap 0x05 none)
      else match entryStep s2 stage va e 3 with
        | .error x => .error x
        | .ok (.inl l) => .ok l
        | .ok (.inr _) => .error (.trap 0x05 none)

/-- A radix walk over the levels listed and then level 3 (R333). -/
def walkLevels (rd : Nat → Except XErr Nat) (s2 : Bool) (stage va : Nat) : List Nat → Nat → Except XErr Leaf
  | [], tbl => walkLast rd s2 stage va tbl
  | lvl :: rest, tbl =>
    match rd (tbl + 8 * (va / 2 ^ (39 - 9 * lvl) % 512)) with
    | .error x => .error x
    | .ok e =>
      match entryStep s2 stage va e lvl with
      | .error x => .error x
      | .ok (.inl l) => .ok l
      | .ok (.inr t) => walkLevels rd s2 stage va rest t

/-- The non-leaf entries that a walk reads, with their addresses (R338). -/
def walkPath (rd : Nat → Except XErr Nat) (va : Nat) : List Nat → Nat → List (Nat × Nat)
  | [], _ => []
  | lvl :: rest, tbl =>
    let a := tbl + 8 * (va / 2 ^ (39 - 9 * lvl) % 512)
    match rd a with
    | .ok e => if bit e 0 && !bit e 2 then (a, e) :: walkPath rd va rest (bf e 47 12 * 4096) else []
    | .error _ => []

/-- A table entry as a translation unit comes by it: a compute die's walk cache serves the entries that it holds (R338). -/
def State.rdVia (s : State) (unit fn stage : Nat) (rd : Nat → Except XErr Nat) (a : Nat) : Except XErr Nat :=
  match s.cache.walks.find? fun w => decide (unit < 192) && w.die = unit / 48 && w.fn = fn && w.stage = stage && w.addr = a with
  | some w => .ok w.val
  | none => rd a

/-- A table entry at a device-physical address, read at its home slice (R337); poison or no range entry is an invalid
mapping, with a record for the harbour (R438, R439). -/
def State.rdEntry (s : State) (a : Nat) : Except XErr Nat :=
  match s.resolve a with
  | none => .error (.trap 0x05 (some (0x60, a)))
  | some k => if s.isPoison k 8 then .error (.trap 0x05 (some (0x61, a))) else .ok (s.rd k 8)

/-- What stage 2 makes of an intermediate address; `e` is its leaf. -/
structure St2 where
  e : Nat := 0
  tgt : Nat := 0
  pa : Nat := 0
  pkg : Nat := 0
  mig : Bool := false
  size : Nat := 4096
  r : Bool := true
  w : Bool := true
  x : Bool := true
  deriving DecidableEq, Repr

/-- A stage-2 table entry as a unit comes by it; unit 1000, which is none, has no walk cache. -/
def State.rdEntry2 (s : State) (fn unit : Nat) : Nat → Except XErr Nat := s.rdVia unit fn 2 s.rdEntry

/-- Stage 2 of a function (R332, R335). Without a root of the physical function, harbour translation is the identity. -/
def State.stage2 (s : State) (fn : Nat) (harbour : Bool) (ia : Nat) (unit : Nat := 1000) : Except XErr St2 :=
  match (s.fn fn).s2root with
  | none => if harbour then .ok { pa := ia } else .error (.trap 0x05 none)
  | some root =>
    match walkLevels (s.rdEntry2 fn unit) true 2 ia [0, 1, 2] root with
    | .error x => .error x
    | .ok l => .ok { e := l.e, tgt := bf l.e 53 52, pa := bf l.e 47 12 * 4096 + ia % l.size, pkg := bf l.e 63 54, mig := bit l.e 6,
                     size := l.size, r := bit l.e 3, w := bit l.e 4, x := bit l.e 5 }

/-- A stage-1 table entry at an intermediate address. Tables lie in this package's memory. A demand fault of stage 2 there
names the table (R438). -/
def State.rdEntry1 (s : State) (fn unit : Nat) : Nat → Except XErr Nat :=
  s.rdVia unit fn 1 fun ia => match s.stage2 fn false ia unit with
  | .error (.demand g _ k z) => .error (.demand g (ia / 4096 * 4096) k z)
  | .error x => .error x
  | .ok o => if o.tgt = 0 then s.rdEntry o.pa else .error (.trap 0x05 none)

/-- A translation: where the byte lies and how its page behaves (R66, R336). -/
structure Xl where
  /-- 0 this package, 1 host, 2 another package. -/
  kind : Nat := 0
  key : Nat := 0
  /-- Device-physical, host or remote address. -/
  pa : Nat := 0
  coh : Nat := 0
  home : Nat := 0
  r : Bool := true
  w : Bool := true
  x : Bool := true
  nbw : Bool := false
  /-- Size and first virtual address of the recorded translation. -/
  size : Nat := 4096
  va : Nat := 0
  ipa : Nat := 0
  pkg : Nat := 0
  mig : Bool := false
  /-- The twin descriptor's key, its intermediate address, and ACT as read (R340). -/
  desc : Option Nat := none
  act : Nat := 0
  /-- The same byte of the other backing: its key and device-physical address (R340). -/
  alt : Option (Nat × Nat) := none
  /-- What a TLB entry of the page names of its two backings, where they differ in nothing but their place (R338). -/
  backs : Option TlbTwin := none
  deriving DecidableEq, Repr

/-- The regime of an access: translation unit, function, harbour mode (R24, R332); and who makes it, by a number of the model's: 0 the device
itself, 64·team + group + 1, 64·team + 63 for a team's own units (streams, regions, tiles), 2^40 + command. -/
structure Regime where
  unit : Nat := 0
  fn : Nat := 0
  harbour : Bool := false
  who : Nat := 0
  deriving DecidableEq, Repr

/-- The translation unit of a core (R338). -/
def unitOf (core : Nat) : Nat :=
  if core < 384 then core / 2 else if core < 640 then 192 + (core - 512) else 320 + (core - 640)

/-- The regime of a team. -/
def Team.regime (tm : Team) : Regime := { unit := unitOf tm.core, fn := tm.fn, harbour := tm.harbour, who := 64 * tm.id + 63 }

/-- Attribute conflicts of a leaf (R67, R336). -/
def attrConflict (coh home : Nat) (nbw : Bool) (tgt : Nat) : Bool :=
  (home == 1 && coh != 2) || (nbw && coh == 0) || coh == 3 ||
  (tgt != 0 && (home == 1 || home == 2 || nbw || coh == 2))

/-- Where a stage-2 result lies: the memory key, for the host through the translation that ATS gave (R341). A refusal by the host meets those
whose accesses waited for it (R342); the device itself it meets until the function's next replay or shoot-down (log 179). -/
def State.place2 (s : State) (rg : Regime) (o : St2) : Except XErr (Nat × Nat) :=
  if o.tgt = 0 then
    match s.resolve o.pa with
    | none => .error (.trap 0x05 (some (0x60, o.pa)))
    | some k => .ok (k, o.pa)
  else if o.tgt = 2 then .ok (remoteKey o.pkg o.pa, o.pa)
  else
    let page := o.pa / 4096
    if s.ext.atsBad.contains (rg.fn, page, rg.who) then .error (.trap 0x05 (some (0x63, o.pa)))
    else match s.ext.atc.find? fun e => e.1 = rg.unit ∧ e.2.1 = rg.fn ∧ e.2.2.1 = page with
      | some e => .ok (hostKey (e.2.2.2 + o.pa % 4096), e.2.2.2 + o.pa % 4096)
      | none => if s.ext.ats.any fun r => r.fn = rg.fn && r.page = page && r.pri then .error (.demand 3 (page * 4096) 0 4096) else .error (.ats rg.unit page)

/-- The first address of the leaf's page that holds an intermediate address. -/
def St2.base (o : St2) (ia : Nat) : Nat := ia / o.size * o.size

/-- Whether a page stays put: it does until its leaf is another (R344). -/
def State.stays (s : State) (fn : Nat) (o : St2) (ia : Nat) : Bool := s.part.stay.contains (fn, o.base ia, o.size, o.e)

/-- Whether a claim on a page still waits for its migration: until a valid leaf maps the page elsewhere (R344). -/
def State.claimOpen (s : State) (c : Claim) : Bool :=
  match s.stage2 c.fn (c.fn = 0) c.base with
  | .ok o => bf o.e 47 12 = bf c.e 47 12 && bf o.e 63 52 = bf c.e 63 52
  | .error _ => true

/-- Whether a claim is on a page that meets some bytes. -/
def Claim.on (c : Claim) (fn base size : Nat) : Bool := c.fn = fn && decide (c.base < base + size) && decide (base < c.base + c.size)

/-- What a device access to a leaf with MIG meets (R344): after a stay nothing; under a host claim the stay; else a migration
fault. The page is the intermediate one. -/
def State.migErr (s : State) (fn : Nat) (o : St2) (ia : Nat) : Option XErr :=
  if !(o.tgt = 1 && o.mig) || s.stays fn o ia then none
  else if s.part.claims.any fun c => c.on fn (o.base ia) o.size && c.host && s.claimOpen c then some (.stay (o.base ia) o.size o.e)
  else some (.demand 2 ia 3 o.size)

/-- The backing that loads and stores reach: the active one, whatever the descriptor (R340). -/
def keepAct (_desc act : Nat) : Nat := act

/-- What a twin descriptor says: ACT and the intermediate addresses of its backings; malformed or poisoned, an outcome of the access (R339,
R340). -/
def State.descRead (s : State) (k lsize : Nat) : Except XErr (Nat × Nat × Nat) :=
  if s.isPoison k 16 then .error (.trap 0x08 none)
  else
    let d0 := s.rd k 8
    let d1 := s.rd (k + 8) 8
    let b0 := bf d0 47 12 * 4096
    let b1 := bf d1 47 12 * 4096
    if bf d0 11 0 ≠ 0 ∨ bf d1 63 48 ≠ 0 ∨ bf d1 11 0 ≠ 0 ∨ b0 % lsize ≠ 0 ∨ b1 % lsize ≠ 0 then .error (.trap 0x05 none)
    else .ok (bf d0 63 63, b0, b1)

/-- Whether the two backings of a page lie in this package, or another, and differ in nothing but their place there. -/
def Xl.like (x y : Xl) : Bool := x.kind = y.kind && x.kind != 1 && x.pkg = y.pkg && x.r = y.r && x.w = y.w && x.x = y.x && x.size = y.size

/-- What a TLB entry holds of the two backings, `x` being backing `n`. -/
def Xl.twinOf (x y : Xl) (key ipa lsize n : Nat) : TlbTwin :=
  let (b0, b1) := if n = 0 then (x, y) else (y, x)
  { key := key, ipa := ipa, lsize := lsize, pa0 := b0.pa / b0.size * b0.size, ipa0 := b0.ipa, pa1 := b1.pa / b1.size * b1.size, ipa1 := b1.ipa }

/-- The end of a translation: attributes, twin descriptor, stage 2. `pick` chooses the backing from the descriptor's key and
ACT (R83, R340). -/
def State.finish (s : State) (rg : Regime) (va : Nat) (l : Leaf) (pick : Nat → Nat → Nat) : Except XErr Xl :=
  let coh := bf l.e 61 60
  let home := bf l.e 59 58
  let nbw := bit l.e 63
  let tail (ia : Nat) (desc : Option Nat) (act : Nat) : Except XErr Xl :=
    match s.stage2 rg.fn false ia rg.unit with
    | .error x => .error x
    | .ok o =>
      if attrConflict coh home nbw o.tgt then .error (.trap 0x07 none)
      else match s.migErr rg.fn o ia with
      | some e => .error e
      | none => match s.place2 rg o with
        | .error x => .error x
        | .ok (k, pa) =>
          let size := min l.size o.size
          .ok { kind := o.tgt, key := k, pa := pa, coh := coh, home := home, r := bit l.e 3 && o.r, w := bit l.e 4 && o.w,
                x := bit l.e 5 && o.x, nbw := nbw, size := size, va := va / size * size, ipa := ia / size * size, pkg := o.pkg,
                mig := o.mig, desc := desc, act := act }
  if bit l.e 62 then
    let da := bf l.e 47 12 * 4096 + 16 * bf l.e 55 48
    match s.stage2 rg.fn false da rg.unit with
    | .error x => .error x
    | .ok o =>
      match s.place2 rg o with
      | .error x => .error x
      | .ok (k, _) =>
        match s.descRead k l.size with
        | .error x => .error x
        | .ok (act, b0, b1) =>
          let n := pick k act
          match tail ((if n = 0 then b0 else b1) + va % l.size) (some k) act with
          | .error x => .error x
          | .ok x => match tail ((if n = 0 then b1 else b0) + va % l.size) (some k) act with
            | .error _ => .ok x
            | .ok y => .ok { x with alt := some (y.key, y.pa), backs := if x.like y then some (x.twinOf y k (da / 4096 * 4096) l.size n) else none }
  else tail (bf l.e 47 12 * 4096 + va % l.size) none 0

/-- A full walk (R333, R336). Harbour-mode code has an identity stage 1 and the physical function's stage 2 (R332). -/
def State.walk (s : State) (rg : Regime) (va : Nat) (pick : Nat → Nat → Nat := keepAct) : Except XErr Xl :=
  if rg.harbour then
    match s.stage2 0 true va rg.unit with
    | .error x => .error x
    | .ok o =>
      match s.migErr 0 o va with
      | some e => .error e
      | none => match s.place2 { rg with fn := 0 } o with
        | .error x => .error x
        | .ok (k, pa) =>
          .ok { kind := o.tgt, key := k, pa := pa, r := o.r, w := o.w, x := o.x, size := o.size, va := va / o.size * o.size,
                ipa := va / o.size * o.size, pkg := o.pkg, mig := o.mig }
  else
    match (s.fn rg.fn).s1root with
    | none => .error (.trap 0x05 none)
    | some root =>
      match walkLevels (s.rdEntry1 rg.fn rg.unit) false 1 va [0, 1, 2] root with
      | .error x => .error x
      | .ok l => s.finish rg va l pick

/-- Whether a held translation serves an address. -/
def Tlb.covers (e : Tlb) (rg : Regime) (va : Nat) : Bool :=
  e.unit = rg.unit && e.fn = rg.fn && decide (e.va ≤ va) && decide (va < e.va + e.size)

/-- The memory key of an address that a held entry names. -/
def State.tlbKey (s : State) (e : Tlb) (pa : Nat) : Except XErr Nat :=
  if e.kind = 0 then (match s.resolve pa with
    | none => .error (.trap 0x05 (some (0x60, pa)))
    | some k => .ok k)
  else if e.kind = 1 then .ok (hostKey pa)
  else .ok (remoteKey e.pkg pa)

/-- A translation through a held entry, of bytes at an address of one backing. -/
def Tlb.xl (e : Tlb) (key pa ipa : Nat) : Xl :=
  { kind := e.kind, key := key, pa := pa, coh := e.coh, home := e.home, r := e.r, w := e.w, x := e.x, nbw := e.nbw,
    size := e.size, va := e.va, ipa := ipa, pkg := e.pkg, mig := e.mig }

/-- The translation that a held entry gives. Of a TWIN page it holds both backings, and reads the descriptor's ACT anew (R340). -/
def State.ofTlb (s : State) (e : Tlb) (va : Nat) (pick : Nat → Nat → Nat := keepAct) : Except XErr Xl :=
  let off := va - e.va
  match e.twin with
  | none => match s.tlbKey e (e.pa + off) with
    | .error x => .error x
    | .ok k => .ok (e.xl k (e.pa + off) e.ipa)
  | some t =>
    match s.descRead t.key t.lsize with
    | .error x => .error x
    | .ok (act, _, _) =>
      match s.tlbKey e (t.pa0 + off), s.tlbKey e (t.pa1 + off) with
      | .ok k0, .ok k1 =>
        if pick t.key act = 0 then .ok { e.xl k0 (t.pa0 + off) t.ipa0 with desc := some t.key, act := act, alt := some (k1, t.pa1 + off), backs := e.twin }
        else .ok { e.xl k1 (t.pa1 + off) t.ipa1 with desc := some t.key, act := act, alt := some (k0, t.pa0 + off), backs := e.twin }
      | .error x, _ => .error x
      | _, .error x => .error x

/-- Translate an address: by the unit's own entry where it holds one, else by a walk (R337, R338). -/
def State.translate (s : State) (rg : Regime) (va : Nat) (pick : Nat → Nat → Nat := keepAct) : Except XErr Xl :=
  match s.cache.tlb.find? fun e => e.covers rg va with
  | some e => s.ofTlb e va pick
  | none => s.walk rg va pick

/-- Entries of a unit's TLB (R338). -/
def tlbSize (unit : Nat) : Nat := if 192 ≤ unit ∧ unit < 320 then 128 else 1536

/-- The entry that records a translation: of a host page, the 4 KB that the host translated (R341); of a TWIN page, backing 0 and, beside
it, backing 1. -/
def Xl.entry (x : Xl) (rg : Regime) (va : Nat) : Tlb :=
  let size := if x.kind = 1 then 4096 else x.size
  let base := va / size * size
  let (pa, ipa) := match x.backs with
    | some t => (t.pa0, t.ipa0)
    | none => (x.pa - (va - base), if x.kind = 1 then x.ipa + (base - x.va) else x.ipa)
  { unit := rg.unit, fn := rg.fn, va := base, ipa := ipa, size := size, pa := pa, kind := x.kind,
    pkg := x.pkg, r := x.r, w := x.w, x := x.x, coh := x.coh, home := x.home, nbw := x.nbw, mig := x.mig, twin := x.backs }

/-- The non-leaf entries that the walk of a translation reads, of both stages (R333, R338). -/
def State.walkEnts (s : State) (rg : Regime) (va : Nat) (x : Xl) : List WalkEnt :=
  let ent (stage fn : Nat) (p : Nat × Nat) : WalkEnt := { die := rg.unit / 48, fn := fn, stage := stage, addr := p.1, val := p.2 }
  let two (fn ia : Nat) : List WalkEnt := match (s.fn fn).s2root with
    | some root => (walkPath (s.rdEntry2 fn rg.unit) ia [0, 1, 2] root).map (ent 2 fn)
    | none => []
  if rg.harbour then two 0 va
  else match (s.fn rg.fn).s1root with
    | none => []
    | some root =>
      let one := walkPath (s.rdEntry1 rg.fn rg.unit) va [0, 1, 2] root
      let ends := match x.backs with | some t => [t.ipa, t.ipa0, t.ipa1] | none => [x.ipa + (va - x.va)]
      (root :: one.map fun p => bf p.2 47 12 * 4096).flatMap (two rg.fn) ++ one.map (ent 1 rg.fn) ++ ends.flatMap (two rg.fn)

/-- A list without its first `n` entries of a die. -/
def dropOld (die : Nat) : Nat → List WalkEnt → List WalkEnt
  | 0, l => l
  | _, [] => []
  | n + 1, w :: l => if w.die = die then dropOld die n l else w :: dropOld die (n + 1) l

/-- A compute die's walk cache, of 4,096 entries, takes what a walk has read, in place of its oldest (R338). -/
def Cache.putWalks (c : Cache) (unit : Nat) (l : List WalkEnt) : List WalkEnt :=
  if 192 ≤ unit then c.walks
  else
    let new := l.eraseDups.filter fun w => !(c.walks.any fun v => v.die = w.die && v.fn = w.fn && v.stage = w.stage && v.addr = w.addr)
    dropOld (unit / 48) (((c.walks ++ new).filter fun w => w.die = unit / 48).length - 4096) (c.walks ++ new)

/-- The unit keeps a translation, in place of its oldest when it is full, and its die's walk cache the entries on the way (R338); a host
page with the address of the ATS reply (R341). A TWIN page whose backings differ in kind or rights is walked at each access. A power-gated
pair holds nothing (R29). -/
def State.keep (s : State) (rg : Regime) (va : Nat) (x : Xl) : State :=
  if (x.desc.isSome && x.backs.isNone) || s.part.gated.contains rg.unit || s.cache.tlb.any fun e => e.covers rg va then s
  else
    let mine := (s.cache.tlb.filter fun e => e.unit = rg.unit).length
    let old := if mine < tlbSize rg.unit then s.cache.tlb
      else match s.cache.tlb.find? fun e => e.unit = rg.unit with
        | some e => s.cache.tlb.erase e
        | none => s.cache.tlb
    { s with cache := { s.cache with tlb := old ++ [x.entry rg va], walks := s.cache.putWalks rg.unit (s.walkEnts rg va x) }
             ext := { s.ext with atc := if x.kind = 1 then s.ext.atc.filter fun e => !(e.1 = rg.unit && e.2.1 = rg.fn && e.2.2.2 = x.pa / 4096 * 4096)
                                        else s.ext.atc } }

/-- Permissions that an access needs (R336). -/
inductive Acc where
  | load
  | store
  | rw
  | fetch
  deriving DecidableEq, Repr

/-- Whether a page lacks a permission. -/
def Xl.denies (x : Xl) : Acc → Bool
  | .load => !x.r
  | .store => !x.w
  | .rw => !(x.r && x.w)
  | .fetch => !x.x

/-- KIND of a page request (R343). -/
def Acc.reqKind : Acc → Nat
  | .load => 0
  | .store => 1
  | .rw => 1
  | .fetch => 2

/-- A page's demand fault is noted as a page request in the function's backlog, the first of the page and stage since the last replay; a full
backlog takes none and reports once per episode (R343, R440). -/
def State.noteFault (s : State) (fn stage addr kind size : Nat) : State :=
  let f := s.fn fn
  if f.noted.any fun n => n.1 = stage && decide (n.2.1 ≤ addr) && decide (addr < n.2.1 + n.2.2) then s
  else if 64 ≤ f.backlog.length then
    if f.heldFault then s
    else (s.setFn fn { f with heldFault := true }).postErr { cause := 0x62, cls := 0, dom := 1, vf := fn }
  else s.setFn fn { f with backlog := f.backlog ++ [{ addr := addr, stage := stage, kind := kind, time := s.clk.time }],
                           noted := f.noted ++ [(stage, addr / size * size, size)] }

/-- Claims whose migration has been made leave the table (R344). -/
def State.sweepClaims (s : State) : State := { s with part := { s.part with claims := s.part.claims.filter s.claimOpen } }

/-- The leaf at an intermediate address and the page that it maps; of a page that is not mapped, its 4 KB. -/
def State.leafPage (s : State) (fn ia : Nat) : Nat × Nat × Nat :=
  match s.stage2 fn (fn = 0) ia with
  | .ok o => (o.base ia, o.size, o.e)
  | .error _ => (ia / 4096 * 4096, 4096, 0)

/-- A demand fault (R343). A migration fault claims its page, and one that joins a claim makes no second request (R344). A fault that waits
for a PRI response writes none. -/
def State.pageFault (s : State) (fn stage addr kind size : Nat) : State :=
  if stage = 3 then s
  else if kind = 3 then
    let s := s.sweepClaims
    let (b, z, e) := s.leafPage fn addr
    if s.part.claims.any fun c => c.on fn b z && !c.host then s
    else State.noteFault (if s.part.claims.length < 4096 then { s with part := { s.part with claims := s.part.claims ++ [{ fn := fn, base := b, size := z, e := e }] } } else s)
      fn stage addr kind size
  else s.noteFault fn stage addr kind size

/-- The refusals that met an access are spent with its trap (R342). -/
def State.spendRefusals (s : State) (who : List Nat) : State :=
  { s with ext := { s.ext with atsBad := s.ext.atsBad.filter fun e => e.2.2 = 0 || !who.contains e.2.2 } }

/-- The harbour's further record of a translation that failed (R438, R439, R441); a refusal by the host is spent for those whom it met. -/
def State.xnote (s : State) (note : Option (Nat × Nat)) (snum : Nat) (who : List Nat := []) : State :=
  match note with
  | some (c, a) => State.postErr (if c = 0x63 then s.spendRefusals who else s) { snum := snum, cause := c, akind := if c = 0x63 then 0 else 3, addr := if c = 0x63 then 0 else a }
  | none => s

/-- A stay-put: the claims on the page are cancelled, and the device goes on through the host's translation until the leaf is another
(R344). -/
def State.stayPut (s : State) (fn base size e : Nat) : State :=
  { s with part := { s.part with claims := s.part.claims.filter fun c => !c.on fn base size
                                 stay := (s.part.stay.filter fun p => !(p.1 = fn && p.2.1 = base)) ++ [(fn, base, size, e)] } }

/-- More accesses wait for a request. -/
def AtsReq.addWho (r : AtsReq) (who : List Nat) : AtsReq := { r with who := r.who ++ who.filter fun w => !r.who.contains w }

/-- An access waits for the host's translation of a page: its unit sends the request unless it has one under way (R341, R342). -/
def State.askAts (s : State) (unit fn page : Nat) (who : List Nat) : State :=
  let mine (r : AtsReq) : Bool := r.unit = unit && r.fn = fn && r.page = page
  if s.ext.ats.any mine then
    { s with ext := { s.ext with ats := s.ext.ats.map fun r => if mine r then r.addWho who else r } }
  else
    let (id, s) := s.newId
    { s with ext := { s.ext with ats := s.ext.ats ++ [{ id := id, unit := unit, fn := fn, page := page, since := s.clk.time, who := who }] }
             outbox := s.outbox ++ [.ats unit fn page] }

/-- An access waits for the host's answer to a page request (R342). -/
def State.awaitPri (s : State) (fn page : Nat) (who : List Nat) : State :=
  { s with ext := { s.ext with ats := s.ext.ats.map fun r => if r.pri && r.fn = fn && r.page = page then r.addWho who else r } }

/-- What the device does about an access of a function that is not performed yet: the page request of a demand fault, the wait for the host's
translation or its answer, a stay-put (R341–R344). -/
def State.await (s : State) (fn : Nat) (who : List Nat) : XErr → State
  | .demand st a k z => if st = 3 then s.awaitPri fn (a / 4096) who else s.pageFault fn st a k z
  | .ats u p => s.askAts u fn p who
  | .stay b z e => s.stayPut fn b z e
  | _ => s

end Sys2Proof.Machine
end

