-- ==== Sys2Proof/Machine/Ras.lean ====
section
/-! DEFINITION. Errors of the stack memory: the device-physical address of a line, the fault-address queue (R330), what a
read of a damaged line records (R426, R427, R432, R433). -/

namespace Sys2Proof.Machine

open Sys2Proof

/-- The position of a number in a list. -/
def posIn (l : List Nat) (v : Nat) : Option Nat :=
  let i := (l.takeWhile fun e => e != v).length
  if i < l.length then some i else none

/-- The data row of a physical row of stack `k`; none for a parity row (R317, R322). -/
def dataRow (k row : Nat) : Option Nat :=
  if row / 4096 = k then none else if row < 4096 * k then some row else some (row - 4096)

/-- The address at which an entry maps a memory key (R317 read backwards). -/
def ArtEntry.addrOf (e : ArtEntry) (key : Nat) : Option Nat :=
  let bank := keyBank key
  match posIn e.stacks (bank / 1024), posIn e.chans (bank / 32 % 32), posIn e.positions (bank % 32), dataRow (bank / 1024) (keyRow key) with
  | some si, some ci, some bi, some dr =>
    if dr < e.rowbase then none
    else
      let gsz := 2 ^ (8 + e.gr)
      let q := (dr - e.rowbase) * 1024 + key % 1024
      let a := e.base + (((q / gsz * e.positions.length + bi) * e.chans.length + ci) * e.stacks.length + si) * gsz + q % gsz
      if a < e.limit then some a else none
  | _, _, _, _ => none

/-- The device-physical address of a memory key, 0 where no enabled entry maps it. -/
def State.addrOfKey (s : State) (key : Nat) : Nat :=
  ((s.part.art.filterMap fun e => if e.2.en then e.2.addrOf key else none).head?).getD 0

/-- The regime of the hub die's own accesses to harbour memory (R332). -/
def hubRegime : Regime := { unit := 1000, fn := 0, harbour := true }

/-- An entry of the fault-address queue; dropped and counted when the queue is full or its memory does not translate (R330,
R463). -/
def State.faqPut (s : State) (kind line : Nat) : State :=
  match s.part.faq with
  | none => s
  | some (base, count, idx) =>
    let drop := { s with part := { s.part with faqOvf := min (s.part.faqOvf + 1) 255 } }
    let bank := lineBank line
    match s.walk hubRegime idx, s.walk hubRegime (base + s.part.faqW.toNat % count * 16) with
    | .ok xi, .ok xe =>
      if xi.w && xi.r && xe.w && (s.part.faqW - BitVec.ofNat 32 (s.rd (xi.key + 4) 4)).toNat < count then
        let d1 := s.part.faqOvf * 2 ^ 56 + kind * 2 ^ 52 + s.sliceOf bank * 2 ^ 48 + lineRow line % 2 ^ 16 * 2 ^ 32 + bank * 2 ^ 18 + line * 64 % 1024
        let w := s.part.faqW + 1
        let s := s.perform none xe.key 16 (s.addrOfKey (line * 64) + 2 ^ 64 * d1)
        let s := { s with part := { s.part with faqW := w, faqOvf := 0 } }
        s.perform none xi.key 4 w.toNat
      else drop
    | _, _ => drop

/-- An error record about a line of the stacks (R404, R423). -/
def State.lineErr (s : State) (cause cls line : Nat) : State :=
  let bank := lineBank line
  let slice := s.sliceOf bank
  s.postErr { skind := 2, snum := bank / 1024, cause := cause, cls := cls, dom := 2, slice := slice, vf := slice, akind := 3,
              addr := s.addrOfKey (line * 64), detail := bank }

/-- What a read of a line records: an access to a keyless slice (R378, R432), a line of a lost stack rebuilt or not (R433). -/
def State.noteRead (s : State) (k n : Nat) : State :=
  if s.lh.keyless.isEmpty && s.ras.lost.isEmpty then s
  else (lines64 k n).foldl (fun s l =>
    if s.keylessLine l then s.lineErr 0x4C 2 l
    else if l < 2 ^ 34 ∧ s.ras.lost.contains (lineBank l / 1024) then
      (if s.lostLine l then (s.lineErr 0x42 1 l).faqPut 1 l else (s.lineErr 0x41 0 l).faqPut 1 l)
    else s) s

/-- A write is performed, but for one to the rows of a keyless slice, which refuses it with the record of R432 (R378, R383). -/
def State.writeAt (s : State) (k n v : Nat) : State :=
  if !s.lh.keyless.isEmpty && (lines64 k n).any s.keylessLine then s.noteRead k n else s.perform none k n v

/-! ## The parity of a stripe (R322–R326, R426) -/

/-- Line `l` as it stands in stack `j` of its stripe. -/
def inStack (l j : Nat) : Nat := l % 2 ^ 30 + j * 2 ^ 30

/-- The parity line of a line's stripe. -/
def parityLineOf (l : Nat) : Nat := inStack l (lineRow l % 2 ^ 16 / 4096)

/-- What a line of the stacks holds: its ciphertext and tag. -/
def State.sealedLine (s : State) (l : Nat) : Nat := s.sealed l (s.rd (64 * l) 64)

/-- What a parity line holds: the XOR, over the 15 data rows of its stripe, of ciphertext and tag, short of the deltas still on their way to it
(R323, R324). -/
def State.parityLine (s : State) (p : Nat) : Nat :=
  let data := ((List.range 16).filter fun j => j != p / 2 ^ 30).foldl (fun a j => Nat.xor a (s.sealedLine (inStack p j))) 0
  s.ras.deltas.foldl (fun a d => if d.row = lineRow p then d.lines.foldl (fun a e => if e.1 = p % 16 then Nat.xor a e.2 else a) a else a) data

/-- The XOR of the 14 other data lines of a line's stripe and of the parity line (R426). -/
def State.rebuilt (s : State) (l : Nat) : Nat :=
  ((List.range 16).filter fun j => j != l / 2 ^ 30 && j != parityLineOf l / 2 ^ 30).foldl (fun a j => Nat.xor a (s.sealedLine (inStack l j)))
    (s.parityLine (parityLineOf l))

/-- What the buddy stack's decryption makes of a rebuilt line, and whether its tag matches (R326, R426): what encryption gave comes back as
it was. -/
def State.opened (s : State) (l ct : Nat) : Nat × Bool :=
  if ct = s.sealedLine l then (s.rd (64 * l) 64, true)
  else
    let g := SMap.get 0 s.lh.keys (keyAt (buddy (lineBank l / 1024)) (lineBank l / 1024) (s.sliceOf (lineBank l)))
    let v := Config.decipher g l (BitVec.ofNat 512 ct)
    (v.toNat, decide (ct / 2 ^ 512 = (Config.tag g l v).toNat))

/-- A delta is applied, or discarded: nothing waits for it any more (R325, R433). -/
def State.dropDelta (s : State) (id : Nat) : State :=
  { s with ras := { s.ras with deltas := s.ras.deltas.filter fun d => d.id != id }
           stores := s.stores.map fun (f : InFlight) => { f with deltas := f.deltas.filter fun d => d != id }
           eng := { s.eng with cmds := s.eng.cmds.map fun (c : Cmd) => { c with deltas := c.deltas.filter fun d => d != id } } }

/-- Whether a delta of a line's stripe has been sent and not applied (R325). -/
def State.stripeBusy (s : State) (l : Nat) : Bool :=
  s.ras.deltas.any fun d => d.row = parityRowOf (lineRow l)

/-- A line found uncorrectable is rebuilt from its stripe and rewritten in place, or poisoned: when another row of the stripe is
uncorrectable or the rebuilt tag does not match (R426). `other` and `tag` say what nature decides. -/
def State.rebuildLine (s : State) (l : Nat) (other tag : Bool) : State :=
  let stripe := s.ras.parityBad.contains (parityRowOf (lineRow l)) || !s.ras.lost.isEmpty || other
  let (v, fits) := s.opened l (s.rebuilt l)
  if !stripe && !tag && fits then ({ s with mem := memWrite s.mem (64 * l) 64 v }.lineErr 0x41 0 l).faqPut 1 l
  else
    let s := s.setPoison (l * 64) 64
    if !stripe then (s.lineErr 0x43 2 l).faqPut 2 l else (s.lineErr 0x42 1 l).faqPut 1 l

/-- A line whose tag does not match is poisoned (R427). -/
def State.tagMismatch (s : State) (l : Nat) : State := ((s.setPoison (l * 64) 64).lineErr 0x43 2 l).faqPut 2 l

end Sys2Proof.Machine
end

