-- ==== Sys2Proof/Machine/Access.lean ====
section
/-! DEFINITION. Performing accesses: loads, stores and atomics on HC, SW, CP and remote memory (R73–R82, R85), the view and
the sets of a transaction (R86, R87), and the scratchpad with its region maps (R69–R72, R212). -/

namespace Sys2Proof.Machine

open Sys2Proof

/-- Who makes an access: team, group, lane, core. -/
structure Who where
  t : Nat
  g : Nat
  lane : Nat
  core : Nat
  deriving DecidableEq, Repr

/-! ## Atomic operations (R215–R217) -/

/-- The new memory value of an operation (R215). -/
def amoOp (n : Nat) (p : BitVec 3) (m b : Nat) : Nat :=
  let w := 8 * n
  let b := b % 2 ^ w
  if p = 0 then (m + b) % 2 ^ w
  else if p = 1 then Nat.land m b
  else if p = 2 then Nat.lor m b
  else if p = 3 then Nat.xor m b
  else if p = 4 then wrap w (min (val true w m) (val true w b))
  else if p = 5 then wrap w (max (val true w m) (val true w b))
  else if p = 6 then b
  else
    let fm := if n = 8 then f64 else f32
    fm.round .rne (match FV.add false (fm.decode m) (fm.decode b) with
      | .num _ 0 _ => .num false 0 0
      | v => v)

/-- What an operation makes of the memory value; none where CAS does not store (R216, R217). -/
def Rmw.run (r : Rmw) (m : Nat) : Option Nat :=
  if r.cas then (if m = r.cmp % 2 ^ (8 * r.n) then some (r.b % 2 ^ (8 * r.n)) else none) else some (amoOp r.n r.p m r.b)

/-! ## Logical time (R19, R75) -/

/-- Write timestamp and lease end of a line at its home slice. -/
def State.stampOf (s : State) (line : Nat) : Nat × Nat := SMap.get (0, 0) s.cache.stamp line

/-- A core's logical time. -/
def State.coreTime (s : State) (core : Nat) : Nat := SMap.get 0 s.cache.ltime core

/-- A core obtains an HC line: its lease reaches at least the core's logical time plus SY.LEASE, and the core's logical time the line's
write timestamp. -/
def State.leaseRead (s : State) (core line : Nat) : State :=
  let (w, e) := s.stampOf line
  { s with cache := { s.cache with stamp := SMap.set (0, 0) s.cache.stamp line (w, max e (s.coreTime core + s.cache.lease.toNat))
                                   ltime := SMap.set 0 s.cache.ltime core (max (s.coreTime core) w) } }

/-- A store, atomic or commit of a core on an HC line takes a write timestamp one past the lease end, and the core's logical time reaches
it. -/
def State.leaseWrite (s : State) (core line : Nat) : State :=
  let w := (s.stampOf line).2 + 1
  { s with cache := { s.cache with stamp := SMap.set (0, 0) s.cache.stamp line (w, w)
                                   ltime := SMap.set 0 s.cache.ltime core (max (s.coreTime core) w) } }

/-! ## L1 copies -/

/-- The bytes of a 128-byte line of memory, by offset. -/
def State.lineData (s : State) (line : Nat) : SMap Byte :=
  (s.mem.filter fun e => e.1 / 128 = line).map fun e => (e.1 % 128, e.2)

/-- A core's L1 copy of a line. -/
def State.l1 (s : State) (core line : Nat) : Option L1Line :=
  s.cache.l1.find? fun e => e.core = core ∧ e.line = line

/-- Put a copy into a core's L1 in place of an older one. -/
def State.l1Put (s : State) (v : L1Line) : State :=
  { s with cache := { s.cache with l1 := (s.cache.l1.filter fun e => !(e.core = v.core ∧ e.line = v.line)) ++ [v] } }

/-- Drop a core's copy of a line. -/
def State.l1Drop (s : State) (core line : Nat) : State :=
  { s with cache := { s.cache with l1 := s.cache.l1.filter fun e => !(e.core = core ∧ e.line = line) } }

/-- Whether a core has an L1: a ledge core's accesses are served elsewhere. -/
def hasL1 (core : Nat) : Bool := core < 384 || 640 ≤ core

/-- Whether an access is served at the home slice without a copy in L1: HC memory, HOME = 11, cores without L1 (R75, R76). -/
def Xl.direct (x : Xl) (core : Nat) : Bool := (x.kind = 0 && x.coh = 0) || x.home = 3 || !hasL1 core

/-- A thread's own stores to a line that are still on their way, applied in program order (R77). -/
def State.ownStores (s : State) (w : Who) (line : Nat) (d : SMap Byte) : SMap Byte :=
  (s.stores.filter fun f => !f.performed && !f.remote && f.team = w.t && f.grp = w.g && f.lane = w.lane && f.key / 128 = line).foldl
    (fun d f => memWrite d (f.key % 128) f.size f.val.toNat) d

/-- A write-back is charged at once, down to the lowest balance (R360). -/
def State.chargeBack (s : State) (fn n : Nat) : State :=
  let f := s.fn fn
  let c : Int := (1000 * ((n + 63) / 64) : Nat)
  if f.mrate = 0 then s else s.setFn fn { f with mbal := min f.mbal (max (f.mbal - c) (-(1000 * f.debtmax : Nat))) }

/-- The deadline stamp of a request made now (R42, R318). -/
def State.stampNow (s : State) (dloff : Nat) : Nat := (s.clk.time.toNat / 64 + dloff) % 2 ^ 16

/-- A request may reach its channel's queue, where it waits for a command slot (R318); caches in front of the stacks serve the
others. `cls` and `stamp` are its service class and deadline stamp, `req` who counts its misses (R321). -/
def State.askChan (s : State) (fn cls stamp key req : Nat) : State :=
  let waits : Bool := decide (key < 2 ^ 40) && (s.free (2 ^ 28 + s.clk.ids)).getLsbD 0
  let r : ChanReq := { chan := keyBank key / 32, fn := fn, cls := cls, stamp := stamp, arrived := s.clk.time, seq := s.clk.ids, req := req }
  { s with clk := { s.clk with ids := s.clk.ids + 1 }, ras := { s.ras with chans := s.ras.chans ++ if waits then [r] else [] } }

/-- A line of L1 is dirtied by a store of a team: the store's class and stamp stay with it (R318). -/
def State.dirtied (s : State) (t : Nat) (c : L1Line) : L1Line := { c with dirty := true, cls := (s.team t).scls, stamp := s.stampNow (s.team t).dloff }

/-- A core writes its modified copy of a line back to memory (R80, R225); the function that owns the line's bank is charged, but not for
a harbour core (R360). -/
def State.l1Clean (s : State) (core line : Nat) : State :=
  match s.l1 core line with
  | some c =>
    if c.dirty then
      let s := if 640 ≤ core then s else s.chargeBack (s.sliceOf (keyBank (line * 128))) 128
      let s := ((s.askChan (s.sliceOf (keyBank (line * 128))) c.cls c.stamp (line * 128) 2000).l1Put { c with dirty := false }).writeAt (line * 128) 128 (memRead c.data 0 128)
      if c.poison then s.setPoison (line * 128) 128 else s
    else s
  | none => s

/-- The copy through which a core serves a CP line, filled on first access (R80). -/
def State.cpLine (s : State) (core : Nat) (x : Xl) : L1Line :=
  (s.l1 core (x.key / 128)).getD { core := core, line := x.key / 128, kind := if x.home = 1 then 4 else 2, frame := (x.pa - x.pa % x.size) / 4096,
                                   poison := s.isPoison (x.key / 128 * 128) 128, data := s.lineData (x.key / 128) }

/-- The copy in a core's L1 that serves a lane's load: a CP copy; of an SW or remote line, where the free value says so (R77, R80, R82). -/
def State.l1Serves (s : State) (core lane : Nat) (x : Xl) : Option L1Line :=
  if x.direct core then none
  else if x.coh = 2 ∧ x.kind = 0 then s.l1 core (x.key / 128)
  else if (s.free (2 ^ 20 + lane)).getLsbD 0 then s.l1 core (x.key / 128) else none

/-- Read `n` bytes as a core sees them, and whether they come as poison. An SW or remote copy in L1, however old, may serve;
so may a fetch (R77, R82): the free value decides where there is a copy. -/
def State.readAt (s : State) (w : Who) (x : Xl) (n : Nat) : (Nat × Bool) × State :=
  let line := x.key / 128
  if x.direct w.core then
    let v := if x.home = 3 ∨ (x.kind = 0 ∧ x.coh = 0) then s.rd x.key n else memRead (s.ownStores w line (s.lineData line)) (x.key % 128) n
    let s1 := s.noteRead x.key n
    ((v, s.isPoison x.key n), if x.kind = 0 ∧ x.coh = 0 then s1.leaseRead w.core line else s1)
  else if x.coh = 2 ∧ x.kind = 0 then
    let c := s.cpLine w.core x
    ((memRead c.data (x.key % 128) n, c.poison), (if (s.l1 w.core line).isSome then s else s.noteRead x.key n).l1Put c)
  else
    let fresh : L1Line := { core := w.core, line := line, kind := if x.kind = 0 then 1 else 3,
                            poison := s.isPoison (line * 128) 128, data := s.lineData line }
    let old := s.l1Serves w.core w.lane x
    let c := old.getD fresh
    ((memRead (s.ownStores w line c.data) (x.key % 128) n, c.poison), (if old.isSome then s else s.noteRead x.key n).l1Put c)

/-- Whether a store is a thread's: a drain's unit is of every lane that issued it. -/
def InFlight.of (f : InFlight) (t g lane : Nat) : Bool :=
  f.team = t && f.grp = g && match f.drain with
    | some u => u.lanes.getLsbD lane
    | none => f.lane = lane

/-- A store, or a remote atomic, that is not yet acknowledged joins the list (R75, R77, R82). -/
def State.inFlight (s : State) (w : Who) (f : InFlight) : State :=
  let (id, s) := s.newId
  { s with stores := s.stores ++ [{ f with id := id, seq := s.clk.seq, team := w.t, grp := w.g, lane := w.lane, since := s.clk.time }] }

/-- The touched-slice bit of a line (R77). -/
def tsmBit (line : Nat) : Word := BitVec.ofNat 64 (2 ^ (Config.homeSlice line % 64))

/-- An access to another package or the host counts until its acknowledgement (R82, R341). -/
def State.countOut (s : State) (w : Who) : State :=
  s.updGrp w.t w.g fun g => g.updTh w.lane fun th => { th with osat := th.osat + 1 }

/-- Update the issuing core's copy of a line, if it holds one (R77). -/
def State.l1Write (s : State) (core key n v : Nat) : State :=
  match s.l1 core (key / 128) with
  | some c => s.l1Put { c with data := memWrite c.data (key % 128) n v }
  | none => s

/-- The other backing's key of an access through a twin descriptor, with what tells when it holds (R340). -/
def Xl.twin (x : Xl) : Option (Nat × Nat × Nat) :=
  match x.desc, x.alt with
  | some d, some a => some (d, x.act, a.1)
  | _, _ => none

/-- A plain store of `n` bytes by a lane. HC stores are performed at the home slice at issue; SW stores and stores to other
packages are on their way until STORE_ACK performs them; CP lines are written in L1 (R75–R82). -/
def State.storeAt (s : State) (w : Who) (x : Xl) (n v : Nat) : State :=
  if x.kind ≠ 0 then
    (((s.l1Write w.core x.key n v).countOut w).inFlight w
      { key := x.key, size := n, val := BitVec.ofNat 64 v, performed := false, remote := true, twin := x.twin })
  else if x.coh = 2 ∧ !x.direct w.core then
    let c := s.cpLine w.core x
    s.l1Put { s.dirtied w.t c with data := memWrite c.data (x.key % 128) n v }
  else if x.coh = 1 then
    let s := s.l1Write w.core x.key n v
    let s := s.updGrp w.t w.g fun g => g.updTh w.lane fun th => { th with tsm := th.tsm ||| tsmBit (x.key / 128) }
    s.inFlight w { key := x.key, size := n, val := BitVec.ofNat 64 v, performed := false, twin := x.twin }
  else
    let u := (s.leaseWrite w.core (x.key / 128)).writeAt x.key n v
    u.inFlight w { key := x.key, size := n, val := BitVec.ofNat 64 v, deltas := s.sentSince u }

/-- Where a store on its way goes: through a twin descriptor, to the backing that is active when it is performed (R340). -/
def State.storeKey (s : State) (f : InFlight) : Nat :=
  match f.twin with
  | some (d, act, alt) => if s.rd d 8 / 2 ^ 63 % 2 = act then f.key else alt
  | none => f.key

/-- The result that an atomic on its way was to give comes into being (R82). -/
def Group.answer (g : Group) (lane seq : Nat) (v : Word) (bad : Bool) : Group :=
  { g with out := g.out.map fun (p : Pend) => if p.lane = lane ∧ p.seq = seq ∧ !p.ready then { p with val := v, poison := bad, ready := true } else p }

/-- A store on its way is performed at its home; so is an atomic, which answers with the old value (R77, R82, R340). -/
def State.performStore (s : State) (f : InFlight) : State :=
  let k := s.storeKey f
  let done (u : State) : State := { u with stores := u.stores.map fun (e : InFlight) =>
    if e.id = f.id then { e with performed := true, deltas := s.sentSince u, key := k, twin := none } else e }
  match f.rmw with
  | none => done (s.writeAt k f.size f.val.toNat)
  | some r =>
    let m := s.rd k f.size
    let bad := s.isPoison k f.size
    let s := done (match (if bad then none else r.run m) with
      | some v => s.writeAt k f.size v
      | none => s)
    if s.hasGrp f.team f.grp then s.updGrp f.team f.grp fun g => g.answer f.lane f.seq (BitVec.ofNat 64 m) bad else s

/-- A thread's own stores to a line are performed before its atomic there (R77, R85). -/
def State.flushOwn (s : State) (w : Who) (line : Nat) : State :=
  (s.stores.filter fun f => !f.performed && !f.remote && f.team = w.t && f.grp = w.g && f.lane = w.lane && f.key / 128 = line).foldl
    (fun s f => s.performStore f) s

/-- An atomic of `n` bytes: one event that reads, and writes what `op` gives; the old value and whether it came as poison
(R85, R219). Poison keeps AMO, CAS and SAMO from writing, not RED (R430). Any L1 copy on the issuing core is invalidated; a CP
line is written back first, but on a HOME = 01 page the pinned copy itself is changed. RED sets the SY.TSM bit of an SW line,
as a store does (R77, R85). An atomic on another package's line is performed at once or, as the free value says, at its home when
STORE_ACK comes to it (R82). -/
def State.atomicAt (s : State) (w : Who) (x : Xl) (n : Nat) (red : Bool) (r : Rmw) : (Nat × Bool) × State :=
  let line := x.key / 128
  let op := r.run
  if x.kind = 0 ∧ x.coh = 2 ∧ x.home = 1 ∧ hasL1 w.core then
    let c := s.cpLine w.core x
    let m := memRead c.data (x.key % 128) n
    match (if c.poison && !red then none else op m) with
    | some v => ((m, c.poison), s.l1Put { s.dirtied w.t c with data := memWrite c.data (x.key % 128) n v })
    | none => ((m, c.poison), s.l1Put c)
  else if x.kind ≠ 0 ∧ !red ∧ (s.free (2 ^ 21 + w.lane)).getLsbD 0 then
    ((0, false), ((s.l1Drop w.core line).countOut w).inFlight w { key := x.key, size := n, performed := false, remote := true, rmw := some r })
  else
    let s := if x.kind = 0 then (s.flushOwn w line).l1Clean w.core line else s
    let s := (s.l1Drop w.core line).noteRead x.key n
    let m := s.rd x.key n
    let bad := s.isPoison x.key n
    let s := if red ∧ x.kind = 0 ∧ x.coh = 1
      then s.updGrp w.t w.g fun g => g.updTh w.lane fun th => { th with tsm := th.tsm ||| tsmBit line } else s
    match (if bad && !red then none else op m) with
    | some v =>
      let u := (if x.kind = 0 ∧ x.coh = 0 then s.leaseWrite w.core line else s).writeAt x.key n v
      if x.kind = 0 then ((m, bad), u.inFlight w { key := x.key, size := n, val := BitVec.ofNat 64 v, deltas := s.sentSince u })
      else ((m, bad), (u.countOut w).inFlight w { key := x.key, size := n, val := BitVec.ofNat 64 v, remote := true })
    | none =>
      if x.kind = 0 then ((m, bad), if x.coh = 0 then s.leaseRead w.core line else s)
      else ((m, bad), (s.countOut w).inFlight w { key := x.key, size := n, val := BitVec.ofNat 64 m, remote := true })

/-! ## Checks of an access by a group (R80, R86, R235, R336) -/

/-- The page of a translation, as CP ownership counts it: its first device-physical 4 KB frame. -/
def Xl.frame (x : Xl) : Nat := (x.pa - x.pa % x.size) / 4096

/-- The owner of a CP page plus one; 0 for none (R80). -/
def State.owner (s : State) (x : Xl) : Nat := SMap.get 0 s.cache.cpOwner x.frame

/-- Translate and check an access: 0x05, then 0x07, then 0x06 (R336, R412). `bar`: pages that the access itself excludes. -/
def State.checkPage (s : State) (rg : Regime) (core : Nat) (acc : Acc) (inTx : Bool) (va : Nat)
    (bar : Xl → Bool := fun _ => false) (pick : Nat → Nat → Nat := keepAct) : Except XErr Xl :=
  match s.translate rg va pick with
  | .error (.demand g a k z) => .error (.demand g a (if k = 3 then 3 else acc.reqKind) z)
  | .error x => .error x
  | .ok x =>
    if bar x || (inTx && (x.kind != 0 || x.coh != 0)) then .error (.trap 0x07 none)
    else if x.kind = 0 ∧ x.coh = 2 ∧ s.owner x ≠ 0 ∧ s.owner x ≠ core + 1 then .error (.trap 0x07 none)
    else if x.denies acc then .error (.trap 0x06 none)
    else .ok x

/-- Whether a bank rejects a request: its slice is not that of the request's function (R24, R292). -/
def State.wrongSlice (s : State) (rg : Regime) (x : Xl) : Bool := x.kind = 0 && s.sliceOf (keyBank x.key) != rg.fn

/-- Whether a request is held because its function's bucket is not above zero (R360). Harbour cores, and the device's own
accesses, have no bucket. -/
def State.sluiced (s : State) (rg : Regime) (x : Xl) : Bool :=
  let f := s.fn rg.fn
  decide (rg.unit < 320) && !rg.harbour &&
  (if x.kind = 0 then f.mrate != 0 && decide (f.mbal ≤ 0) else f.lrate != 0 && decide (f.lbal ≤ 0))

/-- A request of a function is charged for its bytes (R360). -/
def State.charge (s : State) (rg : Regime) (x : Xl) (n : Nat) : State :=
  let f := s.fn rg.fn
  let c : Int := (1000 * ((n + 63) / 64) : Nat)
  if 320 ≤ rg.unit ∨ rg.harbour then s
  else if x.kind = 0 then (if f.mrate = 0 then s else s.setFn rg.fn { f with mbal := f.mbal - c })
  else if f.lrate = 0 then s else s.setFn rg.fn { f with lbal := f.lbal - c }

/-- A function's entry of the peer table (R391): the system package number and the partition tag of a peer index. -/
def State.peerPkg (s : State) (fn i : Nat) : Nat := bf (SMap.get 0 s.ext.peer (1024 * fn + i)).toNat 17 0
def State.peerTag (s : State) (fn i : Nat) : Nat := bf (SMap.get 0 s.ext.peer (1024 * fn + i)).toNat 47 32

/-- The tags of a packet of a function to a peer (R24, R391). -/
def State.tagsOf (s : State) (fn i cls dloff : Nat) : Tags :=
  { pkg := s.peerPkg fn i, tag := s.peerTag fn i, vf := fn, cls := cls, stamp := s.stampNow dloff }

/-- An access to another package's memory leaves as a packet. -/
def State.sendOut (s : State) (x : Xl) (t : Tags) : State :=
  if x.kind = 2 then { s with outbox := s.outbox ++ [.packet t x.pa] } else s

/-- A request of a page with a service class and a deadline offset: to its channel, or out on a Longshore link (R24, R42, R318). -/
def State.toChannel (s : State) (fn cls dloff req : Nat) (x : Xl) : State :=
  (s.askChan fn cls (s.stampNow dloff) x.key req).sendOut x (s.tagsOf fn (x.key / 2 ^ 48 % 1024) cls dloff)

/-- Translate and check an access by a group; a bank of another slice rejects it. -/
def State.checkBack (s : State) (rg : Regime) (core : Nat) (acc : Acc) (inTx : Bool) (va : Nat)
    (bar : Xl → Bool := fun _ => false) (pick : Nat → Nat → Nat := keepAct) : Except XErr Xl :=
  match s.checkPage rg core acc inTx va bar pick with
  | .error e => .error e
  | .ok x => if s.wrongSlice rg x then .error (.trap 0x05 none) else .ok x

/-- The same for an access that sends a request: it is held while its bucket is empty. A write-back, and a load that the core's own copy
serves, sends none (R360). -/
def State.check (s : State) (rg : Regime) (core : Nat) (acc : Acc) (inTx : Bool) (va : Nat)
    (bar : Xl → Bool := fun _ => false) (pick : Nat → Nat → Nat := keepAct) (served : Xl → Bool := fun _ => false) : Except XErr Xl :=
  match s.checkBack rg core acc inTx va bar pick with
  | .error e => .error e
  | .ok x => if s.sluiced rg x && !served x then .error .held else .ok x

/-- A core that accesses a CP page with no owner becomes its owner; the team is noted as a user (R80). An access for a command whose team
is gone, or that never had one, is noted under that team's number, which no end of a team takes back: the manual gives such ownership no
end, and this one is the model's choice (log 176). -/
def State.claimCp (s : State) (t core : Nat) (x : Xl) : State :=
  if x.kind = 0 ∧ x.coh = 2 then
    let c := s.cache
    { s with cache := { c with cpOwner := SMap.set 0 c.cpOwner x.frame (core + 1)
                               cpUse := if c.cpUse.contains (x.frame, t) then c.cpUse else c.cpUse ++ [(x.frame, t)] } }
  else s

/-! ## Transactions (R86, R87) -/

/-- The transaction in which a lane stands. -/
def Group.txOf (g : Group) (lane : Nat) : Option Tx :=
  match g.tx with
  | some x => if x.parts.getLsbD lane then some x else none
  | none => none

/-- Change the gathered data of the innermost open frame. -/
def Tx.updData (x : Tx) (f : TxData → TxData) : Tx :=
  match x.frames with
  | [] => { x with data := f x.data }
  | fr :: rest => { x with frames := { fr with data := f fr.data } :: rest }

/-- Bytes of an address as a transaction sees them: its own writes over memory (R87). -/
def Tx.view (x : Tx) (base : SMap Byte) (k n : Nat) : Nat :=
  let own := x.datas.foldl (fun m d => d.writes.foldl (fun m e => match e.2 with | some b => SMap.ins e.1 b m | none => m) m) []
  (List.range n).foldr (fun i acc => (match own.find? fun e => e.1 = k + i with
    | some e => e.2.toNat
    | none => (SMap.get 0 base (k + i)).toNat) + 256 * acc) 0

/-- Add a line to the read set; none past 64 lines (R86). -/
def Tx.addRead (x : Tx) (line : Nat) : Option Tx :=
  if x.reads.contains line then some x
  else if 64 ≤ x.reads.length then none
  else some { x with reads := x.reads ++ [line] }

/-- Add a line to the write set; none past 64 lines (R86). -/
def Tx.addWrite (x : Tx) (line : Nat) : Option Tx :=
  if x.wlines.contains line then some x
  else if 64 ≤ x.wlines.eraseDups.length then none
  else some (x.updData fun d => { d with wlines := d.wlines ++ [line] })

/-- Hold `n` bytes of a store until the commit (R86); a line reached through a twin descriptor is kept with what tells its backing then
(R340). -/
def Tx.store (x : Tx) (k n v : Nat) (twin : Option (Nat × Nat × Nat) := none) : Tx :=
  x.updData fun d => { d with
    twins := (match twin with | some (dk, act, alt) => [(k / 128, dk, act, alt / 128)] | none => []) ++ d.twins
    writes := (List.range n).foldl (fun m i => SMap.ins (k + i) (some (BitVec.ofNat 8 (v / 256 ^ i))) m) d.writes }

/-- A group's transaction aborts for capacity (R242). -/
def State.txCapacity (s : State) (w : Who) : State := s.updGrp w.t w.g fun g => g.abortTx .capacity 0

/-- Put a transaction back into its group. -/
def State.putTx (s : State) (w : Who) (x : Tx) : State := s.updGrp w.t w.g fun g => { g with tx := some x }

/-- A transactional load: the line, and a twin descriptor's line, join the read set (R86). None: the transaction aborted. -/
def State.txRead (s : State) (w : Who) (tx : Tx) (x : Xl) (n : Nat) : Option (Nat × Bool) × State :=
  match tx.addRead (x.key / 128) with
  | none => (none, s.txCapacity w)
  | some t1 =>
    match (match x.desc with | some d => t1.addRead (d / 128) | none => some t1) with
    | none => (none, s.txCapacity w)
    | some t2 => (some (t2.view s.mem x.key n, s.isPoison x.key n), (s.putTx w t2).noteRead x.key n)

/-- A transactional store: held until the commit (R86). -/
def State.txWrite (s : State) (w : Who) (tx : Tx) (x : Xl) (n v : Nat) : State :=
  match tx.addWrite (x.key / 128) with
  | none => s.txCapacity w
  | some t1 => s.putTx w (t1.store x.key n v x.twin)

/-- The key at which a byte held by a transaction is written: in the backing that is active at the commit (R340). -/
def State.commitKey (s : State) (d : TxData) (k : Nat) : Nat :=
  match d.twins.find? fun e => e.1 = k / 128 with
  | some (_, dk, act, alt) => if s.rd dk 8 / 2 ^ 63 % 2 = act then k else alt * 128 + k % 128
  | none => k

/-- A load by a lane, inside or outside a transaction: the value and whether it is poison; none where the transaction
aborted. -/
def State.loadLane (s : State) (w : Who) (x : Xl) (n : Nat) : Option (Nat × Bool) × State :=
  match (s.grp w.t w.g).txOf w.lane with
  | some tx => s.txRead w tx x n
  | none =>
    let (v, s) := s.readAt w x n
    (some v, s)

/-- A store by a lane, inside or outside a transaction. -/
def State.storeLane (s : State) (w : Who) (x : Xl) (n v : Nat) : State :=
  match (s.grp w.t w.g).txOf w.lane with
  | some tx => s.txWrite w tx x n v
  | none => s.storeAt w x n v

/-- A line joins the write set of a lane's transaction. -/
def State.txLine (s : State) (w : Who) (tx : Tx) (line : Nat) : State :=
  match tx.addWrite line with
  | none => s.txCapacity w
  | some t1 => s.putTx w t1

/-- An atomic by a lane; inside a transaction a load of the line and a store held until the commit; the line joins both sets, stored to
or not (R219). -/
def State.atomicLane (s : State) (w : Who) (x : Xl) (n : Nat) (red : Bool) (r : Rmw) : Option (Nat × Bool) × State :=
  match (s.grp w.t w.g).txOf w.lane with
  | some tx =>
    match s.txRead w tx x n with
    | (none, s) => (none, s)
    | (some (m, bad), s) =>
      match (if bad && !red then none else r.run m), (s.grp w.t w.g).txOf w.lane with
      | some v, some tx => (some (m, bad), s.txWrite w tx x n v)
      | none, some tx => (some (m, bad), s.txLine w tx (x.key / 128))
      | _, none => (some (m, bad), s)
  | none =>
    let (m, s) := s.atomicAt w x n red r
    (some m, s)

/-! ## The scratchpad (R69–R72, R212) -/

/-- State of a line of the window. -/
def Team.line (tm : Team) (i : Nat) : SpLine := SMap.get {} tm.lines i

/-- Change a line of the window. -/
def Team.updLine (tm : Team) (i : Nat) (f : SpLine → SpLine) : Team :=
  { tm with lines := SMap.set {} tm.lines i (f (tm.line i)) }

/-- Whether an access lies in the window (R212). -/
def Team.inRange (tm : Team) (off n : Nat) : Bool := decide (off + n ≤ tm.spl * 128)

/-- Read bytes of the window. -/
def Team.spRead (tm : Team) (off n : Nat) : Nat := memRead tm.sp off n

/-- Write bytes of the window; the line becomes modified, with the store's deadline stamp (R69, R318). -/
def Team.spWrite (tm : Team) (off n v : Nat) (stamp : Nat := 0) : Team :=
  { tm with sp := memWrite tm.sp off n v }.updLine (off / 128) fun l => { l with modified := true, stamp := stamp }

/-- The first access out of range is kept in SY.SPERR (R212). -/
def Team.spErr (tm : Team) (wr : Bool) (off : Nat) : Team :=
  if tm.sperr.getLsbD 63 then tm
  else { tm with sperr := BitVec.ofNat 64 (2 ^ 63 + (if wr then 2 ^ 62 else 0) + off % 2 ^ 20) }

/-- Fields of region map `k` (R71). -/
def Team.rgnEn (tm : Team) (k : Nat) : Bool := (SMap.get 0 tm.rgnctl k).getLsbD 48
def Team.rgnWbk (tm : Team) (k : Nat) : Bool := (SMap.get 0 tm.rgnctl k).getLsbD 47
def Team.rgnOff (tm : Team) (k : Nat) : Nat := bf (SMap.get 0 tm.rgnctl k).toNat 43 32
def Team.rgnLines (tm : Team) (k : Nat) : Nat := bf (SMap.get 0 tm.rgnctl k).toNat 12 0
def Team.rgnBase (tm : Team) (k : Nat) : Nat := bf (SMap.get 0 tm.rgnva k).toNat 47 7 * 128

/-- The enabled region that covers a line of the window. -/
def Team.rgnAt (tm : Team) (line : Nat) : Option Nat :=
  (List.range 8).find? fun k => tm.rgnEn k && decide (tm.rgnOff k ≤ line) && decide (line < tm.rgnOff k + tm.rgnLines k)

/-- The virtual address of line `i` of a region. -/
def Team.rgnVa (tm : Team) (k i : Nat) : Nat := (tm.rgnBase k + 128 * i) % 2 ^ 48

/-- What a touch of the scratchpad meets (R69, R72). -/
inductive SpTouch where
  | ready
  | absent
  | fill (k : Nat)
  | fault (e : XErr)
  deriving DecidableEq, Repr

/-- The first failing translation of a list of addresses. -/
def State.firstErr (s : State) (rg : Regime) (core : Nat) (acc : Acc) : List Nat → Option XErr
  | [] => none
  | a :: t =>
    match s.check rg core acc false a with
    | .error e => some e
    | .ok _ => s.firstErr rg core acc t

/-- What keeps a fill under way from its next line: a fault, which the access that touches an absent line takes (R72). -/
def State.fillStop (s : State) (t k : Nat) : Option XErr :=
  let tm := s.team t
  let left := SMap.get 0 tm.rgnFill k
  if left = 0 then none
  else match s.check tm.regime tm.core .load false (tm.rgnVa k (tm.rgnLines k - left)) with
    | .error (.trap c n) => some (.trap c n)
    | .error (.demand g a d z) => some (.demand g a d z)
    | _ => none

/-- What an in-range access to a line of the window meets: a region not yet filled is translated whole first (R72). -/
def State.touch (s : State) (t line : Nat) : SpTouch :=
  let tm := s.team t
  match tm.rgnAt line with
  | some k =>
    if SMap.get false tm.rgnFilled k then
      (if !(tm.line line).absent then .ready
       else match s.fillStop t k with
         | some e => .fault e
         | none => .absent)
    else match s.firstErr tm.regime tm.core .load ((List.range (tm.rgnLines k)).map (tm.rgnVa k)) with
      | some e => .fault e
      | none => .fill k
  | none => if (tm.line line).absent then .absent else .ready

/-- A region's fill starts: its lines become absent until their data arrive (R72). -/
def Team.startFill (tm : Team) (k : Nat) : Team :=
  let tm := { tm with rgnFilled := SMap.set false tm.rgnFilled k true, rgnFill := SMap.set 0 tm.rgnFill k (tm.rgnLines k) }
  (List.range (tm.rgnLines k)).foldl (fun tm i => tm.updLine (tm.rgnOff k + i) fun l => { l with absent := true }) tm

/-- Write the modified lines of a region back as plain stores, or discard them (R72). A line whose page cannot be written
any more is skipped, with an error record. -/
def State.rgnWriteBack (s : State) (t k : Nat) : State :=
  let tm := s.team t
  let s := if tm.rgnWbk k then
      (List.range (tm.rgnLines k)).foldl (fun s i =>
        if ((s.team t).line (tm.rgnOff k + i)).modified then
          match s.checkBack tm.regime tm.core .store false (tm.rgnVa k i) with
          | .ok x =>
            let v := (s.team t).spRead ((tm.rgnOff k + i) * 128) 128
            let s := ((((s.chargeBack tm.fn 128).claimCp t tm.core x).askChan tm.fn tm.scls ((s.team t).line (tm.rgnOff k + i)).stamp x.key 2000)).l1Write tm.core x.key 128 v
            if x.kind = 0 ∧ x.coh = 2 ∧ hasL1 tm.core then
              s.l1Put { s.dirtied t (s.cpLine tm.core x) with data := memWrite [] 0 128 v }
            else
              let u := s.writeAt x.key 128 v
              u.inFlight { t := t, g := 0, lane := 32, core := tm.core } { key := x.key, size := 8, val := BitVec.ofNat 64 v, deltas := s.sentSince u }
          | .error (.trap c note) =>
            (s.xnote note tm.core [64 * t + 63]).postErr { snum := tm.core, cause := c, vf := tm.fn, akind := 1, addr := tm.rgnVa k i }
          | .error _ => s
        else s) s
    else s
  s.updTeam t fun tm => (List.range (tm.rgnLines k)).foldl (fun tm i => tm.updLine (tm.rgnOff k + i) fun l => { l with modified := false }) tm

/-- Whether a region's write-back must wait for a page that is not present (R72). -/
def State.rgnParks (s : State) (t k : Nat) : Bool :=
  let tm := s.team t
  tm.rgnWbk k && (List.range (tm.rgnLines k)).any fun i =>
    (tm.line (tm.rgnOff k + i)).modified &&
    match s.checkBack tm.regime tm.core .store false (tm.rgnVa k i) with
    | .error (.trap _ _) => false
    | .error _ => true
    | .ok _ => false

/-- What a region's write-back meets besides traps, in the order of its lines (R72). -/
def State.rgnFaults (s : State) (t k : Nat) : List XErr :=
  let tm := s.team t
  if !tm.rgnWbk k then []
  else (List.range (tm.rgnLines k)).filterMap fun i =>
    if (tm.line (tm.rgnOff k + i)).modified then
      match s.checkBack tm.regime tm.core .store false (tm.rgnVa k i) with
      | .error e => some e
      | .ok _ => none
    else none

/-- The map unit asks for the pages that its write-backs wait for (R72, R343). -/
def State.rgnAsk (s : State) (t : Nat) (ks : List Nat) : State :=
  (ks.flatMap fun k => s.rgnFaults t k).foldl (fun s e => s.await (s.team t).fn [64 * t + 63] e) s

/-- Whether a region has lines that a write-back would store (R72). -/
def Team.rgnHas (tm : Team) (k : Nat) : Bool :=
  tm.rgnWbk k && (List.range (tm.rgnLines k)).any fun i => (tm.line (tm.rgnOff k + i)).modified

/-- The regions of a team that are enabled. -/
def Team.regions (tm : Team) : List Nat := (List.range 8).filter fun k => tm.rgnEn k

end Sys2Proof.Machine
end

