-- ==== Sys2Proof/Machine/Operands.lean ====
section
/-! DEFINITION. Issuing a word: the checks that come before its effect in the order of R412, the operand forms (thread
registers, ports, uniform registers, predicates; R103–R105), hazard reads (R100), and what follows the effect: the next
word, the switch marker (R98, R99), the trap (R411) or the demand fault (R60). -/

namespace Sys2Proof.Machine

open Sys2Proof

/-- What the encoding of a word says about its issue. -/
structure Op where
  /-- Class of R113. -/
  cls : Nat := 0
  /-- The static rules hold. -/
  ok : Bool := true
  sm : Bool := false
  /-- Registers read, in the order A, B, D, T of R105; thread-register numbers 60–63 are ports. -/
  rd : List (RegFile × Nat) := []
  /-- Thread-register fields written. -/
  wx : List Nat := []
  /-- Further thread registers named, for the allotment of R48. -/
  xs : List Nat := []
  /-- Fields that may name no port: cause 0x0B (R211, R237). -/
  noPort : List Nat := []
  /-- A register read in other lanes, and in which (R179). -/
  far : Option (Nat × (LaneMask → LaneMask)) := none
  /-- Only the lowest lane's register is read (R175). -/
  low : Bool := false
  /-- Raises 0x01 inside a transaction (R240). -/
  noTx : Bool := false
  /-- The kinds of core that accept it, beyond the rule for classes (R97). -/
  cores : Nat → Bool := fun _ => true
  /-- A system register named (R6). -/
  sys : Option Nat := none
  /-- An engine queue named (R116). -/
  queue : Option Nat := none
  /-- Not allowed in this state: cause 0x01. -/
  illegal : Group → LaneMask → Bool := fun _ _ => false
  /-- Element width of hazard reads (R100). -/
  ew : Nat := 64

/-- An issue under way: team, group, lanes, place, and the values of its operands. -/
structure Iss where
  t : Nat
  g : Nat
  core : Nat
  fn : Nat
  harbour : Bool
  lanes : LaneMask
  pt : CodePt
  /-- The value of operand `k` in a lane. -/
  v : Nat → Nat → Word
  /-- The far register's value in a lane (R179). -/
  far : Nat → Word
  /-- The lowest lane of the issue. -/
  low : Nat
  /-- Lanes that stand in the open transaction. -/
  txl : LaneMask
  /-- Free values of the step. -/
  fr : Nat → Word
  /-- SY.FPMODE and SRCNT of the group. -/
  fpm : Nat
  src : Nat

/-- What an instruction does when it issues. -/
inductive Res where
  /-- Its effect is made; its lanes go on to the next word. -/
  | done (s : State)
  /-- Its effect is made, and it has placed its lanes itself; `dest`: lanes whose stop point is where they now stand. -/
  | went (s : State) (dest : LaneMask := 0)
  /-- It is held at issue and tried again; until then only this changes. -/
  | hold (f : State → State)
  /-- It waits at issue, which is not parking (R262). -/
  | stall
  /-- It raises a cause, with each lane's address; `sp`: the address is a scratchpad offset; notes for the harbour. -/
  | trap (cause : Nat) (sp : Bool) (addr : Nat → Word) (notes : List (Nat × Nat) := [])
  /-- It raises a cause in some of its lanes alone; the others stay at the word (R213). -/
  | trapIn (lanes : LaneMask) (cause : Nat) (sp : Bool) (addr : Nat → Word) (notes : List (Nat × Nat) := [])
  /-- It meets translation outcomes that are no traps, in the function's context. -/
  | fault (es : List XErr)

/-! ## Kinds of core (R97, R116) -/

/-- Ledge cores and harbour cores by number (R129). -/
def isLedge (core : Nat) : Bool := decide (512 ≤ core ∧ core < 640)
def isHarbour (core : Nat) : Bool := decide (640 ≤ core)

/-- Classes that a kind of core accepts. -/
def coreTakes (core cls : Nat) : Bool := !(cls = 3 && (isLedge core || isHarbour core))

/-- Queues present and permitted (R116). -/
def queueOk (core q : Nat) : Bool :=
  if isHarbour core then decide (3 ≤ q ∧ q ≤ 10)
  else if isLedge core then decide (4 ≤ q ∧ q ≤ 7)
  else decide (q ≤ 7)

/-! ## Operands -/

/-- Elements of width `ew` taken one by one from a list of candidates, by free values. -/
def pickElems (fr : Nat → Word) (ew salt : Nat) (cands : List Word) : Word :=
  BitVec.ofNat 64 ((List.range (64 / ew)).foldl (fun acc i =>
    let c := cands.getD ((fr (salt * 64 + i)).toNat % cands.length) 0
    acc + c.toNat / 2 ^ (ew * i) % 2 ^ ew * 2 ^ (ew * i)) 0)

/-- The value that stands in a register. -/
def Group.stands (g : Group) (f : RegFile) (lane r : Nat) : Word :=
  match f with
  | .x => g.xr lane r
  | .w => g.wr r
  | .p => if g.pr r lane then 1 else 0
  | .port => 0

/-- Values on their way to a register. -/
def Group.coming (g : Group) (f : RegFile) (lane r : Nat) : List Word :=
  (g.out.filter fun p => p.live && p.ready && !p.poison && p.isFor f lane r).map (·.val)

/-- Whether a register has an outstanding write. -/
def Group.hazard (g : Group) (f : RegFile) (lane r : Nat) : Bool := g.out.any fun p => p.live && p.isFor f lane r

/-- A read of a register: with a write outstanding, each element is the old or a new value (R100). -/
def Group.read (g : Group) (fr : Nat → Word) (ew salt : Nat) (f : RegFile) (lane r : Nat) : Word :=
  let news := g.coming f lane r
  if news.isEmpty then g.stands f lane r else pickElems fr ew salt (g.stands f lane r :: news)

/-- The port that an operand names. -/
def portOf (o : RegFile × Nat) : Option Nat := if o.1 = .x ∧ 60 ≤ o.2 then some (o.2 - 60) else none

/-- How many operands name a port. -/
def popsOf (rd : List (RegFile × Nat)) (q : Nat) : Nat := (rd.filter fun o => portOf o = some q).length

/-- Element `j` of those that a lane pops from a port: zero past COUNT (R54). -/
def Group.popVal (g : Group) (st : Stream) (lane q j : Nat) : Word :=
  let p := g.port lane q
  if st.count ≤ p.popped + j then 0 else p.got.getD j 0

/-- The value of operand `k` in a lane, before any is popped (R105). -/
def operand (g : Group) (streams : SMap Stream) (fr : Nat → Word) (ew : Nat) (rd : List (RegFile × Nat)) (k lane : Nat) : Word :=
  match rd[k]? with
  | none => 0
  | some o =>
    match portOf o with
    | some q => g.popVal (SMap.get {} streams q) lane q (popsOf (rd.take k) q)
    | none => g.read fr ew (32 * k + lane) o.1 lane o.2

/-- Pop the elements that an issue consumes (R54, R105). -/
def Group.popAll (g : Group) (m : LaneMask) (rd : List (RegFile × Nat)) : Group :=
  rd.foldl (fun g o => match portOf o with
    | some q => overLanes m (fun i g => g.updPort i q fun p => { p with got := p.got.drop 1, popped := p.popped + 1 }) g
    | none => g) g

/-- A write of a thread-register field: the register, or a push into the outbound stream; past COUNT discarded (R54, R105). -/
def Group.wrField (g : Group) (streams : SMap Stream) (lane d : Nat) (v : Word) : Group :=
  if 60 ≤ d then
    let st := SMap.get {} streams (d - 60)
    g.updPort lane (d - 60) fun p =>
      if st.count ≤ p.pushed then p else { p with push := p.push ++ [some v], pushed := p.pushed + 1 }
  else g.wrX lane d v

/-- The address of element `i` of a stream (R53). -/
def Stream.addr (st : Stream) (lin g lane i : Nat) : Nat :=
  (((st.base : Int) + lin * st.tmstride + g * st.gstride + lane * st.tstride + i * st.step) % (2 : Int) ^ 48).toNat

/-- Lanes and ports at which a pop finds too few elements. -/
def Group.starved (g : Group) (streams : SMap Stream) (m : LaneMask) (rd : List (RegFile × Nat)) : List (Nat × Nat) :=
  (lanesOf m).flatMap fun i => ((List.range 4).filter fun q =>
    let p := g.port i q
    decide (p.got.length < min (popsOf rd q) ((SMap.get {} streams q).count - p.popped))).map fun q => (i, q)

/-! ## Checks before the effect (R412) -/

/-- Whether thread registers lie in the group's allotment (R48). -/
def inAllot (rblk : Nat) (rs : List Nat) : Bool := rs.all fun r => decide (60 ≤ r ∨ r < min 60 (8 * rblk))

/-- The thread registers that a word names. -/
def Op.named (o : Op) : List Nat :=
  (o.rd.filterMap fun r => if r.1 = .x then some r.2 else none) ++ o.wx ++ o.xs ++ (match o.far with | some f => [f.1] | none => [])

/-- Cause 0x01 (R97, R103–R110, R115, R240). -/
def Op.bad (o : Op) (tm : Team) (g : Group) (pt : CodePt) (m txl : LaneMask) : Bool :=
  !o.ok || !(o.cls = pt.cls || (o.cls = 4 && pt.pos = pt.n)) || !coreTakes tm.core o.cls || !o.cores tm.core ||
  !inAllot tm.rblk o.named || (o.noTx && txl != 0) || o.illegal g m

/-- Cause 0x0B (R105, R116, R211, R237, R239); the queue of a push that a transaction holds is tested when it is made (R464). -/
def Op.portBad (o : Op) (tm : Team) (txl : LaneMask) : Bool :=
  let st (r : Nat) : Stream := SMap.get {} tm.streams (r - 60)
  (o.rd.any fun r => (portOf r).isSome && (!(st r.2).en || (st r.2).out)) ||
  (o.wx.any fun r => decide (60 ≤ r) && (!(st r).en || !(st r).out)) ||
  (o.noPort.any fun r => decide (60 ≤ r)) ||
  (txl != 0 && ((o.rd.any fun r => (portOf r).isSome) || o.wx.any fun r => decide (60 ≤ r))) ||
  (match o.queue with | some q => txl = 0 && !queueOk tm.core q | none => false)

/-- The register code of R413; `acc`: the outstanding write is that of ACC.RD. -/
def regCode (f : RegFile) (acc : Bool) (r : Nat) : Nat :=
  r + 64 * (if acc then 3 else match f with | .x => 0 | .w => 1 | .p => 2 | .port => 3)

/-- Whether the outstanding write of a register is that of ACC.RD. -/
def Group.accHazard (g : Group) (f : RegFile) (lane r : Nat) : Bool := g.out.any fun p => p.live && p.acc && p.isFor f lane r

/-- The first operand that a lane of the issue reads with an outstanding write (R100, R413). -/
def Op.hazardReg (o : Op) (g : Group) (m : LaneMask) : Option Nat :=
  let lanes := if o.low then laneBit (lowLane m) else m
  match o.rd.find? fun r => (portOf r).isNone && (lanesOf lanes).any fun i => g.hazard r.1 i r.2 with
  | some r => some (regCode r.1 ((lanesOf lanes).any fun i => g.accHazard r.1 i r.2) r.2)
  | none =>
    match o.far with
    | some f => if (lanesOf (f.2 m)).any fun i => g.hazard .x i f.1 then some (regCode .x ((lanesOf (f.2 m)).any fun i => g.accHazard .x i f.1) f.1) else none
    | none => none

/-! ## After the effect -/

/-- Lanes that still stand at a place. -/
def Group.standing (g : Group) (m : LaneMask) (pt : CodePt) : LaneMask :=
  maskWhere fun i => m.getLsbD i && (g.th i).pt = pt && (g.th i).run = .running

/-- Lanes go on to the next word; with S they park at this stop point (R99, R431). -/
def Group.advance (g : Group) (m : LaneMask) (pt : CodePt) (sm : Bool) : Group :=
  g.mapTh (g.standing m pt) fun th =>
    { th with pt := pt.next, waitRes := sm, reached := none, stopPt := if sm then some pt else none }

/-- Lanes that were placed by the instruction: with S they park at the word, or, after a transfer, at its target. -/
def Group.marked (g : Group) (m dest : LaneMask) (pt : CodePt) (sm : Bool) : Group :=
  if sm then overLanes m (fun i g => g.updTh i fun th =>
    { th with waitRes := true, stopPt := some (if dest.getLsbD i then th.pt else pt) }) g
  else g

/-- The group that completes a clause with Y is ranked as the youngest for 32 cycles (R96). -/
def Group.yields (g : Group) (pt : CodePt) (cycle : Nat) : Group :=
  if pt.y && pt.pos = pt.n then { g with youngUntil := cycle + 32 } else g

/-- The count of issues goes up; the group no longer waits, unless the word parks it (R51). -/
def State.issued (s : State) (t g : Nat) (sm : Bool) : State :=
  let s := s.updGrp t g fun gr => { gr with pace := gr.pace.go s.clk.cycle sm }
  { s with clk := { s.clk with seq := s.clk.seq + 1 } }

/-- A group's word is held in this cycle: its wait begins (R51), and another group of the core may issue (R49). -/
def State.held (s : State) (t g : Nat) : State := s.updGrp t g fun gr => { gr with pace := gr.pace.hold s.clk.cycle }

/-- A group's word does not issue in this cycle, which is no parking (R262, R333). -/
def State.passed (s : State) (t g : Nat) : State := s.updGrp t g fun gr => { gr with pace := { gr.pace with tried := s.clk.cycle + 1 } }

/-- Every open transaction of a team aborts and re-executes from TXBEG (R88). -/
def State.abortTeamTx (s : State) (t : Nat) : State :=
  s.updTeam t fun tm => { tm with groups := tm.groups.map fun e => (e.1, e.2.abortTx .again 0) }

/-- Whose accesses a group's issue makes: the group's own and those of its team's units. -/
def whoOf (t g : Nat) : List Nat := [64 * t + g + 1, 64 * t + 63]

/-- The page of a fault that something other than a replay can end. -/
def faultPage : XErr → Option (Nat × Nat)
  | .demand st a k _ => if st = 3 ∨ k = 3 then some (st, a / 4096) else none
  | _ => none

/-- A group enters a state at the present cycle, from which its age counts: also at a move between READY and ACTIVE (R49, log 166). -/
def Group.enter (g : Group) (st : GState) (cycle : Nat) : Group := { g with st := st, since := cycle, pace := g.pace.rest }

/-- When a group leaves the active set, its inbound elements are discarded and the streams rewound (R54). -/
def Group.rewind (g : Group) : Group :=
  { g with ports := g.ports.foldl (fun m e => SMap.set {} m e.1 { e.2 with got := [] }) g.ports }

/-- A group leaves the active set. -/
def Group.leave (g : Group) (st : GState) (cycle : Nat) : Group := (g.enter st cycle).rewind

/-- A group of a harbour core that meets a demand fault is parked until REPLAY, with its transaction begun anew; it is never saved, and the
team's other groups go on (R438, log 226). -/
def Group.faultPark (g : Group) (page : Option (Nat × Nat)) (cycle : Nat) : Group :=
  if g.st = .ready ∨ g.st = .active then { (g.abortTx .again 0).leave .parked cycle with awaits := some (page.getD (0, 0)) } else g

/-- Translation outcomes that are no traps: a demand fault is noted and stops the team for its save (R60), on a harbour core the group alone
(R438); an access that waits for the host's translation is held (R341). -/
def State.meet (s : State) (t g : Nat) (fn : Nat) (es : List XErr) : State :=
  let s1 := es.foldl (fun s e => s.await fn (whoOf t g) e) s
  if es.any fun e => match e with | .demand _ _ _ _ => true | _ => false
  then
    if 640 ≤ (s.team t).core then s1.updGrp t g fun gr => gr.faultPark (es.findSome? faultPage) s.clk.cycle
    else (s1.abortTeamTx t).updTeam t fun tm => { tm with faulted := true, waitPage := es.findSome? faultPage }
  else s1.held t g

/-- Lanes trap; the trap is held while a result of theirs does not exist yet (R101), or while an error record that it must
write has no room (R406). -/
def State.raise (s : State) (i : Iss) (cause : Nat) (sp : Bool) (addr : Nat → Word) (notes : List (Nat × Nat) := []) : State :=
  let g := s.grp i.t i.g
  let nests := (lanesOf i.lanes).any fun l => (g.th l).inTrap && !(g.th l).inSave
  if g.unready i.lanes || ((nests || cause = 0x08) && s.errHeld i.fn) then s.held i.t i.g
  else (notes.foldl (fun s n => s.xnote (some n) i.core (whoOf i.t i.g)) (s.takeTrap i.t i.g i.lanes cause sp i.pt addr)).issued i.t i.g false

/-- What an issue's result makes of the state. Lanes whose transaction it has aborted stand where the abort put them. -/
def finish (i : Iss) (sm : Bool) (s0 : State) : Res → State
  | .done s =>
    let left := if (s.grp i.t i.g).tx.isNone then i.txl else 0
    (s.updGrp i.t i.g fun g => (g.advance (i.lanes &&& ~~~ left) i.pt sm).yields i.pt s.clk.cycle).issued i.t i.g sm
  | .went s dest => (s.updGrp i.t i.g fun g => (g.marked i.lanes dest i.pt sm).yields i.pt s.clk.cycle).issued i.t i.g sm
  | .hold f => (f s0).held i.t i.g
  | .stall => s0.passed i.t i.g
  | .trap c sp a n => s0.raise i c sp a n
  | .trapIn m c sp a n => s0.raise { i with lanes := m } c sp a n
  | .fault es => s0.meet i.t i.g i.fn es

/-- The issue of the focus for an instruction, before its operands are popped. -/
def mkIss (o : Op) (f : Focus) (s : State) : Iss :=
  let tm := s.team f.team
  let g := tm.grp f.grp
  let low := lowLane f.lanes
  { t := f.team, g := f.grp, core := tm.core, fn := tm.fn, harbour := tm.harbour, lanes := f.lanes, pt := (g.th low).pt, low := low,
    v := operand g tm.streams s.free o.ew o.rd
    far := fun lane => match o.far with
      | some r => g.read s.free o.ew (2 ^ 16 + lane) .x lane r.1
      | none => 0
    txl := match g.tx with | some x => x.parts &&& f.lanes | none => 0
    fr := s.free, fpm := g.fpmode.toNat, src := g.srcnt.toNat }

/-- The trap among several outcomes that comes first in the order of R412, with the notes of its accesses. -/
def firstTrap (es : List XErr) : Option (Nat × List (Nat × Nat)) :=
  let has (c : Nat) : Bool := es.any fun e => match e with | .trap k _ => k = c | _ => false
  match [0x05, 0x07, 0x06, 0x08].find? has with
  | some c => some (c, es.filterMap fun e => match e with | .trap k n => if k = c then n else none | _ => none)
  | none => none

/-- An element whose load is refused takes a free value, with an error record of the cause: the words that pop raise no cause for it
(R54, R186). -/
def State.giveElem (s : State) (i : Iss) (cause lane q va : Nat) : State :=
  let tm := s.team i.t
  (s.updGrp i.t i.g fun g => g.updPort lane q fun p => { p with got := p.got ++ [s.free (2 ^ 20 + 4 * lane + q)] }).postErr
    { errOf cause with snum := tm.core, vf := tm.fn, akind := 1, addr := va }

/-- A pop that finds its queue empty: a demand fault of the element's own load is taken here; otherwise the word is held (R54, R105). -/
def State.starve (s : State) (i : Iss) (l : List (Nat × Nat)) : Res :=
  let tm := s.team i.t
  let va (e : Nat × Nat) : Nat :=
    let p := (tm.grp i.g).port e.1 e.2
    (SMap.get {} tm.streams e.2 : Stream).addr tm.lin i.g e.1 (p.popped + p.got.length)
  let es := l.filterMap fun e => match s.check tm.regime tm.core .load false (va e) with
    | .error x => some x
    | .ok _ => none
  let bars := es.filter fun x => match x with | .trap _ _ => false | _ => true
  if bars.isEmpty then
    .hold fun s => l.foldl (fun s e => match s.check tm.regime tm.core .load false (va e) with
      | .error (.trap c note) => (s.xnote note tm.core (whoOf i.t i.g)).giveElem i c e.1 e.2 (va e)
      | _ => s) s
  else .fault bars

/-- Issue a word for the focus: the checks of R412 that need no access, the wait for ports, then the instruction's own
effect on the state with its operands popped. Without a focus nothing issues. -/
def issue (o : Op) (body : Iss → State → Res) (s : State) : Host.Outcome State Fault Refusal :=
  match s.focus with
  | none => .next s
  | some f =>
    let i := mkIss o f s
    let tm := s.team i.t
    let g := tm.grp i.g
    if o.bad tm g i.pt i.lanes i.txl then .next (s.raise i 0x01 false fun _ => 0)
    else if (match o.sys with | some n => decide (0x800 ≤ n) && !i.harbour | none => false) then
      .next (s.raise i 0x03 false fun _ => BitVec.ofNat 64 (o.sys.getD 0))
    else if o.portBad tm i.txl then .next (s.raise i 0x0B false fun _ => 0)
    else
      match (if tm.dbgctl.getLsbD 0 then o.hazardReg g i.lanes else none) with
      | some c => .next (s.raise i 0x09 false fun _ => BitVec.ofNat 64 c)
      | none =>
        let r := match g.starved tm.streams i.lanes o.rd with
          | [] => body i (if o.rd.any fun r => (portOf r).isSome then s.updGrp i.t i.g fun g => g.popAll i.lanes o.rd else s)
          | l => s.starve i l
        .next (finish i o.sm s r)

/-! ## Shapes of effect -/

/-- A result in one thread-register field, lane by lane. -/
def setD (i : Iss) (d : Nat) (f : Nat → Word) (s : State) : State :=
  let st := (s.team i.t).streams
  s.updGrp i.t i.g fun g => overLanes i.lanes (fun l g => g.wrField st l d (f l)) g

/-- A result in one predicate, lane by lane. -/
def setPd (i : Iss) (k : Nat) (f : Nat → Bool) (s : State) : State :=
  s.updGrp i.t i.g fun g => overLanes i.lanes (fun l g => g.wrP k l (f l)) g

/-- A result in a uniform register. -/
def setWd (i : Iss) (d : Nat) (v : Word) (s : State) : State := s.updGrp i.t i.g fun g => g.wrW d v

/-- An instruction whose whole effect is a value in a thread register. -/
def toX (o : Op) (d : Nat) (f : Iss → Nat → Word) : State → Host.Outcome State Fault Refusal :=
  issue o fun i s => .done (setD i d (f i) s)

/-- An instruction whose whole effect is a predicate. -/
def toP (o : Op) (k : Nat) (f : Iss → Nat → Bool) : State → Host.Outcome State Fault Refusal :=
  issue o fun i s => .done (setPd i k (f i) s)

/-- An instruction whose whole effect is a uniform register. -/
def toW (o : Op) (d : Nat) (f : Iss → Word) : State → Host.Outcome State Fault Refusal :=
  issue o fun i s => .done (setWd i d (f i) s)

/-- A variable-latency result joins those outstanding (R99). A later one for the same register stands when it arrives. -/
def State.pend (s : State) (i : Iss) (p : Pend) : State :=
  let (id, s) := s.newId
  s.updGrp i.t i.g fun g => { g with out := g.out ++ [{ p with id := id, seq := s.clk.seq, lanes := i.lanes }] }

end Sys2Proof.Machine
end

