-- ==== Sys2Proof/Machine/Forms.lean ====
section
/-! DEFINITION. What the encoding of each word says about its issue (R97, R102–R111, R113, R178, R211, R236–R240). -/

namespace Sys2Proof.Machine

open Sys2Proof

/-- A thread-register operand. -/
def tx (r : BitVec 6) : RegFile × Nat := (.x, r.toNat)

/-- A uniform-register operand. -/
def tw (r : BitVec 5) : RegFile × Nat := (.w, r.toNat)

/-- The B operand: with U = 1 a uniform register, broadcast (R104). -/
def tb (u : Bool) (b : BitVec 6) : RegFile × Nat := if u then (.w, b.toNat) else (.x, b.toNat)

/-- Element width of W (R104). -/
def ewOf (w : BitVec 2) : Nat := 64 / 2 ^ w.toNat

/-- The leader of a pair (R18, R261). -/
def isLeader (core : Nat) : Bool := decide (core < 384) && core % 2 = 0

/-- The source lane of LSHF (R181). -/
def lshfSrc (mode k t : Nat) : Nat :=
  if mode = 0 then Nat.xor t k
  else if mode = 1 then (if t < k then t else t - k)
  else if mode = 2 then (if 31 < t + k then t else t + k)
  else (t + k) % 32

/-- The issue of each word; a step without bits has none. -/
def opOf (i : Instr) : Op :=
  let base : Op := { ok := i.wellFormed }
  match i with
  | .clauseHeader _ _ _ _ _ _ _ _ _ _ _ _ _ => base
  | .add sm d a b u w _ _ => { base with cls := 0, sm := sm, rd := [tx a, tb u b], wx := [d.toNat], ew := ewOf w }
  | .sub sm d a b u w _ _ => { base with cls := 0, sm := sm, rd := [tx a, tb u b], wx := [d.toNat], ew := ewOf w }
  | .mull sm d a b u w _ _ => { base with cls := 0, sm := sm, rd := [tx a, tb u b], wx := [d.toNat], ew := ewOf w }
  | .mulh sm d a b u w _ => { base with cls := 0, sm := sm, rd := [tx a, tb u b], wx := [d.toNat], ew := ewOf w }
  | .imad sm d a b u w _ _ => { base with cls := 0, sm := sm, rd := [tx a, tb u b, tx d], wx := [d.toNat], ew := ewOf w }
  | .and sm d a b u => { base with cls := 0, sm := sm, rd := [tx a, tb u b], wx := [d.toNat] }
  | .or sm d a b u => { base with cls := 0, sm := sm, rd := [tx a, tb u b], wx := [d.toNat] }
  | .xor sm d a b u => { base with cls := 0, sm := sm, rd := [tx a, tb u b], wx := [d.toNat] }
  | .andn sm d a b u => { base with cls := 0, sm := sm, rd := [tx a, tb u b], wx := [d.toNat] }
  | .shl sm d a b u w => { base with cls := 0, sm := sm, rd := [tx a, tb u b], wx := [d.toNat], ew := ewOf w }
  | .shr sm d a b u w _ => { base with cls := 0, sm := sm, rd := [tx a, tb u b], wx := [d.toNat], ew := ewOf w }
  | .rot sm d a b u w => { base with cls := 0, sm := sm, rd := [tx a, tb u b], wx := [d.toNat], ew := ewOf w }
  | .min sm d a b u w _ => { base with cls := 0, sm := sm, rd := [tx a, tb u b], wx := [d.toNat], ew := ewOf w }
  | .max sm d a b u w _ => { base with cls := 0, sm := sm, rd := [tx a, tb u b], wx := [d.toNat], ew := ewOf w }
  | .absd sm d a b u w _ => { base with cls := 0, sm := sm, rd := [tx a, tb u b], wx := [d.toNat], ew := ewOf w }
  | .cmp sm _ a b u w _ _ => { base with cls := 0, sm := sm, rd := [tx a, tb u b], ew := ewOf w }
  | .sel sm d a b u k => { base with cls := 0, sm := sm, rd := [tx a, tb u b, (.p, k.toNat)], wx := [d.toNat] }
  | .popc sm d a w => { base with cls := 0, sm := sm, rd := [tx a], wx := [d.toNat], ew := ewOf w }
  | .clz sm d a w => { base with cls := 0, sm := sm, rd := [tx a], wx := [d.toNat], ew := ewOf w }
  | .bfx sm d a b u _ => { base with cls := 0, sm := sm, rd := [tx a, tb u b], wx := [d.toNat] }
  | .bfi sm d a b u => { base with cls := 0, sm := sm, rd := [tx a, tb u b, tx d], wx := [d.toNat] }
  | .dot4 sm d a b u _ _ _ => { base with cls := 0, sm := sm, rd := [tx a, tb u b, tx d], wx := [d.toNat], ew := 8 }
  | .mulw sm d a b u w _ _ => { base with cls := 0, sm := sm, rd := [tx a, tb u b], wx := [d.toNat], ew := ewOf w }
  | .addi sm d a _ => { base with cls := 0, sm := sm, rd := [tx a], wx := [d.toNat] }
  | .andi sm d a _ => { base with cls := 0, sm := sm, rd := [tx a], wx := [d.toNat] }
  | .ori sm d a _ => { base with cls := 0, sm := sm, rd := [tx a], wx := [d.toNat] }
  | .xori sm d a _ => { base with cls := 0, sm := sm, rd := [tx a], wx := [d.toNat] }
  | .shfi sm d a _ _ => { base with cls := 0, sm := sm, rd := [tx a], wx := [d.toNat] }
  | .movi sm d _ => { base with cls := 0, sm := sm, wx := [d.toNat] }
  | .movh sm d _ _ => { base with cls := 0, sm := sm, rd := [tx d], wx := [d.toNat] }
  | .lea sm d a b u _ => { base with cls := 0, sm := sm, rd := [tx a, tb u b], wx := [d.toNat] }
  | .fadd sm d a b u w _ _ => { base with cls := 0, sm := sm, rd := [tx a, tb u b], wx := [d.toNat], ew := ewOf w }
  | .fsub sm d a b u w _ _ => { base with cls := 0, sm := sm, rd := [tx a, tb u b], wx := [d.toNat], ew := ewOf w }
  | .fmul sm d a b u w _ _ => { base with cls := 0, sm := sm, rd := [tx a, tb u b], wx := [d.toNat], ew := ewOf w }
  | .ffma sm d a b u w _ _ => { base with cls := 0, sm := sm, rd := [tx a, tb u b, tx d], wx := [d.toNat], ew := ewOf w }
  | .fmin sm d a b u w _ => { base with cls := 0, sm := sm, rd := [tx a, tb u b], wx := [d.toNat], ew := ewOf w }
  | .fmax sm d a b u w _ => { base with cls := 0, sm := sm, rd := [tx a, tb u b], wx := [d.toNat], ew := ewOf w }
  | .fcmp sm _ a b u w _ _ => { base with cls := 0, sm := sm, rd := [tx a, tb u b], ew := ewOf w }
  | .fsgn sm d a b u w _ c => { base with cls := 0, sm := sm, rd := if c.toNat < 2 then [tx a] else [tx a, tb u b], wx := [d.toNat], ew := ewOf w }
  | .fcvt sm d a _ _ _ w _ _ => { base with cls := 0, sm := sm, rd := [tx a], wx := [d.toNat], ew := ewOf w }
  | .fqst sm t a _ _ _ _ w _ => { base with cls := 2, sm := sm, rd := [tx a, tx t], ew := ewOf w }
  | .fcls sm d a w _ => { base with cls := 0, sm := sm, rd := [tx a], wx := [d.toNat], ew := ewOf w }
  | .fscl sm d a b u w _ _ => { base with cls := 0, sm := sm, rd := [tx a, tb u b], wx := [d.toNat], ew := ewOf w }
  | .fdot2 sm d a b u w _ _ => { base with cls := 0, sm := sm, rd := [tx a, tb u b, tx d], wx := [d.toNat], ew := if w then 8 else 16 }
  | .frnd sm d a w _ _ => { base with cls := 0, sm := sm, rd := [tx a], wx := [d.toNat], ew := ewOf w }
  | .rcp sm d a w _ g => { base with cls := 1, sm := sm, rd := [tx a], wx := [d.toNat], ew := ewOf w, cores := fun c => !(g && isLedge c) }
  | .rsq sm d a w _ g => { base with cls := 1, sm := sm, rd := [tx a], wx := [d.toNat], ew := ewOf w, cores := fun c => !(g && isLedge c) }
  | .sqrt sm d a w _ g => { base with cls := 1, sm := sm, rd := [tx a], wx := [d.toNat], ew := ewOf w, cores := fun c => !(g && isLedge c) }
  | .exp2 sm d a w _ g => { base with cls := 1, sm := sm, rd := [tx a], wx := [d.toNat], ew := ewOf w, cores := fun c => !(g && isLedge c) }
  | .log2 sm d a w _ g => { base with cls := 1, sm := sm, rd := [tx a], wx := [d.toNat], ew := ewOf w, cores := fun c => !(g && isLedge c) }
  | .sin sm d a w _ g => { base with cls := 1, sm := sm, rd := [tx a], wx := [d.toNat], ew := ewOf w, cores := fun c => !(g && isLedge c) }
  | .cos sm d a w _ g => { base with cls := 1, sm := sm, rd := [tx a], wx := [d.toNat], ew := ewOf w, cores := fun c => !(g && isLedge c) }
  | .tanh sm d a w _ g => { base with cls := 1, sm := sm, rd := [tx a], wx := [d.toNat], ew := ewOf w, cores := fun c => !(g && isLedge c) }
  | .sigm sm d a w _ g => { base with cls := 1, sm := sm, rd := [tx a], wx := [d.toNat], ew := ewOf w, cores := fun c => !(g && isLedge c) }
  | .erf sm d a w _ g => { base with cls := 1, sm := sm, rd := [tx a], wx := [d.toNat], ew := ewOf w, cores := fun c => !(g && isLedge c) }
  | .gelu sm d a w _ g => { base with cls := 1, sm := sm, rd := [tx a], wx := [d.toNat], ew := ewOf w, cores := fun c => !(g && isLedge c) }
  | .silu sm d a w _ g => { base with cls := 1, sm := sm, rd := [tx a], wx := [d.toNat], ew := ewOf w, cores := fun c => !(g && isLedge c) }
  | .fdiv sm d a b u w _ g => { base with cls := 1, sm := sm, rd := [tx a, tb u b], wx := [d.toNat], ew := ewOf w, cores := fun c => !(g && isLedge c) }
  | .uadd sm _ a b _ _ => { base with cls := 0, sm := sm, rd := [tw a, tw b] }
  | .usub sm _ a b _ _ => { base with cls := 0, sm := sm, rd := [tw a, tw b] }
  | .umul sm _ a b _ _ => { base with cls := 0, sm := sm, rd := [tw a, tw b] }
  | .uand sm _ a b => { base with cls := 0, sm := sm, rd := [tw a, tw b] }
  | .uor sm _ a b => { base with cls := 0, sm := sm, rd := [tw a, tw b] }
  | .uxor sm _ a b => { base with cls := 0, sm := sm, rd := [tw a, tw b] }
  | .ushf sm _ a b _ => { base with cls := 0, sm := sm, rd := [tw a, tw b] }
  | .ucmp sm _ a b _ _ => { base with cls := 0, sm := sm, rd := [tw a, tw b] }
  | .umovi sm d h _ => { base with cls := 0, sm := sm, rd := if h = 0 then [] else [tw d] }
  | .uaddi sm _ a _ => { base with cls := 0, sm := sm, rd := [tw a] }
  | .ulea sm _ a b _ => { base with cls := 0, sm := sm, rd := [tw a, tw b] }
  | .rfal sm _ a => { base with cls := 0, sm := sm, rd := [tx a], low := true }
  | .xtow sm _ a l _ w _ => { base with cls := 0, sm := sm, far := some (a.toNat, fun _ => laneBit l.toNat), ew := ewOf w }
  | .wtox sm d a => { base with cls := 0, sm := sm, rd := [tw a], wx := [d.toNat] }
  | .umin sm _ a b _ => { base with cls := 0, sm := sm, rd := [tw a, tw b] }
  | .umax sm _ a b _ => { base with cls := 0, sm := sm, rd := [tw a, tw b] }
  | .lget sm d a l _ w m => { base with cls := 0, sm := sm, rd := if m = 3 then [tx d] else [], wx := [d.toNat], far := some (a.toNat, fun _ => laneBit l.toNat), ew := ewOf w }
  | .lshf sm d a k m => { base with cls := 0, sm := sm, wx := [d.toNat], far := some (a.toNat, fun L => maskWhere fun j => (lanesOf L).any fun t => lshfSrc m.toNat k.toNat t = j) }
  | .lred sm d a _ w _ => { base with cls := 0, sm := sm, wx := [d.toNat], rd := [tx a], ew := ewOf w }
  | .lscan sm d a _ _ w _ => { base with cls := 0, sm := sm, wx := [d.toNat], rd := [tx a], ew := ewOf w }
  | .vote sm _ a _ w _ => { base with cls := 0, sm := sm, rd := [tx a], ew := ewOf w }
  | .sprm sm d a _ w _ => { base with cls := 0, sm := sm, wx := [d.toNat], rd := [tx a], ew := ewOf w }
  | .pack sm d a _ _ _ => { base with cls := 0, sm := sm, wx := [d.toNat], rd := [tx a, tx d] }
  | .unpk sm d a _ _ _ => { base with cls := 0, sm := sm, wx := [d.toNat], rd := [tx a] }
  | .ld sm t a _ _ => { base with cls := 2, sm := sm, rd := [tx a], noPort := [t.toNat], xs := [t.toNat] }
  | .st sm t a _ _ => { base with cls := 2, sm := sm, rd := [tx a, tx t] }
  | .lds sm t a _ _ => { base with cls := 2, sm := sm, rd := [tx a], noPort := [t.toNat], xs := [t.toNat] }
  | .sts sm t a _ _ => { base with cls := 2, sm := sm, rd := [tx a, tx t] }
  | .ldu sm _ a _ _ => { base with cls := 2, sm := sm, rd := [tw a] }
  | .stu sm t a _ _ => { base with cls := 2, sm := sm, rd := [tw a, tw t] }
  | .amo sm d a b _ _ _ => { base with cls := 2, sm := sm, rd := [tx a, tx b], noPort := [d.toNat], xs := [d.toNat] }
  | .cas sm d a b _ _ => { base with cls := 2, sm := sm, rd := [tx a, tx b, tx d], noPort := [d.toNat] }
  | .red sm a b _ _ _ => { base with cls := 2, sm := sm, rd := [tx a, tx b] }
  | .fenceRel sm _ => { base with cls := 2, sm := sm }
  | .fenceAcq sm _ => { base with cls := 2, sm := sm }
  | .fenceAr sm _ => { base with cls := 2, sm := sm }
  | .pref sm _ a _ => { base with cls := 2, sm := sm, rd := [tx a] }
  | .wback sm _ a _ => { base with cls := 2, sm := sm, rd := [tx a] }
  | .inval sm _ a _ => { base with cls := 2, sm := sm, rd := [tx a] }
  | .publ sm a => { base with cls := 2, sm := sm, rd := [tw a] }
  | .samo sm d a b _ _ => { base with cls := 2, sm := sm, rd := [tx a, tx b], noPort := [d.toNat], xs := [d.toNat] }
  | .samoCas sm d a b _ => { base with cls := 2, sm := sm, rd := [tx a, tx b, tx d], noPort := [d.toNat] }
  | .br sm p _ _ => { base with cls := 4, sm := sm, rd := [(.p, p.toNat)] }
  | .jmpr sm a => { base with cls := 4, sm := sm, rd := [tx a] }
  | .jmprLink sm d a => { base with cls := 4, sm := sm, rd := [tx a], wx := [d.toNat] }
  | .call sm _ => { base with cls := 4, sm := sm, xs := [1] }
  | .ret sm a => { base with cls := 4, sm := sm, rd := [tx a] }
  | .enrol sm _ => { base with cls := 4, sm := sm }
  | .rejoin sm _ => { base with cls := 4, sm := sm }
  | .strike sm _ => { base with cls := 4, sm := sm }
  | .exit sm => { base with cls := 4, sm := sm }
  | .txbeg sm d => { base with cls := 4, sm := sm, noPort := [d.toNat], xs := [d.toNat], cores := fun c => !isLedge c }
  | .txend sm => { base with cls := 4, sm := sm, illegal := fun g L => match g.tx with | some x => (L &&& ~~~ x.parts) != 0 | none => true, cores := fun c => !isLedge c }
  | .retry sm => { base with cls := 4, sm := sm, illegal := fun g L => match g.tx with | some x => (L &&& ~~~ x.parts) != 0 | none => true, cores := fun c => !isLedge c }
  | .txelse sm _ => { base with cls := 4, sm := sm, illegal := fun g L => match g.tx with | some x => (L &&& ~~~ x.parts) != 0 | none => true, cores := fun c => !isLedge c }
  | .txabt sm _ => { base with cls := 4, sm := sm, illegal := fun g L => match g.tx with | some x => (L &&& ~~~ x.parts) != 0 | none => true, cores := fun c => !isLedge c }
  | .tdec sm a => { base with cls := 4, sm := sm, rd := [tx a] }
  | .tspawn sm d a => { base with cls := 4, sm := sm, rd := [tx a], noPort := [d.toNat], xs := [d.toNat] }
  | .barv sm a => { base with cls := 4, sm := sm, rd := [tx a], noTx := true }
  | .mma sm d a b => { base with cls := 3, sm := sm, rd := [tw a, tw b, tw d], cores := isLeader }
  | .mmaAcc sm d a b => { base with cls := 3, sm := sm, rd := [tw a, tw b, tw d], cores := isLeader }
  | .obRes sm _ a b => { base with cls := 3, sm := sm, rd := [tw a, tw b], cores := isLeader }
  | .obRel sm a => { base with cls := 3, sm := sm, rd := [tw a], cores := isLeader }
  | .obSets sm a b => { base with cls := 3, sm := sm, rd := [tw a, tw b], cores := isLeader }
  | .obSetz sm a b => { base with cls := 3, sm := sm, rd := [tw a, tw b], cores := isLeader }
  | .accAcq sm a => { base with cls := 3, sm := sm, rd := [tw a], cores := isLeader }
  | .accRel sm => { base with cls := 3, sm := sm, rd := [], cores := isLeader }
  | .accZero sm a => { base with cls := 3, sm := sm, rd := [tw a], cores := isLeader }
  | .accRd sm d a b => { base with cls := 3, sm := sm, rd := [tw a, tw b], cores := isLeader, wx := [d.toNat] }
  | .tileFetch sm a b => { base with cls := 3, sm := sm, rd := [tw a, tw b], cores := isLeader }
  | .tileDrain sm d a b => { base with cls := 3, sm := sm, rd := [tw a, tw b, tw d], cores := isLeader }
  | .tileDradd sm d a b => { base with cls := 3, sm := sm, rd := [tw a, tw b, tw d], cores := isLeader }
  | .tileUnpin sm a => { base with cls := 3, sm := sm, rd := [tw a], cores := isLeader }
  | .push sm q a _ _ => { base with cls := 5, sm := sm, rd := (List.range 8).map fun i => (.w, a.toNat + i), queue := some q.toNat }
  | .pushx sm q a _ _ => { base with cls := 5, sm := sm, rd := (List.range 8).map fun i => (.x, a.toNat + i), queue := some q.toNat }
  | .mfs sm d y => { base with cls := 6, sm := sm, wx := [d.toNat], sys := some y.toNat }
  | .mts sm d y => { base with cls := 6, sm := sm, rd := [tx d], sys := some y.toNat }
  | .trap sm _ => { base with cls := 6, sm := sm }
  | .eret sm => { base with cls := 6, sm := sm, illegal := fun g L => (lanesOf L).any fun i => !(g.th i).inTrap }
  | .eretNext sm => { base with cls := 6, sm := sm, illegal := fun g L => (lanesOf L).any fun i => !(g.th i).inTrap }
  | .preend sm => { base with cls := 6, sm := sm, noTx := true, illegal := fun g L => (lanesOf L).any fun i => !(g.th i).inSave || (g.th i).preended }
  | .haltt sm => { base with cls := 6, sm := sm, noTx := true }
  | .halttRel sm => { base with cls := 6, sm := sm, noTx := true }
  | .timer sm d _ => { base with cls := 6, sm := sm, rd := [tw d, (.w, d.toNat + 1)] }
  | .wsplit sm d a => { base with cls := 4, sm := sm, rd := [tx a], noPort := [d.toNat], xs := [d.toNat] }
  | .wsplitLdr sm d a => { base with cls := 4, sm := sm, rd := [tx a], noPort := [d.toNat], xs := [d.toNat] }
  | .wret sm => { base with cls := 4, sm := sm }
  | .wborrow sm d a => { base with cls := 4, sm := sm, rd := [tx a], noPort := [d.toNat], xs := [d.toNat] }
  | .idend sm => { base with cls := 4, sm := sm, noTx := true }
  | .nop sm => { base with cls := 4, sm := sm }
  | .yield sm => { base with cls := 4, sm := sm }
  | .sperrClear _ => base
  | .fpmodeWrite _ _ _ => base
  | .rgnctlWrite _ _ _ => base
  | .hvfWrite _ _ => base
  | .packageReset _ => base
  | .enqueueWrite _ _ _ _ _ => base
  | .postedEnqueueWrite _ => base
  | .hostBarRequest _ _ _ _ _ => base
  | .engineBatchPush _ => base
  | .teamDispatch _ => base
  | .dispatchReserve _ => base
  | .groupPark _ _ => base
  | .groupUnpark _ _ => base
  | .groupPromote _ _ => base
  | .streamLoad _ _ _ _ => base
  | .barrierContinuation _ _ => base
  | .demandFaultSave _ => base
  | .faultRingWrite _ => base
  | .teamEnd _ => base
  | .gridRetire _ => base
  | .logicalTimeTick _ => base
  | .loadReturn _ _ _ => base
  | .poisonConsumed _ _ _ => base
  | .storeAck _ => base
  | .sfuResult _ _ _ => base
  | .scratchpadArrival _ => base
  | .regionFillArrival _ _ => base
  | .teamKill _ _ => base
  | .txSleepTimeout _ _ => base
  | .accGrant _ => base
  | .tilePin _ _ => base
  | .mmaRetire _ => base
  | .drainDone _ => base
  | .timerFire _ _ => base
  | .sliceEnd _ => base
  | .saveBudgetExpiry _ => base
  | .sliceStart _ => base
  | .slackWatchdog _ => base
  | .ringRecordWrite _ _ => base
  | .coalesceTimer _ _ => base
  | .channelCommandIssue _ => base
  | .parityDeltaApply _ => base
  | .reconstructingRead _ => base
  | .parityRowRebuild _ _ => base
  | .patrolScrub _ _ => base
  | .stackLoss _ => base
  | .shelfModuleLoss _ => base
  | .pageWalk _ _ _ _ => base
  | .atsReply _ _ _ => base
  | .atsTimeout _ => base
  | .priResponse _ _ => base
  | .shootdownAck _ _ => base
  | .shootdownTimeout _ _ => base
  | .powerClockDown _ => base
  | .powerClockUp _ => base
  | .longshoreIngress _ _ => base
  | .remoteAckTimeout _ => base
  | .flitCheckFailure _ => base
  | .linkRetrainDone _ _ => base
  | .hostWriteError _ => base
  | .ideIntegrityFailure _ => base
  | .allreduce _ _ => base
  | .reduce _ _ => base
  | .broadcast _ _ => base
  | .allgather _ _ => base
  | .reducescatter _ _ => base
  | .getCapabilities _ => base
  | .negotiateAlgorithms _ => base
  | .getDigests _ => base
  | .getCertificate _ _ => base
  | .challenge _ _ => base
  | .getMeasurements _ _ _ => base
  | .keyExchange _ => base
  | .finish _ _ => base
  | .endSession _ _ => base
  | .securedMessageFailure _ => base
  | .ideKm _ _ _ => base
  | .lockInterfaceRequest _ _ => base
  | .startInterfaceRequest _ => base
  | .stopInterfaceRequest _ => base
  | .getDeviceInterfaceState _ => base
  | .relockRequest _ => base
  | .illegalInstruction _ => { base with ok := false }
  | .illegalClauseHeader _ => base
  | .getDeviceInterfaceReport _ => base
  | .sluiceTokenRefill _ => base
  | .dieJunctionLimit _ _ => base
  | .powerGating _ _ => base
  | .commandCompletion => base
  | .amsgReceive => base
  | .lkrunPlace => base
  | .hostLinkDown => base
  | .nonceExpiry => base
  | .copy => base
  | .fill => base
  | .chain => base
  | .amsg => base
  | .evt => base
  | .rowcopy => base
  | .rowop => base
  | .rowzero => base
  | .scrub => base
  | .alloc => base
  | .free => base
  | .lkrun => base
  | .walk => base
  | .shelfRead => base
  | .shelfAppend => base
  | .vfcreate => base
  | .vfreset => base
  | .pairs => base
  | .slicemap => base
  | .artw => base
  | .stitch => base
  | .sluice => base
  | .pool => base
  | .roots => base
  | .shoot => base
  | .replay => base
  | .nbpool => base
  | .shelflogSetLog => base
  | .shelflogSetQuota => base
  | .shelflogTrim => base
  | .faq => base
  | .query => base
  | .claim => base
  | .claimCancel => base
  | .sramsplit => base
  | .limits => base
  | .readPoolRecord => base
  | .readEntryImage => base
  | .ringload => base
  | .pfconf => base
  | .fring => base
  | .lhfuse => base
  | .lhnonce => base
  | .lhunlock => base
  | .lhmeas => base
  | .lhbadRead => base
  | .lhbadAdd => base
  | .lhbadRemove => base
  | .mbegin => base
  | .mcopy => base
  | .mdirty => base
  | .mswitch => base
  | .mrelease => base
  | .mabort => base
  | .getVersion => base
  | .manufacturingFlow => base

end Sys2Proof.Machine
end

