-- ==== Sys2Proof/Machine/Records.lean ====
section
/-! DEFINITION. Task records (R36–R45): their fields, the malformed images of R38, acceptance, readiness; accesses made on
behalf of work (R465); decrements, returns of weight and the ends of phases (R42, R59); completion records (R389). -/

namespace Sys2Proof.Machine

open Sys2Proof

/-! ## Fields of an image (R36, R37) -/

/-- A doubleword of a task-record image. -/
abbrev tdw (g : BitVec 1024) (i : Nat) : Nat := dwordOf g i

def recKind (g : BitVec 1024) : Nat := bf (tdw g 0) 3 0
def recPrio (g : BitVec 1024) : Nat := bf (tdw g 0) 8 4
def recDepcnt (g : BitVec 1024) : Nat := bf (tdw g 0) 63 32
def recEntry (g : BitVec 1024) : Nat := bf (tdw g 2) 47 0
def recRblk (g : BitVec 1024) : Nat := bf (tdw g 2) 55 52 + 1
def recGpt (g : BitVec 1024) : Nat := bf (tdw g 2) 51 48 + 1
def recSpl (g : BitVec 1024) : Nat := bf (tdw g 3) 63 48
def recAdesc (g : BitVec 1024) : Nat := bf (tdw g 3) 47 0
def recArgs (g : BitVec 1024) : Nat := bf (tdw g 5) 47 0
def recWeight (g : BitVec 1024) : Nat := tdw g 6
def recRoot (g : BitVec 1024) : Nat := bf (tdw g 7) 47 0
def recSucc (g : BitVec 1024) (i : Nat) : Nat := bf (tdw g (8 + i)) 47 0
def recSovn (g : BitVec 1024) : Nat := bf (tdw g 12) 63 48
def recSovf (g : BitVec 1024) : Nat := bf (tdw g 12) 47 0
def recSelf (g : BitVec 1024) : Nat := bf (tdw g 13) 47 0
def recTag (g : BitVec 1024) : Nat := bf (tdw g 14) 63 32
def recCrec (g : BitVec 1024) : Bool := bit (tdw g 14) 6
def recRing (g : BitVec 1024) : Nat := bf (tdw g 14) 5 0

/-- NX, NY and NZ of a doubleword. -/
def dimX (d : Nat) : Nat := bf d 15 0
def dimY (d : Nat) : Nat := bf d 31 16
def dimZ (d : Nat) : Nat := bf d 47 32

/-- Teams, or commands, of three dimensions. -/
def dimTeams (d : Nat) : Nat := dimX d * dimY d * dimZ d

/-- Whether reserved fields of an image are non-zero (R36, R37). -/
def recReserved (g : BitVec 1024) : Bool :=
  bf (tdw g 0) 31 17 != 0 || bf (tdw g 2) 63 56 != 0 || bf (tdw g 5) 63 48 != 0 || bf (tdw g 7) 63 48 != 0 ||
  ((List.range 4).any fun i => bf (tdw g (8 + i)) 63 48 != 0) || bf (tdw g 13) 63 48 != 0 || bf (tdw g 14) 31 7 != 0 ||
  (decide (recKind g ≤ 2) && bf (tdw g 4) 63 48 != 0)

/-- Whether an image is malformed (R38). `port`: it comes from the enqueue port. RBLKM1 above 7 is out of range. -/
def recBad (g : BitVec 1024) (port : Bool) : Bool :=
  let k := recKind g
  let d := tdw g 4
  let work := decide (k ≤ 2)
  recReserved g || decide (3 < k) || decide (23 < recPrio g) || decide (4096 < recSpl g) || decide (8 < recRblk g) ||
  ((k = 0 || k = 2) && (dimX d = 0 || dimY d = 0 || dimZ d = 0)) ||
  (k = 2 && (dimY d != 1 || dimZ d != 1)) ||
  recAdesc g % 128 != 0 || recRoot g % 128 != 0 || ((List.range 4).any fun i => recSucc g i % 128 != 0) || recSovf g % 128 != 0 ||
  recEntry g % 4 != 0 || (k = 1 && bf d 47 0 % 8 != 0) ||
  decide (128 < recGpt g * recRblk g) || decide (32 < recGpt g) ||
  (work && recRoot g != 0 && recWeight g = 0) ||
  (port && (recSelf g = 0 || recSelf g % 128 != 0)) ||
  (recRing g = 63 && (recCrec g || k = 3)) ||
  (k = 3 && decide (2 ^ 63 < recWeight g)) || (k = 2 && recArgs g = 0)

/-! ## Grids -/

/-- The record with a number. -/
def State.grid (s : State) (id : Nat) : Grid := (s.sched.grids.find? fun g => g.id = id).getD {}

/-- Change a record. -/
def State.updGrid (s : State) (id : Nat) (f : Grid → Grid) : State :=
  { s with sched := { s.sched with grids := s.sched.grids.map fun g => if g.id = id then f g else g } }

/-- The memory key of a field of a kept record. -/
def State.recKey (s : State) (g : Grid) (off : Nat) : Option Nat := (s.resolve g.pa).map (· + off)

/-- A number in a kept record, 0 where its address resolves no more. -/
def State.recRd (s : State) (g : Grid) (off n : Nat) : Nat :=
  match s.recKey g off with
  | some k => s.rd k n
  | none => 0

/-- The records of an access to a kept record whose address lies in no enabled entry any more (R317, R439): an invalid mapping, and the
harbour's own. -/
def State.recGone (s : State) (g : Grid) : State :=
  (s.postErr { errOf 0x05 with skind := 4, vf := g.fn, akind := 1, addr := g.self, item := g.self, tag := recTag g.img }).postErr
    { errOf 0x60 with skind := 4, akind := 3, addr := g.pa }

/-- Write a number into a kept record: one event at the record's home slice (R42). -/
def State.recWr (s : State) (g : Grid) (off n v : Nat) : State :=
  match s.recKey g off with
  | some k => s.perform none k n v
  | none => s.recGone g

/-- STATE of a record (R36). -/
def State.setRecState (s : State) (g : Grid) (v : Nat) : State := s.recWr g 0x78 1 v

/-- CPLCNT of a record. -/
def State.cplcnt (s : State) (g : Grid) : Nat := s.recRd g 0x7C 4

/-- DEPTH and PARENT of a record as memory holds them: they keep their effect after acceptance (R36, R39). -/
def State.recDepth (s : State) (g : Grid) : Nat := bf (s.recRd g 0 8) 12 9
def State.recParent (s : State) (g : Grid) : Nat := bf (s.recRd g 8 8) 47 0

/-- Bands of a function (R43, R352, R461): the effective priority of a record. -/
def State.effPrio (s : State) (fn : Nat) (harbour : Bool) (prio : Nat) : Nat :=
  if harbour then prio else min (max prio (s.fn fn).bandLo) (s.fn fn).bandHi

/-- Units of item `k` of `n` (R57). -/
def share (w n k : Nat) : Nat := if n = 0 then 0 else (w - 1) / n + (if k < (w - 1) % n then 1 else 0)

/-- The owner of a pair: a function, or 256 + pool (R351). -/
def State.pairOwner (s : State) (pair : Nat) : Nat := SMap.get 0 s.part.owner pair

/-- Whether a function belongs to a pool. -/
def Pool.has (p : Pool) (fn : Nat) : Bool := p.members.contains fn

/-- The pool of a function. -/
def State.poolOf (s : State) (fn : Nat) : Option Nat :=
  ((s.part.pools.filter fun e => e.2.en && e.2.has fn).map fun e => e.1).head?

/-- Pairs that a function owns outright. -/
def State.ownPairs (s : State) (fn : Nat) : List Nat :=
  (List.range 192).filter fun p => s.pairOwner p = fn && !s.part.fenced.contains p

/-- Pairs of a function's pool. -/
def State.poolPairs (s : State) (fn : Nat) : List Nat :=
  match s.poolOf fn with
  | some k => (List.range 192).filter fun p => s.pairOwner p = 256 + k && !s.part.fenced.contains p
  | none => []

/-- Whether a function has pairs, its own or its pool's (R352). -/
def State.hasPairs (s : State) (fn : Nat) : Bool := !(s.ownPairs fn).isEmpty || !(s.poolPairs fn).isEmpty

/-- A record leaves its function's ingress queue once it is ready and the function has pairs (R352, R386). -/
def State.leaveIngress (s : State) : State :=
  { s with sched := { s.sched with grids := s.sched.grids.map fun g =>
      if g.inQ && g.st != .waiting && s.hasPairs g.fn then { g with inQ := false } else g } }

/-! ## Completion records (R389) -/

/-- A completion record; TIME and PH are set when its slot is written (R388, R389). -/
def complRec (tag status fault : Nat) (wret : Bool) (impl count self : Nat) : BitVec 256 :=
  BitVec.ofNat 256 (ofDwords [0,
    tag % 2 ^ 32 * 2 ^ 32 + status % 256 * 2 ^ 24 + fault % 256 * 2 ^ 16 + (if wret then 2 ^ 15 else 0) + min impl 32767,
    count % 2 ^ 48, self % 2 ^ 48])

/-- Whether an item carries weight (R389). -/
def recCarries (g : BitVec 1024) : Bool := decide (recKind g ≤ 2) && recRoot g != 0 && recWeight g != 0

/-! ## Accesses on behalf of work (R465) -/

/-- What an access on behalf of work meets. -/
inductive Reach where
  | ok (x : Xl)
  | skip (cause : Nat)
  | stuck
  | later
  deriving DecidableEq, Repr

/-- Reach `n` bytes at an address in a function's context, for memory of this package; `hc`: of HC pages alone. A keyless slice refuses every
access (R378). -/
def State.reach (s : State) (fn : Nat) (harbour : Bool) (acc : Acc) (va n : Nat) (hc : Bool := false) : Reach × State :=
  match s.check { unit := 1000, fn := fn, harbour := harbour } 100000 acc false (va % 2 ^ 48)
      (fun x => x.kind != 0 || (hc && x.coh != 0)) with
  | .ok x =>
    if acc != .store && s.isPoison x.key n then (.skip 0x08, s)
    else if s.keylessLine (x.key / 64) then (.skip 0x08, s.noteRead x.key n) else (.ok x, s)
  | .error (.trap c note) => (.skip c, s.xnote note 0)
  | .error (.demand st a k z) => (.stuck, s.await fn [0] (.demand st a k z))
  | .error e => (.later, s.await fn [0] e)

/-- The error record of an access that is skipped (R465). -/
def skipErr (fn cause addr : Nat) : Deed := .err { skind := 4, cause := cause, vf := fn, akind := 1, addr := addr }

/-! ## Acceptance and readiness -/

/-- Fields that the device sets in an accepted image (R34, R39, R41). -/
def recImage (g : BitVec 1024) (depth parent self : Nat) : BitVec 1024 :=
  let d0 := tdw g 0 - bf (tdw g 0) 12 9 * 2 ^ 9 + depth % 16 * 2 ^ 9
  let d1 := bf (tdw g 1) 63 48 * 2 ^ 48 + parent % 2 ^ 48
  let st := if recKind g = 3 then 3 else if recDepcnt g = 0 then 2 else 1
  BitVec.ofNat 1024 (ofDwords [d0, d1, tdw g 2, tdw g 3, if recKind g = 3 then 0 else tdw g 4, tdw g 5, tdw g 6, tdw g 7,
    tdw g 8, tdw g 9, tdw g 10, tdw g 11, tdw g 12, self % 2 ^ 48, tdw g 14, st])

/-- A record is accepted where it stands in memory (R39–R41): its number, and what follows at once. An indirect grid has no dimensions until
it reads them (R44). -/
def State.acceptRec (s : State) (fn : Nat) (harbour port : Bool) (g : BitVec 1024) (depth parent self : Nat) (x : Xl) :
    List Deed × State :=
  let img := recImage g depth parent self
  let (id, s) := s.newId
  let root := recKind g = 3
  let gr : Grid := { id := id, self := self, pa := x.pa, fn := fn, harbour := harbour, img := img,
                     st := if root then .running else .waiting, inQ := port && !root, dims := if recKind g = 1 then 0 else BitVec.ofNat 64 (tdw g 4) }
  let s := s.perform none x.key 128 img.toNat
  let s := { s with sched := { s.sched with grids := s.sched.grids ++ [gr] } }
  if root then (if recWeight g = 2 ^ 63 then [.phase id] else [], s)
  else if recDepcnt g = 0 then ([.ready id], s) else ([], s)

/-- A ready record joins the ready queue of its effective priority (R43); an engine batch pushes its commands without one. -/
def State.toQueue (s : State) (id : Nat) : State :=
  let g := s.grid id
  { s with sched := { s.sched with queue := s.sched.queue ++ [(s.effPrio g.fn g.harbour (recPrio g.img), .grid id)] } }

/-- A record with `n` teams or commands is ready (R41, R42). -/
def State.makeReady (s : State) (id n : Nat) (dims : Word) : State :=
  let s := s.updGrid id fun g => { g with st := if recKind g.img = 2 ∨ n = 0 then .running else .ready, nteams := n, dims := dims, empty := n = 0 }
  let g := s.grid id
  let s := s.recWr g 0x7C 4 n
  let s := s.setRecState g (if recKind g.img = 2 ∨ n = 0 then 3 else 2)
  (if recKind g.img = 2 ∨ n = 0 then s else s.toQueue id).leaveIngress

/-- A record fails before it runs any team (R44). -/
def State.failReady (s : State) (id cause : Nat) : State :=
  let s := s.updGrid id fun g => { g with st := .running, nteams := 0, failed := true, fault := cause }
  (s.setRecState (s.grid id) 3).leaveIngress

/-! ## Deeds (R58, R59, R285, R465) -/

/-- What one deed does: further deeds that come first, or a wait, `stuck` for replay. -/
inductive Ran where
  | more (ds : List Deed) (s : State)
  | wait (stuck : Bool) (s : State)

/-- Continue with an access on behalf of work, or skip it with its record, or wait (R465). -/
def reaching (fn addr : Nat) (r : Reach × State) (ok : Xl → State → Ran) (after : List Deed) : Ran :=
  match r with
  | (.ok x, s) => ok x s
  | (.skip c, s) => .more (skipErr fn c addr :: after) s
  | (.stuck, s) => .wait true s
  | (.later, s) => .wait false s

/-- A decrement of a counter of 4 bytes; none at zero (R42). -/
def State.decCounter (s : State) (key : Nat) : Option State :=
  let n := s.rd key 4
  if n = 0 then none else some (s.perform none key 4 (n - 1))

/-- The error record of a counter underflow (R42). -/
def underflow (fn addr : Nat) : Deed := .err { skind := 4, cause := 0x21, vf := fn, akind := 1, addr := addr, item := addr }

/-- CPLCNT of a record falls by `k`; it stays at zero, with a record, where it is less (R42). -/
def State.decCplcnt (s : State) (g : Grid) (k : Nat) : List Deed × State :=
  let n := s.cplcnt g
  (if n < k ∧ (s.recKey g 0).isSome then [underflow g.fn g.self] else [], s.recWr g 0x7C 4 (n - k))

/-- A decrement of DEPCNT that takes it to zero while STATE = 1 makes the record ready (R42). -/
def State.decDep (s : State) (fn key pa addr : Nat) : List Deed × State :=
  match s.decCounter (key + 4) with
  | none => ([underflow fn addr], s)
  | some s =>
    if s.rd (key + 4) 4 = 0 ∧ s.rd (key + 0x78) 1 = 1 then
      let s := s.perform none (key + 0x78) 1 2
      match s.sched.grids.find? fun g => g.pa = pa ∧ g.st = .waiting with
      | some g => ([.ready g.id], s)
      | none => ([], s)
    else ([], s)

/-- A return of weight to the root record at a key (R59). Units that come after the phase's end are discarded. -/
def State.addWeight (s : State) (fn key pa root units : Nat) (failed : Bool) : List Deed × State :=
  if s.rd (key + 0x78) 1 = 4 then
    ([.err { skind := 4, cause := 0x22, vf := fn, akind := 1, addr := root, item := root }], s)
  else
    let s := s.perform none (key + 0x30) 8 ((s.rd (key + 0x30) 8 + units) % 2 ^ 64)
    let s := if failed then s.perform none (key + 0x79) 1 (Nat.lor (s.rd (key + 0x79) 1) 1) else s
    match s.sched.grids.find? fun g => g.pa = pa ∧ recKind g.img = 3 with
    | some g => if (s.rd (key + 0x30) 8 + 2 ^ 64 - s.rd (key + 0x20) 8) % 2 ^ 64 = 2 ^ 63 then ([.phase g.id], s) else ([], s)
    | none => ([], s)

/-- The decrements of a record's successors, then of its overflow list (R58). -/
def succDeeds (g : BitVec 1024) : List Deed :=
  ((List.range 4).filterMap fun i => if recSucc g i = 0 then none else some (Deed.dec (recSucc g i))) ++
  (if recSovn g = 0 then [] else [.decList (recSovf g) (recSovn g)])

/-- A record that a failure at the port concerns is reported (R38, R39): error record, completion, weight. One with ROOT non-zero and WEIGHT 0
returns nothing, and so marks no failure at its root: DESIGN CHOICE, R38 has it return its WEIGHT and does not say whether a return of no units
sets FAILSEEN (log 197). -/
def failDeeds (fn : Nat) (g : BitVec 1024) (cause : Nat) : List Deed :=
  [.err { skind := 4, cause := cause, vf := fn, akind := if recSelf g = 0 then 0 else 1, addr := recSelf g, item := recSelf g, tag := recTag g }] ++
  (if recCrec g ∧ recRing g ≠ 63 then [.post (recRing g) (complRec (recTag g) 1 cause (recCarries g) 0 0 (recSelf g))] else []) ++
  (if recCarries g then [.ret (recRoot g) (recWeight g) true] else [])

/-- The image of a failed record: STATE 5 (R38). DESIGN CHOICE: its reserved bits, those of the doubleword at 0x78 among them, are written as
the image has them; R38 has the image written, R7 and R36 have the device write reserved bits as zero (log 198). -/
def failImage (g : BitVec 1024) : BitVec 1024 := BitVec.ofNat 1024 (g.toNat - tdw g 15 % 256 * 2 ^ 960 + 5 * 2 ^ 960)

/-- The host's write of a record through its function's BAR0 reaches memory with class 1 and a stamp 64 on (R318). -/
def State.hostRow (s : State) (fn : Nat) (x : Xl) : State := s.askChan fn 1 (s.stampNow 64) x.key 2000

/-- A record from the enqueue port is written at its SELF and accepted (R39). -/
def State.enqueueRec (s : State) (fn : Nat) (g : BitVec 1024) : Ran :=
  match s.reach fn false .store (recSelf g) 128 true with
  | (.ok x, s) => let (ds, s) := (s.hostRow fn x).acceptRec fn false true g 0 0 (recSelf g) x; .more ds s
  | (.skip c, s) => .more (failDeeds fn g c) s
  | (.stuck, s) => .wait true s
  | (.later, s) => .wait false s

/-- A malformed image is kept at its SELF where that can be written, then reported (R38). DESIGN CHOICE: a SELF that is not 128-byte aligned is
not written; R38 has it written where it is non-zero and R39 allows it, and does not speak of the alignment (log 199). -/
def State.keepFailedRec (s : State) (fn : Nat) (g : BitVec 1024) : Ran :=
  if recSelf g = 0 ∨ recSelf g % 128 ≠ 0 then .more (failDeeds fn g 0x20) s
  else match s.reach fn false .store (recSelf g) 128 true with
    | (.ok x, s) => .more (failDeeds fn g 0x20) ((s.hostRow fn x).perform none x.key 128 (failImage g).toNat)
    | (.skip _, s) => .more (failDeeds fn g 0x20) s
    | (.stuck, s) => .wait true s
    | (.later, s) => .wait false s

/-- A record becomes ready; an indirect grid reads its dimensions now (R41–R44). -/
def State.readyRec (s : State) (c : Chain) (id : Nat) : Ran :=
  let g := s.grid id
  let d := tdw g.img 4
  if recKind g.img = 1 then
    match s.reach c.fn c.harbour .load (bf d 47 0) 8 with
    | (.ok x, s) => let v := s.rd x.key 8 % 2 ^ 48; .more [] (s.makeReady id (dimTeams v) (BitVec.ofNat 64 v))
    | (.skip e, s) => .more [.err { skind := 4, cause := e, vf := c.fn, akind := 1, addr := bf d 47 0, item := g.self, tag := recTag g.img }] (s.failReady id e)
    | (.stuck, s) => .wait true (s.updGrid id fun g => { g with st := .heldCount })
    | (.later, s) => .wait false (s.updGrid id fun g => { g with st := .heldCount })
  else .more [] (s.makeReady id (dimTeams d) (BitVec.ofNat 64 d))

/-- A phase ends (R40, R59): STATE 4, the phase completion record, then the successors. -/
def State.phaseRec (s : State) (id : Nat) : Ran :=
  let g := s.grid id
  let seen := s.recRd g 0x79 1 % 2 = 1
  let s := s.setRecState g 4
  let s := { s with sched := { s.sched with grids := s.sched.grids.filter fun h => h.id != id } }
  .more (.post (recRing g.img) (complRec (recTag g.img) (if seen then 5 else 4) 0 false 0 0 g.self) :: succDeeds g.img) s

/-- A borrow of WBORROW's request at the root (R252, R59): the units granted. -/
def State.grantBorrow (s : State) (key n : Nat) : Nat × State :=
  let b := s.rd (key + 0x20) 8
  if 2 ^ 62 < b + n then (0, s) else (n, s.perform none (key + 0x20) 8 (b + n))

/-- A result that did not exist yet has its value (R464). -/
def State.answer (s : State) (t g id : Nat) (v : Word) : State :=
  s.updGrp t g fun gr => { gr with out := gr.out.map fun (p : Pend) => if p.id = id then { p with val := v, ready := true } else p }

/-- The weight of a thread. -/
def State.weightOf (s : State) (t g lane : Nat) : Nat := ((s.grp t g).th lane).weight.toNat

/-- Change the weight of a thread. -/
def State.setWeight (s : State) (t g lane n : Nat) : State :=
  s.updGrp t g fun gr => gr.updTh lane fun th => { th with weight := BitVec.ofNat 64 n }

/-- The request of one lane of WBORROW (R252). -/
def State.borrowRec (s : State) (c : Chain) (t g lane : Nat) (n : Word) (pend : Nat) : Ran :=
  let root := (s.team t).root
  if n = 0 ∨ 2 ^ 32 < n.toNat ∨ s.weightOf t g lane = 0 ∨ root = 0 then .more [] (s.answer t g pend 0)
  else match s.reach c.fn c.harbour .rw root 128 with
    | (.ok x, s) =>
      let (v, s) := s.grantBorrow x.key n.toNat
      .more [] ((s.setWeight t g lane (s.weightOf t g lane + v)).answer t g pend (BitVec.ofNat 64 v))
    | (.skip e, s) => .more [skipErr c.fn e root] (s.answer t g pend 0)
    | (.stuck, s) => .wait true s
    | (.later, s) => .wait false s

end Sys2Proof.Machine
end

