-- ==== Sys2Proof/Machine/Commands.lean ====
section
/-! DEFINITION. Engine commands (R283–R314, R351, R375, R455): the header, the images that are malformed, acceptance into a
queue, and what direct mode does to scratchpad lines (R69). -/

namespace Sys2Proof.Machine

open Sys2Proof

/-! ## The header (R284) -/

/-- A doubleword of a command image. -/
abbrev cdw (m : BitVec 512) (i : Nat) : Nat := dwordOf m i

def cmdCode (m : BitVec 512) : Nat := bf (cdw m 0) 7 0
def cmdFlags (m : BitVec 512) : Nat := bf (cdw m 0) 15 8
def cmdShd (m : BitVec 512) : Bool := bit (cdw m 0) 16
def cmdCpl (m : BitVec 512) : Nat := bf (cdw m 0) 18 17
def cmdPrio (m : BitVec 512) : Nat := bf (cdw m 0) 23 19
def cmdRing (m : BitVec 512) : Nat := bf (cdw m 0) 29 24
def cmdWfrag (m : BitVec 512) : Nat := bf (cdw m 0) 63 32
def cmdTag (m : BitVec 512) : Nat := bf (cdw m 1) 31 0

/-- A 48-bit address field. -/
def cmdAddr (m : BitVec 512) (i : Nat) : Nat := bf (cdw m i) 47 0

/-- Whether the header breaches R284. -/
def headBad (m : BitVec 512) : Bool :=
  bf (cdw m 0) 31 30 != 0 || cmdCpl m = 3 || (cmdCode m != 0x30 && cmdPrio m != 0) ||
  (cmdCpl m = 0 && cdw m 1 != 0) || (cmdCpl m = 1 && (bf (cdw m 1) 63 48 != 0 || cdw m 1 % 128 != 0)) ||
  (cmdCpl m = 2 && (bf (cdw m 1) 63 32 != 0 || cmdRing m = 63))

/-- Whether a doubleword has bits above an address. -/
def highBits (m : BitVec 512) (i : Nat) : Bool := bf (cdw m i) 63 48 != 0

/-- Whether some of the doublewords are non-zero. -/
def anySet (m : BitVec 512) (l : List Nat) : Bool := l.any fun i => cdw m i != 0

/-- A signed 32-bit field. -/
def s32 (v : Nat) : Int := if 2 ^ 31 ≤ v then (v : Int) - 2 ^ 32 else v

/-! ## Malformed images by queue -/

/-- Whether the operation bytes of CHAIN are malformed (R287): up to the first End. -/
def chainOpsBad (noB : Bool) : List Nat → Bool
  | [] => false
  | b :: t =>
    let op := b / 4
    let sel := b % 4
    if op = 0 then false
    else (decide (7 ≤ op ∧ op ≤ 15) || decide (26 ≤ op) || (decide (16 ≤ op) && sel != 0) || (decide (op ≤ 6) && sel = 0 && noB)) ||
         chainOpsBad noB t

/-- The operation bytes of CHAIN. -/
def chainOps (m : BitVec 512) : List Nat := (List.range 8).map fun i => cdw m 7 / 256 ^ i % 256

/-- COPY, FILL (R286). -/
def copyBad (m : BitVec 512) : Bool :=
  (4 ≤ cmdFlags m : Bool) || highBits m 3 || anySet m [6, 7] || (bit (cmdFlags m) 1 && cmdShd m) ||
  (if cmdCode m = 1 then highBits m 2
   else bf (cdw m 5) 31 0 != 0 || bf (cdw m 4) 31 0 % 8 != 0 || cdw m 3 % 8 != 0)

/-- CHAIN (R287). -/
def chainBad (m : BitVec 512) : Bool :=
  (4 ≤ cmdFlags m : Bool) || bf (cdw m 2) 63 59 != 0 || (2 ≤ bf (cdw m 2) 58 57 : Bool) || highBits m 3 || highBits m 4 ||
  (bit (cmdFlags m) 1 && cmdShd m) || (4 < bf (cdw m 2) 56 54 : Bool) || (4 < bf (cdw m 2) 53 51 : Bool) ||
  (4 < bf (cdw m 2) 50 48 : Bool) || chainOpsBad (cmdAddr m 3 = 0) (chainOps m)

/-- Collectives (R288). -/
def collBad (m : BitVec 512) : Bool :=
  cmdFlags m != 0 || highBits m 2 || highBits m 3 || highBits m 4 || (3 < bf (cdw m 4) 37 35 : Bool) || (5 < bf (cdw m 4) 34 32 : Bool) ||
  (bf (cdw m 4) 37 35 = 3 && !(bf (cdw m 4) 34 32 = 3 || bf (cdw m 4) 34 32 = 4)) || highBits m 5 || cdw m 5 % 64 != 0 ||
  bf (cdw m 6) 31 10 != 0 || cdw m 7 != 0

/-- AMSG (R289). -/
def amsgBad (m : BitVec 512) : Bool := cmdFlags m != 0 || cmdAddr m 2 % 4 != 0

/-- EVT (R290). -/
def evtBad (m : BitVec 512) : Bool :=
  cmdFlags m != 0 || bf (cdw m 2) 31 6 != 0 || bf (cdw m 2) 5 0 = 63 || anySet m [3, 4, 5, 6, 7]

/-- Operands that a row command reads: doubleword numbers (R301). -/
def rowSrcs (m : BitVec 512) : List Nat :=
  if cmdCode m = 0x40 then [2]
  else if cmdCode m = 0x41 then (if cmdFlags m % 8 = 3 then [2] else if cmdFlags m % 8 = 4 then [2, 5, 6] else [2, 5])
  else []

/-- Row commands (R300–R302). -/
def rowBad (m : BitVec 512) : Bool :=
  let used := 3 :: rowSrcs m
  cmdShd m || (if cmdCode m = 0x41 then (5 ≤ cmdFlags m : Bool) else cmdFlags m != 0) || highBits m 3 ||
  ([2, 5, 6].any fun i => if used.contains i then highBits m i || cmdAddr m i % 1024 != 0 else cdw m i != 0) ||
  cmdAddr m 3 % 1024 != 0 || bf (cdw m 4) 63 32 != 0 || cdw m 4 = 0 || (65536 < cdw m 4 : Bool) || cdw m 7 != 0

/-- The operand of a row command that fails because it is not 1,024-byte aligned, in an image that is otherwise in order (R302, R422): its
doubleword. -/
def rowSkew (m : BitVec 512) : Option Nat :=
  let low (i : Nat) : Nat := if (3 :: rowSrcs m).contains i then cdw m i % 1024 else 0
  let flat : BitVec 512 := BitVec.ofNat 512 (ofDwords ((List.range 8).map fun i => cdw m i - low i))
  if headBad m || rowBad flat then none else (3 :: rowSrcs m).find? fun i => low i != 0

/-- ALLOC and FREE (R300, R306). -/
def allocBad (m : BitVec 512) : Bool :=
  cmdShd m || cmdFlags m != 0 || highBits m 2 || cdw m 2 % 64 != 0 || anySet m [3, 5, 6, 7] || bf (cdw m 4) 63 36 != 0 ||
  bf (cdw m 4) 31 0 = 0 || (65536 < bf (cdw m 4) 31 0 : Bool) || bf (cdw m 4) 35 32 = 0 || (4 < bf (cdw m 4) 35 32 : Bool)
def freeBad (m : BitVec 512) : Bool := cmdShd m || cmdFlags m != 0 || (2 ^ 16 ≤ cdw m 2 : Bool) || anySet m [3, 4, 5, 6, 7]

/-- Fields of LKRUN (R307). -/
def lkSpl (m : BitVec 512) : Nat := bf (cdw m 4) 42 32
def lkRblk (m : BitVec 512) : Nat := bf (cdw m 4) 22 20 + 1
def lkGpt (m : BitVec 512) : Nat := bf (cdw m 4) 17 16 + 1
def lkAny (m : BitVec 512) : Bool := bit (cdw m 4) 12
def lkCore (m : BitVec 512) : Nat := 512 + 8 * bf (cdw m 4) 11 8 + bf (cdw m 4) 2 0

/-- LKRUN (R300, R307). -/
def lkrunBad (m : BitVec 512) : Bool :=
  cmdShd m || cmdFlags m != 0 || highBits m 2 || cdw m 2 % 4 != 0 || highBits m 3 || anySet m [5, 6, 7] ||
  bf (cdw m 4) 63 43 != 0 || bf (cdw m 4) 31 23 != 0 || bf (cdw m 4) 19 18 != 0 || bf (cdw m 4) 15 13 != 0 || bf (cdw m 4) 7 3 != 0 ||
  (1024 < lkSpl m : Bool) || (32 < lkGpt m * lkRblk m : Bool)

/-- WALK (R308). -/
def walkBad (m : BitVec 512) : Bool :=
  cmdFlags m != 0 || highBits m 2 || cdw m 2 % 64 != 0 || bf (cdw m 3) 63 32 != 0 || cdw m 3 = 0 || (4096 < cdw m 3 : Bool) || anySet m [4, 5, 6, 7]

/-- SHELF.READ and SHELF.APPEND (R314). -/
def shelfReadBad (m : BitVec 512) : Bool :=
  cmdFlags m != 0 || bf (cdw m 2) 63 40 != 0 || highBits m 3 || cdw m 3 % 4096 != 0 || cdw m 4 = 0 || (4096 < cdw m 4 : Bool) || anySet m [5, 6, 7]
def shelfAppendBad (m : BitVec 512) : Bool :=
  cmdFlags m != 0 || cmdShd m || highBits m 2 || cdw m 2 % 4096 != 0 || cdw m 3 = 0 || (4096 < cdw m 3 : Bool) || highBits m 4 ||
  cdw m 4 % 8 != 0 || anySet m [5, 6, 7]

/-- Whether a command of queues 0–7 is malformed: an unknown CMD of its queue, or a breach of its format (R7, R422). -/
def cmdBad (qn : Nat) (m : BitVec 512) : Bool :=
  let c := cmdCode m
  headBad m ||
  (if qn = 0 then !(c = 1 || c = 2) || copyBad m
   else if qn = 1 then c != 0x10 || chainBad m
   else if qn = 2 then !(0x20 ≤ c && c ≤ 0x24) || collBad m
   else if qn = 3 then c != 0x30 || amsgBad m
   else if qn = 4 then
     (if c = 0x48 then allocBad m else if c = 0x49 then freeBad m else if c = 0x4C then lkrunBad m
      else !(0x40 ≤ c && c ≤ 0x43) || rowBad m)
   else if qn = 5 then c != 0x50 || walkBad m
   else if qn = 6 then (if c = 0x60 then shelfReadBad m else c != 0x61 || shelfAppendBad m)
   else if qn = 7 then c != 0x70 || evtBad m
   else cmdShd m || (if qn = 8 then !(0x80 ≤ c && c ≤ 0x95) else if qn = 9 then !(0xB0 ≤ c && c ≤ 0xB5) else !(0xA0 ≤ c && c ≤ 0xA4)))

/-! ## The command list -/

/-- The command with a number. -/
def State.cmd (s : State) (id : Nat) : Cmd := (s.eng.cmds.find? fun c => c.id = id).getD {}

/-- Whether a command is live. -/
def State.hasCmd (s : State) (id : Nat) : Bool := s.eng.cmds.any fun c => c.id = id

/-- Change a command. -/
def State.updCmd (s : State) (id : Nat) (f : Cmd → Cmd) : State :=
  { s with eng := { s.eng with cmds := s.eng.cmds.map fun c => if c.id = id then f c else c } }

/-- Commands that hold an entry of a core's queue input (R283): accepted and not started. -/
def State.queued (s : State) (core qn : Nat) : Nat :=
  (s.eng.cmds.filter fun c => c.core = core && c.qn = qn && !c.started).length

/-! ## Direct mode and the scratchpad (R69, R84) -/

/-- The rows of a COPY or FILL destination, or the one row of CHAIN's: offset and bytes. -/
def dstRows (m : BitVec 512) : List (Nat × Nat) :=
  if cmdCode m = 0x10 then
    let sz := [4, 2, 2, 1, 1].getD (bf (cdw m 2) 56 54) 4
    let n := bf (cdw m 6) 63 32
    if n = 0 then [] else [(cmdAddr m 4, n * sz)]
  else
    let w := bf (cdw m 4) 31 0
    if w = 0 then []
    else (List.range (bf (cdw m 4) 63 32)).map fun (r : Nat) =>
      ((((cmdAddr m 3 : Int) + (r : Int) * s32 (bf (cdw m 5) 63 32)) % (2 : Int) ^ 48).toNat, w)

/-- Whether a command's destination is the scratchpad. -/
def dstSp (qn : Nat) (m : BitVec 512) : Bool := decide (qn ≤ 1) && bit (cmdFlags m) 1

/-- Lines of the window that the destination of a direct-mode command covers; none where the command is malformed or leaves
the window. -/
def spDst (qn : Nat) (m : BitVec 512) (spl : Nat) : List Nat :=
  if dstSp qn m && !cmdBad qn m && (dstRows m).all fun r => decide (r.1 + r.2 ≤ spl * 128)
  then ((dstRows m).flatMap fun r => (List.range ((r.1 + r.2 - 1) / 128 - r.1 / 128 + 1)).map (r.1 / 128 + ·)).eraseDups
  else []

/-- Whether a command would take a line's pending count past 15 (R69). -/
def Team.spFull (tm : Team) (qn : Nat) (m : BitVec 512) : Bool := (spDst qn m tm.spl).any fun l => decide (15 ≤ (tm.line l).pending)

/-- Acceptance of a direct-mode command counts the lines that it will fill, and makes them absent (R69). -/
def Team.spAwait (tm : Team) (qn : Nat) (m : BitVec 512) : Team :=
  (spDst qn m tm.spl).foldl (fun tm l => tm.updLine l fun e => { e with pending := e.pending + 1, absent := true }) tm

/-! ## Acceptance (R283) -/

/-- The stores of a lane that PUSH.REL waits for: those not yet performed in this package (R283). -/
def State.relStores (s : State) (t g lane : Nat) : List Nat :=
  (s.stores.filter fun f => f.of t g lane && !f.remote && (!f.performed || !f.deltas.isEmpty)).map (·.id)

/-- A command joins its queue, in the cycle that it arrives in (R350). -/
def State.acceptCmd (s : State) (c : Cmd) : State :=
  let (id, s) := s.newId
  { s with eng := { s.eng with cmds := s.eng.cmds ++ [{ c with id := id, cycle := s.clk.cycle }] } }

/-- A push of a lane (R283): the flag, and the state after it. -/
def State.pushCmd (s : State) (t g lane qn : Nat) (m : BitVec 512) (rel : Bool) : Bool × State :=
  let tm := s.team t
  let w := if tm.root = 0 then 0 else cmdWfrag m
  if 64 ≤ s.queued tm.core qn ∨ s.weightOf t g lane < w then (true, s)
  else
    let s := s.setWeight t g lane (s.weightOf t g lane - w)
    let s := s.updTeam t fun tm => tm.spAwait qn m
    let rs := if rel then s.relStores t g lane else []
    let gs := match tm.origin with
      | .grid id => (s.grid id).self
      | _ => 0
    (false, s.acceptCmd { qn := qn, core := tm.core, fn := tm.fn, harbour := tm.harbour, team := t, root := tm.root, gridSelf := gs,
                          scls := tm.scls, dloff := tm.dloff, img := m, wfrag := BitVec.ofNat 64 w, rel := rs, grp := g, lane := lane,
                          st := if rs.isEmpty then .queued else .held, lines := spDst qn m tm.spl })

end Sys2Proof.Machine
end

