-- ==== Sys2Proof/Machine/Deeds.lean ====
section
/-! DEFINITION. Deeds done on behalf of work, in chains that wait for rings, for replay and for drains (R58, R285, R464, R465),
and the actions that transactions hold until their commit (R240). -/

namespace Sys2Proof.Machine

open Sys2Proof

/-! ## Spawns (R247) -/

/-- The grid that a team belongs to. -/
def State.gridOf (s : State) (t : Nat) : Option Grid :=
  match (s.team t).origin with
  | .grid id => s.sched.grids.find? fun g => g.id = id
  | _ => none

/-- TSPAWN of a team's leader with the image it has read (R247): the status, what follows, and the state. -/
def State.spawn (s : State) (t : Nat) (img : BitVec 1024) (va : Nat) (x : Xl) : Nat × List Deed × State :=
  let tm := s.team t
  let have_ := s.weightOf t 0 0
  let root := recRoot img
  if isLedge tm.core ∨ recKind img = 3 ∨ recBad img false then
    let taken := if root = tm.root ∧ root ≠ 0 then min (recWeight img) have_ else 0
    (1, [.err { snum := tm.core, cause := 0x20, vf := tm.fn, akind := 1, addr := va, item := va, tag := recTag img }] ++
        (if taken = 0 then [] else [.ret root taken true]), s.setWeight t 0 0 (have_ - taken))
  else if root ≠ 0 ∧ root ≠ tm.root then (3, [], s)
  else if root ≠ 0 ∧ have_ < recWeight img then (2, [], s)
  else
    let s := if root ≠ 0 then s.setWeight t 0 0 (have_ - recWeight img) else s
    let (parent, s) := match s.gridOf t with
      | some g => (g.self, s.recWr g 0x7C 4 (s.cplcnt g + 1))
      | none => (0, s)
    let (ds, s) := s.acceptRec tm.fn tm.harbour false img (((s.grp t 0).th 0).depth.toNat + 1) parent va x
    (0, ds, s)

/-- Whether a page serves records of a group's own accesses: HC memory of this package (R246, R247). -/
def notHc (x : Xl) : Bool := x.kind != 0 || x.coh != 0

/-! ## Timers (R260) -/

/-- Arm an entry of a function's timer table: whether there was room. -/
def State.armTimer (s : State) (fn : Nat) (harbour : Bool) (addr : Nat) (at_ : Word) : Bool × State :=
  if 64 ≤ (s.fn fn).timers.length then (false, s)
  else (true, s.updFn fn fun f => { f with timers := f.timers ++ [{ addr := addr, at_ := at_, harbour := harbour }] })

/-! ## Actions held by a transaction (R240, R464) -/

/-- The record of a check that a held action fails (R464). -/
def heldErr (tm : Team) (cause : Nat) (a : Word) : Deed :=
  let (ak, ad, de) := trapAddrInfo cause false a
  .err { snum := tm.core, cause := cause, vf := tm.fn, akind := ak, addr := ad, detail := de }

/-- Give the flags of a push to its lanes (R283). -/
def State.answerAll (s : State) (t g : Nat) (pend : List Nat) (v : Word) : State := pend.foldl (fun s p => s.answer t g p v) s

/-- Whether a thread's stores have all been acknowledged, those to its outbound ports included (R58). -/
def State.drained (s : State) (t g lane : Nat) : Bool :=
  ((s.grp t g).th lane).osat = 0 && !(s.stores.any fun f => f.of t g lane) &&
  (List.range 4).all fun q => ((s.grp t g).port lane q).push.isEmpty

/-- A held action is issued (R464). -/
def State.heldDeed (s : State) (c : Chain) (t g : Nat) : Held → Ran
  | .push qn img wlane _ _ rel pend =>
    if !queueOk (s.team t).core qn then .more [heldErr (s.team t) 0x0B 0] (s.answerAll t g pend 1)
    else if (s.team t).spFull qn img then .wait false s
    else
      let (full, s) := s.pushCmd t g wlane qn img rel
      .more [] (s.answerAll t g pend (if full then 1 else 0))
  | .tspawn lane _ addr pend =>
    let th := (s.grp t g).th lane
    let a := BitVec.ofNat 64 addr
    if th.depth = 9 then .more [heldErr (s.team t) 0x0D 0] (s.answer t g pend 1)
    else if addr % 128 ≠ 0 then .more [heldErr (s.team t) 0x04 a] (s.answer t g pend 1)
    else match s.reach c.fn c.harbour .store addr 128 true with
      | (.ok x, s) =>
        if s.isPoison x.key 128 then .more [heldErr (s.team t) 0x08 a] (s.answer t g pend 1) else
        let (st, ds, s) := s.spawn t (BitVec.ofNat 1024 (s.rd x.key 128)) addr x
        .more ds (s.answer t g pend (BitVec.ofNat 64 st))
      | (.skip e, s) => .more [heldErr (s.team t) e a] (s.answer t g pend 1)
      | (.stuck, s) => .wait true s
      | (.later, s) => .wait false s
  | .tdec _ addr =>
    if addr % 128 ≠ 0 then .more [heldErr (s.team t) 0x04 (BitVec.ofNat 64 addr)] s
    else match s.reach c.fn c.harbour .store addr 8 true with
      | (.ok x, s) => .more [.decPa x.pa addr] s
      | (.skip e, s) => .more [heldErr (s.team t) e (BitVec.ofNat 64 addr)] s
      | (.stuck, s) => .wait true s
      | (.later, s) => .wait false s
  | .timer addr at_ pend =>
    if addr % 128 ≠ 0 then .more [heldErr (s.team t) 0x04 (BitVec.ofNat 64 addr)] (s.answerAll t g pend 0)
    else
      let (ok, s) := s.armTimer c.fn c.harbour addr at_
      .more [] (s.answerAll t g pend (if ok then 1 else 0))
  | .wret lane =>
    if !s.drained t g lane then .wait false s
    else
      let w := s.weightOf t g lane
      .more (if w = 0 ∨ (s.team t).root = 0 then [] else [.ret (s.team t).root w false, .retDone t g lane]) (s.setWeight t g lane 0)
  | .wborrow lane _ n pend => .more [.borrow t g lane n pend] s

/-! ## Ends of items (R32, R45) -/

/-- A team or a command of a record has ended: CPLCNT falls; a failure marks the record, with the first cause (R58, R389). -/
def State.endItem (s : State) (id cause : Nat) : List Deed × State :=
  let (ds, s) := s.decCplcnt (s.grid id) 1
  (ds, s.updGrid id fun g => { g with live := g.live - 1, failed := g.failed || decide (cause ≠ 0), fault := if g.fault = 0 then cause else g.fault })

/-! ## Running deeds -/

/-- One deed of a chain. -/
def State.runDeed (s : State) (c : Chain) : Deed → Ran
  | .dec addr => reaching c.fn addr (s.reach c.fn c.harbour .rw (addr / 128 * 128 + 4) 4)
      (fun x s => let (ds, s) := s.decDep c.fn (x.key - 4) (x.pa - 4) addr; .more ds s) []
  | .decPa pa addr =>
    match s.resolve pa with
    | some k => let (ds, s) := s.decDep c.fn k pa addr; .more ds s
    | none => .more [skipErr c.fn 0x05 addr] s
  | .decList _ 0 => .more [] s
  | .decList addr (n + 1) => reaching c.fn addr (s.reach c.fn c.harbour .load addr 8)
      (fun x s =>
        let a := s.rd x.key 8 % 2 ^ 48
        .more ((if a = 0 then [] else [.dec a]) ++ [.decList (addr + 8) n]) s) [.decList (addr + 8) n]
  | .decCpl addr => reaching c.fn addr (s.reach c.fn c.harbour .rw (addr / 128 * 128 + 0x7C) 4)
      (fun x s => match s.decCounter x.key with
        | some s => .more [] s
        | none => .more [underflow c.fn addr] s) []
  | .ret root units failed =>
    if root = 0 ∨ units = 0 then .more [] s
    else reaching c.fn root (s.reach c.fn c.harbour .rw root 128)
      (fun x s => let (ds, s) := s.addWeight c.fn x.key x.pa root units failed; .more ds s) []
  | .err e => if s.errHeld e.vf then .wait false s else .more [] (s.postErr e)
  | .post ring v => let (id, s) := s.postRing c.fn ring v; .more [.await ring id] s
  | .await ring id => if s.recWaits c.fn ring id then .wait false s else .more [] s
  | .ready id => s.readyRec c id
  | .phase id => s.phaseRec id
  | .enqueue img => s.enqueueRec c.fn img
  | .keepFailed img => s.keepFailedRec c.fn img
  | .held t g h => s.heldDeed c t g h
  | .borrow t g lane n pend => s.borrowRec c t g lane n pend
  | .cmdEnd id => .more [] (s.updCmd id fun c => { c with st := .done, started := true })
  | .itemEnd id cause => let (ds, s) := s.endItem id cause; .more ds s
  | .retDone _ _ _ => .more [] s

/-- An error record bears the time at which its error was detected, however long it waits (R404). -/
def Deed.dated (now : Word) : Deed → Deed
  | .err e => .err { e with time := some (e.time.getD now) }
  | d => d

/-- Deeds run one after another until one waits, at most `k` of them at a time. -/
def runDeeds (c : Chain) : Nat → List Deed → State → Chain × State
  | 0, ds, s => ({ c with deeds := ds }, s)
  | _, [], s => ({ c with deeds := [] }, s)
  | k + 1, d :: ds, s =>
    match s.runDeed c d with
    | .more es s => runDeeds c k (es.map (Deed.dated s.clk.time) ++ ds) s
    | .wait stuck s => ({ c with deeds := d :: ds, stuck := stuck }, s)

/-- The most deeds that one step runs of one chain. -/
def deedFuel : Nat := 2 ^ 20

/-- A chain runs; what is left of it joins those under way. -/
def State.runChain (s : State) (c : Chain) : State :=
  let (c, s) := runDeeds c deedFuel c.deeds s
  if c.deeds.isEmpty then s else { s with sched := { s.sched with chains := s.sched.chains ++ [c] } }

/-- Deeds for a function's work begin. -/
def State.launch (s : State) (fn : Nat) (harbour : Bool) (ds : List Deed) (owner : Option (Nat × Nat × LaneMask) := none) : State :=
  if ds.isEmpty then s else s.runChain { fn := fn, harbour := harbour, deeds := ds.map (Deed.dated s.clk.time), owner := owner }

/-- Every chain that does not wait for replay is tried again, in order. -/
def State.resume (s : State) : State :=
  if s.sched.chains.isEmpty then s
  else
    let cs := s.sched.chains
    cs.foldl (fun s c => if c.stuck then { s with sched := { s.sched with chains := s.sched.chains ++ [c] } } else s.runChain c)
      { s with sched := { s.sched with chains := [] } }

/-- Lanes that a deed still to be done keeps waiting: those of a WRET that a transaction held (R251). -/
def Deed.waiters (t g : Nat) : Deed → LaneMask
  | .held t' g' (.wret l) => if t' = t ∧ g' = g then laneBit l else 0
  | .retDone t' g' l => if t' = t ∧ g' = g then laneBit l else 0
  | _ => 0

/-- Lanes of a group that wait for deeds to end (R251). -/
def State.deedLanes (s : State) (t g : Nat) : LaneMask :=
  s.sched.chains.foldl (fun m c => c.deeds.foldl (fun m d => m ||| d.waiters t g) (match c.owner with
    | some (t', g', l) => if t' = t ∧ g' = g then m ||| l else m
    | none => m)) 0

end Sys2Proof.Machine
end

