-- ==== Sys2Proof/Machine/Issue.lean ====
section
/-! DEFINITION. Which lanes can take their next word (R55, R99, R101, R251, R258), and states of groups (R50, R51). -/

namespace Sys2Proof.Machine

open Sys2Proof

/-- An MMA of the matrix queue. -/
def MtxOp.isMma : MtxOp → Bool
  | .mma _ _ _ _ _ _ _ => true
  | _ => false

/-- Whether a lane waits for variable-latency results that it issued, its MMAs among them (R99). -/
def State.waits (s : State) (t g lane : Nat) : Bool :=
  (s.grp t g).waits lane ||
  (s.pairOf (s.team t).core).queue.any fun e => e.op.isMma && e.team = t && e.grp = g && e.lanes.getLsbD lane

/-- Poison that a lane takes at the stop point where it is parked (R431). -/
def State.poisonDue (s : State) (t g lane : Nat) : Bool :=
  let th := (s.grp t g).th lane
  th.poison.isSome && th.stopPt.isSome && !(th.waitRes && s.waits t g lane)

/-- Whether a lane can take its next word: running, not parked at a switch marker (R99), no poison due, no deed of its own under
way (R251), not at the end of a save handler (R258). -/
def State.canIssue (s : State) (t g lane : Nat) : Bool :=
  let gr := s.grp t g
  let th := gr.th lane
  th.run = .running && !(th.waitRes && s.waits t g lane) && !s.poisonDue t g lane && !th.preended && th.acq.isNone && !(s.deedLanes t g).getLsbD lane

/-- The issues of a group: its subscribed lanes, those at the PC of the lowest that has neither exited nor parked at REJOIN, as one, and
every other live lane alone (R55). A lane parked at BARV, TXEND or PREEND holds no other back. -/
def State.issues (s : State) (t g : Nat) : List LaneMask :=
  let gr := s.grp t g
  let act := gr.active
  match lanesOf act with
  | [] => []
  | b :: _ =>
    let here := maskWhere fun i => act.getLsbD i && (gr.th i).pt.addr = (gr.th b).pt.addr
    let subs := maskWhere fun i => here.getLsbD i && (gr.th i).run = .running && !(gr.th i).preended
    let lone := (lanesOf (act &&& ~~~ here)).filter (s.canIssue t g)
    (if subs != 0 && (lanesOf subs).all (s.canIssue t g) then [subs] else []) ++ lone.map laneBit

/-- A group whose live threads are all parked at REJOIN is PARKED (R233). -/
def Group.settleRejoin (g : Group) (cycle : Nat) : Group :=
  if g.st = .active ∧ g.live ≠ 0 ∧ g.active = 0 then g.leave .parked cycle else g

/-- A READY group that waits for nothing but a place: not halted, and at no barrier (R51, R56). -/
def Group.eligible (g : Group) : Bool := g.st = .ready && !g.halt && g.barOff.isNone

/-- The groups of a team. -/
def Team.groupList (tm : Team) : List Nat := tm.groups.map fun e => e.1

/-- Change every group of a team. -/
def Team.mapGroups (tm : Team) (f : Nat → Group → Group) : Team :=
  { tm with groups := tm.groups.map fun e => (e.1, f e.1 e.2) }

end Sys2Proof.Machine
end

