-- ==== Sys2Proof/Machine/ControlOps.lean ====
section
/-! DEFINITION. Clause headers, transfers of control, exit and the rejoin masks (R92–R98, R228–R234), and barrier arrivals (R248, R249). -/

namespace Sys2Proof.Machine

open Sys2Proof

/-! ## Clause headers (R93–R96, R257) -/

/-- The WAIT conditions of a header (R95). -/
structure Waits where
  ld : Bool
  st : Bool
  sf : Bool
  mx : Bool
  dr : Bool
  eq : Bool
  tf : Bool
  oq : Option Nat

/-- Whether every store of a group issued before `r` has been acknowledged (R95). -/
def State.storesDone (s : State) (t g r : Nat) : Bool :=
  !(s.stores.any fun f => f.drain.isNone && f.team = t && f.grp = g && decide (f.seq < r)) && (s.grp t g).ports.all fun e => e.2.push.isEmpty

/-- Whether the group's operations of a kind in the matrix queue, issued before `r`, have ended. -/
def State.mtxDone (s : State) (core t g r : Nat) (p : MtxOp → Bool) : Bool :=
  !((s.pairOf core).queue.any fun e => e.team = t && e.grp = g && decide (e.seq < r) && p e.op)

def MtxOp.isDrain : MtxOp → Bool
  | .drain _ _ _ _ _ _ _ _ _ => true
  | _ => false

/-- Whether every drain of a group issued before `r` has been performed at its destination (R95, R278). -/
def State.drainsDone (s : State) (core t g r : Nat) : Bool :=
  s.mtxDone core t g r MtxOp.isDrain && !(s.stores.any fun f => f.drain.isSome && f.team = t && f.grp = g && decide (f.seq < r))

/-- Whether the group's tile fetches issued before `r` are pinned. -/
def State.fetchesDone (s : State) (core t g r : Nat) : Bool :=
  (s.pairOf core).recs.all fun e => match e.2 with
    | some rc => rc.team != t || rc.binds.all fun b => !(b.st = 1 && b.grp = g && decide (b.seq < r))
    | none => true

/-- Enabled inbound ports that some word of a clause reads; a port of another kind holds no header back, its word traps (R95, R105). -/
def State.clausePorts (s : State) (streams : SMap Stream) (rg : Regime) (word : State → Regime → Nat → Option Nat) (hdr n : Nat) : List Nat :=
  ((List.range n).flatMap fun k => match word s rg ((hdr + 4 * (k + 1)) % 2 ^ 48) with
    | some w => (match decodeInstr w with
      | .ok i => ((opOf i).rd.filterMap portOf).filter fun q => let st : Stream := SMap.get {} streams q; st.en && !st.out
      | .error _ => [])
    | none => []).eraseDups

/-- The word at an address of the code, by the translation that the unit holds or a walk would give. -/
def State.codeWord (s : State) (rg : Regime) (a : Nat) : Option Nat :=
  match s.translate rg a with
  | .ok x => if x.denies .fetch then none else some (s.rd x.key 4)
  | .error _ => none

/-- Whether the WAIT conditions of a header hold for the lanes that reached it (R95). -/
def State.waitsHold (s : State) (i : Iss) (c : Waits) (n : Nat) : Bool :=
  let g := s.grp i.t i.g
  let r := (lanesOf i.lanes).foldl (fun m l => max m (((g.th l).reached).getD s.clk.seq)) 0
  let done (k : PendKind) : Bool := !(g.out.any fun p => p.kind = k && decide (p.seq < r))
  (!c.ld || done .ld) && (!c.sf || done .sf) && (!c.eq || done .eq) && (!c.st || s.storesDone i.t i.g r) &&
  (!c.mx || s.mtxDone i.core i.t i.g r MtxOp.isMma) && (!c.dr || s.drainsDone i.core i.t i.g r) &&
  (!c.tf || s.fetchesDone i.core i.t i.g r) &&
  (match c.oq with
   | none => true
   | some q =>
     let ports := s.clausePorts (s.team i.t).streams (s.team i.t).regime State.codeWord i.pt.hdr.toNat n
     (lanesOf i.lanes).all fun l => ports.all fun p =>
       let pt := g.port l p
       decide (min q ((SMap.get {} (s.team i.t).streams p : Stream).count - pt.popped) ≤ pt.got.length))

/-- A clause is captured in a lane's loop buffer of 48 entries; the oldest make room (R55, R96). -/
def capture (buf : List (Nat × Nat)) (hdr n : Nat) : List (Nat × Nat) :=
  if buf.any fun e => e.1 = hdr then buf
  else ((hdr, n + 1) :: buf).foldl (fun (a : List (Nat × Nat) × Nat) e =>
    if a.2 + e.2 ≤ 48 then (a.1 ++ [e], a.2 + e.2) else (a.1, 48)) ([], 0) |>.1

/-- Lanes at the breakpoint's header that have not just returned from it (R257). -/
def Team.bpLanes (tm : Team) (g : Group) (i : Iss) : LaneMask :=
  if tm.dbgctl.getLsbD 1 ∧ i.pt.hdr = tm.bpaddr.setWidth 48 then maskWhere fun l => i.lanes.getLsbD l && !(g.th l).bpSkip else 0

/-- A group or a lone thread at a clause header: the breakpoint, legality (R94), then the WAIT conditions; a header with LD is
a stop point for poison (R431). Then the first word of the clause is next. -/
def header (ok : Bool) (c : Waits) (cls n : Nat) (lc y : Bool) (s : State) : Host.Outcome State Fault Refusal :=
  match s.focus with
  | none => .next s
  | some f =>
    let i := mkIss {} f s
    let bp := (s.team i.t).bpLanes (s.grp i.t i.g) i
    if bp ≠ 0 then .next (s.raise { i with lanes := bp, pt := if ok then { hdr := i.pt.hdr, cls := cls, n := n, y := y } else i.pt } 0x0F false fun _ => 0)
    else if !ok then .next (s.raise i 0x02 false fun _ => 0)
    else
      let s := s.updGrp i.t i.g fun g => g.mapTh i.lanes fun th => { th with reached := some (th.reached.getD s.clk.seq) }
      if !s.waitsHold i c n then .next (s.held i.t i.g)
      else
        let g := s.grp i.t i.g
        let bad := if c.ld then maskWhere fun l => i.lanes.getLsbD l && (g.th l).poison.isSome else 0
        let go := i.lanes &&& ~~~ bad
        .next ((s.updGrp i.t i.g fun g =>
          (g.mapTh bad fun th => { th with stopPt := some { hdr := i.pt.hdr, cls := cls, n := n, y := y } }).mapTh go fun th =>
            { th with pt := { hdr := i.pt.hdr, pos := 1, cls := cls, n := n, y := y }, reached := none, stopPt := none, waitRes := false,
                      bpSkip := false, loopBuf := if lc then capture th.loopBuf i.pt.hdr.toNat n else th.loopBuf }).issued i.t i.g false)

/-! ## Transfers of control (R228–R230) -/

/-- Lanes of a transfer: those that take it go to their target, the others on to the next word. -/
def transfer (i : Iss) (taken : LaneMask) (dest : Nat → CodePt) (s : State) : Res :=
  .went (s.updGrp i.t i.g fun g =>
    overLanes taken (fun l g => g.place (laneBit l) (dest l)) (g.place (i.lanes &&& ~~~ taken) i.pt.next)) taken

/-- JMPR and RET (R230): no lane transfers where some target is misaligned. -/
def jump (i : Iss) (pre : State → State) (s : State) : Res :=
  let tgt (l : Nat) : Nat := (i.v 0 l).toNat % 2 ^ 48
  match (lanesOf i.lanes).find? fun l => tgt l % 4 != 0 with
  | some b => .trap 0x04 false fun _ => BitVec.ofNat 64 (tgt b)
  | none => transfer i i.lanes (fun l => .header (BitVec.ofNat 48 (tgt l))) (pre s)

/-! ## Rejoin masks (R232–R234) -/

/-- The sets ENR and ARR of a mask. -/
def Group.enrOf (g : Group) (k : Nat) : LaneMask := SMap.get 0 g.enr k
def Group.arrOf (g : Group) (k : Nat) : LaneMask := SMap.get 0 g.arr k

/-- Write the sets of a mask. -/
def Group.setMask (g : Group) (k : Nat) (e a : LaneMask) : Group := { g with enr := SMap.set 0 g.enr k e, arr := SMap.set 0 g.arr k a }

/-- The release test after a change of a mask (R233). -/
def Group.testMask (g : Group) (k : Nat) : Group :=
  let e := g.enrOf k
  let a := g.arrOf k
  if e ≠ 0 ∧ e &&& ~~~ a = 0 then
    (overLanes a (fun i g => g.updTh i fun th => if th.run = .rejoin k then { th with run := .running } else th) g).setMask k 0 0
  else g

/-- Lanes leave a mask (R234). -/
def Group.strike (g : Group) (k : Nat) (m : LaneMask) : Group := (g.setMask k (g.enrOf k &&& ~~~ m) (g.arrOf k &&& ~~~ m)).testMask k

/-! ## Barriers (R248, R249) -/

/-- A group arrives at a barrier object: one event that increments ARRIVED; the arrival that completes the object creates a
continuation for each group that waits there (R56, R249). -/
def State.arrive (s : State) (t g off : Nat) : State :=
  let tm := s.team t
  let d := tm.spRead off 8
  let n := bf d 31 16 + 1
  let full := decide (max 1 (bf d 15 0) ≤ n)
  let gen := if full then (bf d 47 32 + 1) % 2 ^ 16 else bf d 47 32
  let d' := d - d % 2 ^ 48 + gen * 2 ^ 32 + (if full then 0 else n % 2 ^ 16) * 2 ^ 16 + bf d 15 0
  s.updTeam t fun tm =>
    let tm := (tm.spWrite off 8 d' (s.stampNow tm.dloff)).setGrp g { (tm.grp g).leave .barrier s.clk.cycle with barOff := some off }
    if full then tm.mapGroups fun _ gr => if gr.barOff = some off then { gr with cont := true } else gr else tm

/-- The group arrives once every thread that has not exited is parked at BARV; where their offsets differ, the lowest lane's
counts (R249). -/
def State.tryArrive (s : State) (t g : Nat) : State :=
  let gr := s.grp t g
  let live := gr.live
  if live ≠ 0 ∧ gr.barOff = none ∧ (lanesOf live).all (fun l => match (gr.th l).run with | .barv _ => true | _ => false) then
    match (gr.th (lowLane live)).run with
    | .barv off => s.arrive t g off
    | _ => s
  else s

/-! ## Exit (R231) -/

/-- Lanes exit: their transaction aborts, they leave every mask and the active mask. -/
def Group.exitLanes (g : Group) (m : LaneMask) : Group :=
  let g := match g.tx with
    | some x => if x.parts &&& m = 0 then g else g.abortTx .again m
    | none => g
  let g := g.mapTh m fun th => { th with run := .exited, waitRes := false, reached := none, stopPt := none, poison := none }
  (List.range 8).foldl (fun g k => if (g.enrOf k ||| g.arrOf k) &&& m = 0 then g else g.strike k m) g

/-- The last exit ends the group (R51); otherwise the lanes left may complete an arrival, or all be parked at REJOIN. -/
def State.exited (s : State) (t g : Nat) : State :=
  if (s.grp t g).live = 0 then s.updGrp t g fun gr => gr.enter .done s.clk.cycle
  else (s.tryArrive t g).updGrp t g fun gr => gr.settleRejoin s.clk.cycle

/-- CLAUSE_HEADER (R95). The header is checked, waits for its conditions and gives way to the first word of its clause. -/
def execClauseHeader (l y : Bool) (q : BitVec 4) (o t e r m f sm d : Bool) (c : BitVec 3) (n : BitVec 4) : State → Host.Outcome State Fault Refusal :=
  header (.clauseHeader l y q o t e r m f sm d c n : Instr).wellFormed
    { ld := d, st := sm, sf := f, mx := m, dr := r, eq := e, tf := t, oq := if o then some q.toNat else none } c.toNat n.toNat l y

/-- ILLEGAL_CLAUSE_HEADER (R94). Cause 0x02 before any word of the clause; a breakpoint comes first. -/
def execIllegalClauseHeader (word : BitVec 32) : State → Host.Outcome State Fault Refusal :=
  header false ⟨false, false, false, false, false, false, false, none⟩ word.toNat 0 false false

/-- ILLEGAL_INSTRUCTION (R115). A word that is no instruction raises cause 0x01. -/
def execIllegalInstruction (word : BitVec 32) : State → Host.Outcome State Fault Refusal :=
  issue (opOf (.illegalInstruction word)) (fun _ s => .hold (fun _ => s))

/-- BR (R228). Each lane whose predicate holds goes to the target, the others on. -/
def execBr (sm : Bool) (p : BitVec 3) (n : Bool) (o : BitVec 20) : State → Host.Outcome State Fault Refusal :=
  issue (opOf (.br sm p n o)) (fun i s =>
    transfer i (maskWhere fun l => i.lanes.getLsbD l && (i.v 0 l != 0) != n) (fun _ => i.pt.target o) s)

/-- CALL (R229). The link goes to x1 and every lane to the target. -/
def execCall (sm : Bool) (o : BitVec 20) : State → Host.Outcome State Fault Refusal :=
  issue (opOf (.call sm o)) (fun i s =>
    transfer i i.lanes (fun _ => i.pt.target o) (s.updGrp i.t i.g fun g => overLanes i.lanes (fun l g => g.wrX l 1 (i.pt.link.setWidth 64)) g))

/-- JMPR (R230). Each lane goes to the header that its register names. -/
def execJmpr (sm : Bool) (a : BitVec 6) : State → Host.Outcome State Fault Refusal :=
  issue (opOf (.jmpr sm a)) (fun i s => jump i id s)

/-- JMPR_LINK (R230). As JMPR, and the link goes to x[D]. -/
def execJmprLink (sm : Bool) (d a : BitVec 6) : State → Host.Outcome State Fault Refusal :=
  issue (opOf (.jmprLink sm d a)) (fun i s => jump i (setD i d.toNat fun _ => i.pt.link.setWidth 64) s)

/-- RET (R230). Acts as JMPR without a link. -/
def execRet (sm : Bool) (a : BitVec 6) : State → Host.Outcome State Fault Refusal :=
  issue (opOf (.ret sm a)) (fun i s => jump i id s)

/-- EXIT (R231). The lanes exit; the last exit ends the group. -/
def execExit (sm : Bool) : State → Host.Outcome State Fault Refusal :=
  issue (opOf (.exit sm)) (fun i s =>
    .went ((s.updGrp i.t i.g fun g => g.exitLanes i.lanes).exited i.t i.g))

/-- ENROL (R233). The lanes enrol in a mask. -/
def execEnrol (sm : Bool) (k : BitVec 3) : State → Host.Outcome State Fault Refusal :=
  issue (opOf (.enrol sm k)) (fun i s =>
    .done (s.updGrp i.t i.g fun g => (g.setMask k.toNat (g.enrOf k.toNat ||| i.lanes) (g.arrOf k.toNat)).testMask k.toNat))

/-- REJOIN (R233). The lanes enrol, arrive and park at the next word until the mask is complete. -/
def execRejoin (sm : Bool) (k : BitVec 3) : State → Host.Outcome State Fault Refusal :=
  issue (opOf (.rejoin sm k)) (fun i s =>
    .went (s.updGrp i.t i.g fun g =>
      ((((g.place i.lanes i.pt.next).mapTh i.lanes fun th => { th with run := .rejoin k.toNat }).setMask k.toNat
        (g.enrOf k.toNat ||| i.lanes) (g.arrOf k.toNat ||| i.lanes)).testMask k.toNat).settleRejoin s.clk.cycle))

/-- STRIKE (R233). The lanes leave a mask and go on. -/
def execStrike (sm : Bool) (k : BitVec 3) : State → Host.Outcome State Fault Refusal :=
  issue (opOf (.strike sm k)) (fun i s =>
    .done (s.updGrp i.t i.g fun g => g.strike k.toNat i.lanes))

end Sys2Proof.Machine
end

