-- ==== Sys2Proof/Machine/FloatOps.lean ====
section
/-! DEFINITION. Floating-point instructions of class 0 (R187–R199): per-element arithmetic with one rounding, comparison, classification
and conversion. -/

namespace Sys2Proof.Machine

open Sys2Proof

/-- The elements of two or three words combined by an operation of a format, with the rounding of each (R187). -/
def felems (i : Iss) (w : BitVec 2) (k : Bool) (r : BitVec 2) (lane : Nat) (f : Fmt → Rm → Nat → FV) : Word :=
  let fm := fmtOf w k
  ofEls (ewOf w) fun e =>
    let m := rmOf r i.fpm i.src lane e
    fm.rnd (fzr i.fpm) m (f fm m e)

/-- The value of element `e` of an operand, sources flushed (Fz of R187). -/
def fsrc (i : Iss) (w : BitVec 2) (fm : Fmt) (k lane e : Nat) : FV := fm.src (fzs i.fpm) (el (i.v k lane) (ewOf w) e)

/-- SRCNT goes up after an issue whose rounding field is 11 (R145). -/
def srBump (i : Iss) (r : BitVec 2) (s : State) : State :=
  if r = 3 then s.updGrp i.t i.g fun g => { g with srcnt := g.srcnt + 1 } else s

/-- A rounded result in a thread register. -/
def toF (o : Op) (d : Nat) (r : BitVec 2) (f : Iss → Nat → Word) : State → Host.Outcome State Fault Refusal :=
  issue o fun i s => .done (srBump i r (setD i d (f i) s))

/-- The sign bit of an element. -/
def signBit (w v : Nat) : Nat := v / 2 ^ (w - 1) % 2

/-- FSGN of an element (R192). -/
def fsgnEl (fm : Fmt) (fz : Bool) (w : Nat) (c : BitVec 2) (a b : Nat) : Nat :=
  let a := fm.flushBits fz a
  let sa := signBit w a
  let s := if c = 0 then 0 else if c = 1 then 1 - sa else if c = 2 then signBit w b else Nat.xor sa (signBit w b)
  a % 2 ^ (w - 1) + s * 2 ^ (w - 1)

/-- A condition of FCMP for one element (R191). -/
def fcond (c : BitVec 2) (a b : FV) : Bool :=
  if c = 3 then a.isNan || b.isNan
  else !a.isNan && !b.isNan && (if c = 0 then a.eq b else if c = 1 then a.lt b else a.lt b || a.eq b)

/-- A value times 2^k. -/
def FV.scale (v : FV) (k : Int) : FV :=
  match v with
  | .num s m e => .num s m (e + k)
  | v => v

/-- Whether every value is a zero of one sign. -/
def sameZeros (l : List FV) : Bool := l.all fun v => v.isZero && v == l.headD v

/-- An exact sum of values rounded once (R195). The manual states no sign for an exactly zero sum of terms that are not
zeros of one sign: `zs` gives it. -/
def sumFV (zs : Bool) (l : List FV) : FV :=
  let l := l.map fun v => match v with
    | .num s 0 _ => FV.num s 0 0
    | v => v
  if sameZeros l then l.headD (.num false 0 0)
  else match l.foldl (FV.add zs) (.num false 0 0) with
    | .num _ 0 _ => .num zs 0 0
    | v => v

/-- FDOT2 of one 32-bit element (R195). -/
def fdot2El (i : Iss) (w : BitVec 2) (k : Bool) (r : BitVec 2) (lane e : Nat) : Nat :=
  let fm := fmtOf w k
  let g := 32 / ewOf w
  let terms := f32.src (fzs i.fpm) (el (i.v 2 lane) 32 e) ::
    (List.range g).map fun j => (fsrc i w fm 0 lane (g * e + j)).mul (fsrc i w fm 1 lane (g * e + j))
  f32.rnd (fzr i.fpm) (rmOf r i.fpm i.src lane e) (sumFV ((i.fr (1000 + 32 * e + lane)).getLsbD 0) terms)

/-- Width of a result of FCVT (R197). -/
def convWidth (c w : Nat) : Nat :=
  if c ≤ 7 then (convFmt c).w else if c = 8 then 64 else if c = 9 ∨ c = 10 then 32 else w

/-- FCVT of one element to code `c` (R148, R198). -/
def convEl (fz fr : Bool) (m : Rm) (fm : Fmt) (c w q : Nat) : Nat :=
  if c ≤ 10 then (convFmt c).rnd fr m (fm.src fz q)
  else if c ≤ 12 then (fm.src fz q).toIntBits m w (c = 11)
  else fm.rnd fr m (.ofInteger (val (c = 13) w q))

/-- Elements that FCVT converts (R198). -/
def convCount (c w : Nat) : Nat := min (64 / w) (64 / convWidth c w)

/-- FCVT of a word (R198). -/
def convWord (i : Iss) (w : BitVec 2) (k : Bool) (r : BitVec 2) (c lane : Nat) : Word :=
  let v := convWidth c (ewOf w)
  BitVec.ofNat 64 ((List.range (convCount c (ewOf w))).foldl (fun acc e =>
    acc + convEl (fzs i.fpm) (fzr i.fpm) (rmOf r i.fpm i.src lane e) (fmtOf w k) c (ewOf w) (el (i.v 0 lane) (ewOf w) e) * 2 ^ (v * e)) 0)

/-- Magnitudes of elements merged into an amax register (R150, R199). -/
def amaxMerge (old : Word) (vs : List FV) : Word :=
  let nan := old.getLsbD 63 || vs.any FV.isNan
  let mags := (vs.filter fun v => !v.isNan).map fun v => f64.round .rne v.abs
  BitVec.ofNat 64 (mags.foldl max (old.toNat % 2 ^ 63) + if nan then 2 ^ 63 else 0)

/-- The update of SY.AMAXk by the lanes of an issue, `n` elements each (R199). -/
def amaxUpd (i : Iss) (k n : Nat) (f : Nat → Nat → FV) (s : State) : State :=
  s.updGrp i.t i.g fun g => { g with
    amax := SMap.set 0 g.amax k (amaxMerge (SMap.get 0 g.amax k)
      ((lanesOf i.lanes).flatMap fun l => (List.range n).map (f l))) }

/-- FADD (R189). Fz(a) + Fz(b), rounded once. -/
def execFadd (sm : Bool) (d a b : BitVec 6) (u : Bool) (w : BitVec 2) (f : Bool) (r : BitVec 2) : State → Host.Outcome State Fault Refusal :=
  toF (opOf (.fadd sm d a b u w f r)) d.toNat r fun i l =>
    felems i w f r l fun fm m e => FV.add m.zeroSign (fsrc i w fm 0 l e) (fsrc i w fm 1 l e)

/-- FSUB (R189). Fz(a) − Fz(b), rounded once. -/
def execFsub (sm : Bool) (d a b : BitVec 6) (u : Bool) (w : BitVec 2) (f : Bool) (r : BitVec 2) : State → Host.Outcome State Fault Refusal :=
  toF (opOf (.fsub sm d a b u w f r)) d.toNat r fun i l =>
    felems i w f r l fun fm m e => FV.add m.zeroSign (fsrc i w fm 0 l e) (FV.neg (fsrc i w fm 1 l e))

/-- FMUL (R189). Fz(a) × Fz(b), rounded once. -/
def execFmul (sm : Bool) (d a b : BitVec 6) (u : Bool) (w : BitVec 2) (f : Bool) (r : BitVec 2) : State → Host.Outcome State Fault Refusal :=
  toF (opOf (.fmul sm d a b u w f r)) d.toNat r fun i l =>
    felems i w f r l fun fm _ e => FV.mul (fsrc i w fm 0 l e) (fsrc i w fm 1 l e)

/-- FFMA (R189). Fz(d) + Fz(a) × Fz(b), rounded once. -/
def execFfma (sm : Bool) (d a b : BitVec 6) (u : Bool) (w : BitVec 2) (f : Bool) (r : BitVec 2) : State → Host.Outcome State Fault Refusal :=
  toF (opOf (.ffma sm d a b u w f r)) d.toNat r fun i l =>
    felems i w f r l fun fm m e => FV.add m.zeroSign (fsrc i w fm 2 l e) (FV.mul (fsrc i w fm 0 l e) (fsrc i w fm 1 l e))

/-- FMIN (R190, R146). The smaller of each pair of elements; a NaN loses to a number. -/
def execFmin (sm : Bool) (d a b : BitVec 6) (u : Bool) (w : BitVec 2) (f : Bool) : State → Host.Outcome State Fault Refusal :=
  toX (opOf (.fmin sm d a b u w f)) d.toNat fun i l =>
    ofEls (ewOf w) fun e => (fmtOf w f).flushBits (fzr i.fpm) (fminBits (fmtOf w f) false (fzs i.fpm) (el (i.v 0 l) (ewOf w) e) (el (i.v 1 l) (ewOf w) e))

/-- FMAX (R190, R146). The larger of each pair of elements; a NaN loses to a number. -/
def execFmax (sm : Bool) (d a b : BitVec 6) (u : Bool) (w : BitVec 2) (f : Bool) : State → Host.Outcome State Fault Refusal :=
  toX (opOf (.fmax sm d a b u w f)) d.toNat fun i l =>
    ofEls (ewOf w) fun e => (fmtOf w f).flushBits (fzr i.fpm) (fminBits (fmtOf w f) true (fzs i.fpm) (el (i.v 0 l) (ewOf w) e) (el (i.v 1 l) (ewOf w) e))

/-- FCMP (R191). The predicate is 1 when the condition holds for every element. -/
def execFcmp (sm : Bool) (p : BitVec 3) (a b : BitVec 6) (u : Bool) (w : BitVec 2) (f : Bool) (c : BitVec 2) : State → Host.Outcome State Fault Refusal :=
  toP (opOf (.fcmp sm p a b u w f c)) p.toNat fun i l =>
    (List.range (64 / ewOf w)).all fun e => fcond c (fsrc i w (fmtOf w f) 0 l e) (fsrc i w (fmtOf w f) 1 l e)

/-- FSGN (R192). Only the sign bit of each element changes. -/
def execFsgn (sm : Bool) (d a b : BitVec 6) (u : Bool) (w : BitVec 2) (f : Bool) (c : BitVec 2) : State → Host.Outcome State Fault Refusal :=
  toX (opOf (.fsgn sm d a b u w f c)) d.toNat fun i l =>
    ofEls (ewOf w) fun e => fsgnEl (fmtOf w f) (fzs i.fpm) (ewOf w) c (el (i.v 0 l) (ewOf w) e) (el (i.v 1 l) (ewOf w) e)

/-- FCVT (R198). Elements converted between formats; with AMX the magnitudes go to SY.AMAXk. -/
def execFcvt (sm : Bool) (d a : BitVec 6) (c : BitVec 4) (k : BitVec 2) (x : Bool) (w : BitVec 2) (f : Bool) (r : BitVec 2) : State → Host.Outcome State Fault Refusal :=
  issue (opOf (.fcvt sm d a c k x w f r)) fun i s =>
    let s1 := srBump i r (setD i d.toNat (convWord i w f r c.toNat) s)
    .done (if x then amaxUpd i k.toNat (convCount c.toNat (ewOf w)) (fsrc i w (fmtOf w f) 0) s1 else s1)

/-- FCLS (R193). The class code of each element. -/
def execFcls (sm : Bool) (d a : BitVec 6) (w : BitVec 2) (f : Bool) : State → Host.Outcome State Fault Refusal :=
  toX (opOf (.fcls sm d a w f)) d.toNat fun i l => ofEls (ewOf w) fun e => classCode (fmtOf w f) (fzs i.fpm) (el (i.v 0 l) (ewOf w) e)

/-- FSCL (R194). Fz(a) × 2^k, rounded once; k is the second source element as a signed integer. -/
def execFscl (sm : Bool) (d a b : BitVec 6) (u : Bool) (w : BitVec 2) (f : Bool) (r : BitVec 2) : State → Host.Outcome State Fault Refusal :=
  toF (opOf (.fscl sm d a b u w f r)) d.toNat r fun i l =>
    felems i w f r l fun fm _ e => (fsrc i w fm 0 l e).scale (val true (ewOf w) (el (i.v 1 l) (ewOf w) e))

/-- FDOT2 (R195). Products of narrow elements added exactly to each F32 element, rounded once. -/
def execFdot2 (sm : Bool) (d a b : BitVec 6) (u w f : Bool) (r : BitVec 2) : State → Host.Outcome State Fault Refusal :=
  toF (opOf (.fdot2 sm d a b u w f r)) d.toNat r fun i l => ofEls 32 fun e => fdot2El i (if w then 3 else 2) f r l e

/-- FRND (R196). Each element rounded to an integral value. -/
def execFrnd (sm : Bool) (d a : BitVec 6) (w : BitVec 2) (f : Bool) (r : BitVec 2) : State → Host.Outcome State Fault Refusal :=
  toF (opOf (.frnd sm d a w f r)) d.toNat r fun i l =>
    felems i w f r l fun fm m e => (fsrc i w fm 0 l e).integral m

end Sys2Proof.Machine
end

