-- ==== Sys2Proof/Machine/Sfu.lean ====
section
/-! DEFINITION. Special functions (R203–R206): each result is fixed by its bound, or is some value within it. -/

namespace Sys2Proof.Machine

open Sys2Proof

/-! ## Real functions in fixed point: numbers in units of 2^−640 -/

/-- One in fixed point. -/
def fxOne : Nat := 2 ^ 640

/-- Square root of a number, rounded down: one bit of the result at a time. -/
def isqrt (n : Nat) : Nat :=
  (List.range (bitLen n / 2 + 1)).foldr (fun i r => if (r + 2 ^ i) * (r + 2 ^ i) ≤ n then r + 2 ^ i else r) 0

/-- Σ t_k with t_0 = t and t_(k+1) = f k t_k, over n terms. -/
def series (f : Nat → Int → Int) : Nat → Nat → Int → Int
  | 0, _, _ => 0
  | n + 1, k, t => t + series f n (k + 1) (f k t)

/-- e^r for |r| ≤ 1. -/
def fxExp (r : Int) : Int := series (fun k t => t * r / fxOne / (k + 1)) 130 0 fxOne

/-- Artanh of p ÷ q by its series, 3 p ≤ q. -/
def fxAtanh (p q : Int) : Int :=
  let z := p * fxOne / q
  let z2 := z * z / fxOne
  (List.range 210).foldr (fun (k : Nat) (acc : Int) => z / (2 * k + 1) + acc * z2 / fxOne) 0

/-- Arctan of 1 ÷ q. -/
def fxAtanInv (q : Int) : Int :=
  let z2 := (fxOne : Int) / (q * q)
  (List.range 150).foldr (fun (k : Nat) (acc : Int) => (fxOne : Int) / q / (2 * k + 1) - acc * z2 / fxOne) 0

/-- ln 2. -/
def fxLn2 : Int := 2 * fxAtanh 1 3

/-- π. -/
def fxPi : Int := 16 * fxAtanInv 5 - 4 * fxAtanInv 239

/-- A positive fixed-point value times 2^n as an exact value. -/
def fxVal (v : Int) (n : Int) : FV := .num (decide (v < 0)) v.natAbs (n - 640)

/-- The fixed-point number nearest below an exact value, for magnitudes below 2^limit; larger ones are held at it. -/
def fxOf (limit : Int) : FV → Int
  | .num s m e =>
    let v : Nat := if limit < e + bitLen m then 2 ^ (limit.toNat + 640) else m * 2 ^ (e + 640).toNat / 2 ^ (-(e + 640)).toNat
    if s then -(v : Int) else v
  | _ => 0

/-- e^x as a mantissa in [1, 2) and a power of two. -/
def fxExpAt (x : Int) : Int × Int :=
  let n := x / fxLn2
  (fxExp (x - n * fxLn2), n)

/-- Whether a value is below zero. -/
def FV.negative : FV → Bool
  | .num s m _ => s && m != 0
  | _ => false

/-- 2^x. A value too small for the fixed point stands at its least step, on its own side of zero. -/
def rExp2 (x : FV) : FV :=
  let v := if fxOf 12 x = 0 ∧ x.negative then -1 else fxOf 12 x
  let n := v / fxOne
  fxVal (fxExp ((v - n * fxOne) * fxLn2 / fxOne)) n

/-- log2 of a positive value. -/
def rLog2 : FV → FV
  | .num _ m e =>
    let k : Int := bitLen m - 1
    let f : Int := (m * 2 ^ 640 / 2 ^ k.toNat : Nat)
    fxVal ((e + k) * fxOne + 2 * fxAtanh (f - fxOne) (f + fxOne) * fxOne / fxLn2) 0
  | v => v

/-- sin r for |r| ≤ π. -/
def fxSin (r : Int) : Int :=
  let r2 := r * r / fxOne
  series (fun k t => -(t * r2 / fxOne) / ((2 * k + 2) * (2 * k + 3))) 110 0 r

/-- sin x, or with `c` cos x; the cosine of zero is one. -/
def rSin (c : Bool) (x : FV) : FV :=
  let v := fxOf 130 x
  if c ∧ v = 0 then .num false 1 0 else
  let n := (v + fxPi / 2) / fxPi
  let r := v - n * fxPi
  let y := if c then fxSin (fxPi / 2 - (if r < 0 then -r else r)) else fxSin r
  fxVal (if n % 2 = 0 then y else -y) 0

/-- A value that its function keeps below one: past the fixed point's range, the last step below it. -/
def belowOne (v : Int) : Int := min v (fxOne - 1)

/-- 1 ÷ (1 + e^−x). -/
def rSigm (x : FV) : FV :=
  let v := fxOf 11 x
  let (a, n) := fxExpAt (if v < 0 then v else -v)
  let t := a / 2 ^ (-n).toNat
  if v < 0 then fxVal (a * fxOne / (fxOne + t)) n else fxVal (belowOne (fxOne * fxOne / (fxOne + t))) 0

/-- tanh x. -/
def rTanh (x : FV) : FV :=
  let v := fxOf 7 x
  let (a, n) := fxExpAt (-2 * (if v < 0 then -v else v))
  let t := a / 2 ^ (-n).toNat
  let y := belowOne ((fxOne - t) * fxOne / (fxOne + t))
  fxVal (if v < 0 then -y else y) 0

/-- erf in fixed point; past 12 the value stands within 2^−200 of its limit. -/
def fxErf (v : Int) : Int :=
  let w : Int := if 12 * (fxOne : Int) < v then 12 * fxOne else if v < -12 * (fxOne : Int) then -12 * fxOne else v
  let w2 := w * w / fxOne
  let s := (List.range 900).foldl (fun (p : Int × Int) (k : Nat) =>
    (p.1 + p.2 / (2 * k + 1), -(p.2 * w2 / fxOne) / (k + 1))) (0, w)
  2 * s.1 * fxOne / (isqrt (fxPi.toNat * fxOne) : Int)

/-- erf x. -/
def rErf (x : FV) : FV := fxVal (fxErf (fxOf 7 x)) 0

/-- x · (1 + erf(x ÷ √2)) ÷ 2. Below −16 its magnitude is less than 2^−186: it stands as 2^−640 there, on the same side of zero. -/
def rGelu (x : FV) : FV :=
  if FV.lt x (.num true 16 0) then .num true 1 (-640)
  else
    let h := fxOf 7 x * fxOne / (isqrt (2 * fxOne * fxOne) : Int)
    (FV.mul x (fxVal (belowOne ((fxOne + fxErf h) / 2)) 0))

/-- x ÷ (1 + e^−x). -/
def rSilu (x : FV) : FV := FV.mul x (rSigm x)

/-- m ÷ n to 200 bits with the remainder kept as a last bit, so that it rounds as the exact quotient. -/
def stickyDiv (m n : Nat) : Nat :=
  let v := m * 2 ^ (200 + bitLen n)
  2 * (v / n) + if v % n = 0 then 0 else 1

/-- x ÷ y of finite values, y not zero. -/
def rDiv : FV → FV → FV
  | .num s m e, .num t n k => if m = 0 then .num (Bool.xor s t) 0 0 else .num (Bool.xor s t) (stickyDiv m n) (e - k - 201 - bitLen n)
  | v, _ => v

/-- √x of a positive value, with the remainder kept as a last bit. -/
def rSqrt : FV → FV
  | .num s m e =>
    let odd : Nat := (e % 2).toNat
    let v := m * 2 ^ (400 + odd)
    let r := isqrt v
    .num s (2 * r + if r * r = v then 0 else 1) ((e - odd) / 2 - 201)
  | v => v

/-- 1 ÷ √x of a positive value. -/
def rRsq (x : FV) : FV := rDiv (.num false 1 0) (rSqrt x)

/-! ## Results within their bounds (R203–R205) -/

/-- The functions of the SFU (R204). -/
inductive Sfu where
  | rcp
  | rsq
  | sqrt
  | exp2
  | log2
  | sin
  | cos
  | tanh
  | sigm
  | erf
  | gelu
  | silu
  | fdiv
  deriving DecidableEq, Repr

/-- The function's number among its opcodes (R203). -/
def Sfu.num : Sfu → Nat
  | .rcp => 0
  | .rsq => 1
  | .sqrt => 2
  | .exp2 => 3
  | .log2 => 4
  | .sin => 5
  | .cos => 6
  | .tanh => 7
  | .sigm => 8
  | .erf => 9
  | .gelu => 10
  | .silu => 11
  | .fdiv => 12

/-- The real function, for arguments with no special result. -/
def Sfu.real (f : Sfu) (x y : FV) : FV :=
  match f with
  | .rcp => rDiv (.num false 1 0) x
  | .rsq => rRsq x
  | .sqrt => rSqrt x
  | .exp2 => rExp2 x
  | .log2 => rLog2 x
  | .sin => rSin false x
  | .cos => rSin true x
  | .tanh => rTanh x
  | .sigm => rSigm x
  | .erf => rErf x
  | .gelu => rGelu x
  | .silu => rSilu x
  | .fdiv => rDiv x y

/-- Plus or minus zero, infinity and one. -/
def fzero (s : Bool) : FV := .num s 0 0
def fone (s : Bool) : FV := .num s 1 0

/-- Special results of functions of one source (R204). -/
def Sfu.special (f : Sfu) : FV → Option FV
  | .nan => some .nan
  | .inf s =>
    match f with
    | .rcp => some (fzero s)
    | .rsq => some (if s then .nan else fzero false)
    | .sqrt => some (if s then .nan else .inf false)
    | .exp2 => some (if s then fzero false else .inf false)
    | .log2 => some (if s then .nan else .inf false)
    | .sin => some .nan
    | .cos => some .nan
    | .tanh => some (fone s)
    | .sigm => some (if s then fzero false else fone false)
    | .erf => some (fone s)
    | .gelu => some (if s then fzero true else .inf false)
    | .silu => some (if s then fzero true else .inf false)
    | .fdiv => none
  | .num s m e =>
    let zero := m = 0
    match f with
    | .rcp => if zero then some (.inf s) else none
    | .rsq => if zero then some (.inf s) else if s then some .nan else none
    | .sqrt => if zero then some (fzero s) else if s then some .nan else none
    | .exp2 => if zero then some (fone false) else none
    | .log2 => if zero then some (.inf true) else if s then some .nan
      else if FV.eq (.num s m e) (fone false) then some (fzero false) else none
    | .sin => if zero then some (fzero s) else none
    | .tanh => if zero then some (fzero s) else none
    | .erf => if zero then some (fzero s) else none
    | _ => none

/-- Special results of FDIV: IEEE 754-2019 division (R204). -/
def divSpecial (x y : FV) : Option FV :=
  match x, y with
  | .nan, _ => some .nan
  | _, .nan => some .nan
  | .inf _, .inf _ => some .nan
  | .inf s, .num t _ _ => some (.inf (Bool.xor s t))
  | .num s _ _, .inf t => some (fzero (Bool.xor s t))
  | .num s m _, .num t n _ =>
    if n = 0 then some (if m = 0 then .nan else .inf (Bool.xor s t))
    else if m = 0 then some (fzero (Bool.xor s t)) else none

/-- Fast FDIV in F32 and BF16 past |y| = 2^126: the intermediate reciprocal is flushed and a finite x gives a zero (R205). -/
def fastDiv (x y : FV) : Option FV :=
  match x, y with
  | .num s _ _, .num t n k => if FV.lt (.num false 1 126) (.num false n k) then some (fzero (Bool.xor s t)) else none
  | _, _ => none

/-- The bound of R205 on |result − exact|: a multiple of u, and an absolute part. -/
def Sfu.bound (f : Sfu) (fm : Fmt) (acc : Bool) (x : FV) : Nat × FV :=
  let none := fzero false
  let beyond (b : FV) : Bool := FV.lt b x.abs
  if fm = f32 ∧ !acc then
    match f with
    | .rcp => (1, none)
    | .sqrt => (1, none)
    | .fdiv => (1, none)
    | .rsq => (2, none)
    | .exp2 => (2, none)
    | .log2 => if !FV.lt x (.num false 1 (-1)) && !FV.lt (.num false 1 1) x then (0, .num false 1 (-21)) else (2, none)
    | .sin => (0, if beyond (fxVal fxPi 0) then FV.add false (.num false 1 (-21)) (x.abs.scale (-23)) else .num false 1 (-21))
    | .cos => (0, if beyond (fxVal fxPi 0) then FV.add false (.num false 1 (-21)) (x.abs.scale (-23)) else .num false 1 (-21))
    | .tanh => (0, .num false 1 (-21))
    | .sigm => (0, .num false 1 (-21))
    | .erf => (0, .num false 1 (-21))
    | .gelu => (2, .num false 1 (-20))
    | .silu => (2, .num false 1 (-20))
  else if fm = f32 then
    match f with
    | .tanh => (2, none)
    | .sigm => (2, none)
    | .erf => (2, none)
    | .gelu => (2, none)
    | .silu => (2, none)
    | _ => (1, none)
  else
    match f with
    | .sin => if beyond (.num false 1 15) then (0, .num false 1 (-10)) else (1, none)
    | .cos => if beyond (.num false 1 15) then (0, .num false 1 (-10)) else (1, none)
    | _ => (1, none)

/-- Whether the bound fixes the result: the correctly rounded functions, EXP2 where the result is representable and LOG2 at
powers of two in F32 and F64 (R204, R205). -/
def Sfu.exact (f : Sfu) (fm : Fmt) (acc : Bool) (x : FV) : Bool :=
  acc && (match f with
    | .rcp => true
    | .sqrt => true
    | .fdiv => true
    | .exp2 => (fm == f32 || fm == f64) && FV.eq (FV.integral .rtz x) x && FV.eq (fm.decode (fm.round .rne (f.real x x))) (f.real x x)
    | .log2 => (fm == f32 || fm == f64) && (match x with | .num _ m _ => decide (m = 2 ^ (bitLen m - 1)) | _ => false)
    | _ => false)

/-- A result's bits as a value; an infinity stands for the power of two past the largest value. -/
def Fmt.edge (fm : Fmt) (v : Nat) : FV :=
  match fm.decode v with
  | .inf s => .num s 1 (fm.bias + 1)
  | r => r

/-- Whether bits lie within a bound of a value y. -/
def within (fm : Fmt) (b : Nat × FV) (y : FV) (v : Nat) : Bool :=
  match y, fm.edge v with
  | .num s m e, .num t n k =>
    let d := FV.add false (.num s m e) (.num (!t) n k)
    !FV.lt (FV.add false (.num false b.1 (fm.quantum m e)) b.2) d.abs
  | _, _ => false

/-- A result of EXP2 or LOG2 in the accurate grade, as monotonic in x as the real function is (R205). The implementation gives each
encoding a source from which on the result reaches it. The result is the value next to the exact one on the side of zero, the one beyond
it once that is reached, or the one short of it while the value itself is not reached; each only within the bound. -/
def Sfu.monotone (f : Sfu) (fm : Fmt) (fz fr : Bool) (fc : Nat) (x r : FV) : Nat :=
  let lo := fm.round .rtz r
  let ok (c : Nat) : Bool := within fm (f.bound fm true x) r c
  let reached (c : Nat) : Bool :=
    let t := fm.decode ((Config.sfuStep f.num fc fz fr (BitVec.ofNat 64 c)).toNat % 2 ^ fm.w)
    if r.negative then !FV.lt t x else !FV.lt x t
  if !ok lo then fm.round .rne r
  else if lo % 2 ^ (fm.w - 1) ≠ 0 ∧ ok (lo - 1) ∧ !reached lo then lo - 1
  else if ok (lo + 1) ∧ reached (lo + 1) then lo + 1
  else lo

/-- Whether the accurate grade keeps the function monotonic with a choice of bits (R205). -/
def Sfu.ordered (f : Sfu) (acc : Bool) : Bool := acc && (f = .exp2 || f = .log2)

/-- One element of an SFU result before the result flush: special, fixed by its bound, or some bits within the bound that the
manual leaves to the implementation (R204). -/
def Sfu.elem (f : Sfu) (fm : Fmt) (acc fz fr : Bool) (fc a b : Nat) : Nat :=
  let x := fm.src fz a
  let y := fm.src fz b
  match (if f = .fdiv then divSpecial x y else f.special x) with
  | some v => fm.round .rne v
  | none =>
    match (if f = .fdiv ∧ !acc ∧ (fm = f32 ∨ fm = bf16) then fastDiv x y else none) with
    | some v => fm.round .rne v
    | none =>
      let r := f.real x y
      if f.exact fm acc x then fm.round .rne r
      else if f.ordered acc then f.monotone fm fz fr fc x r
      else
        let c := (Config.sfuBits f.num acc fc fz fr (BitVec.ofNat 64 a) (BitVec.ofNat 64 b)).toNat % 2 ^ fm.w
        if within fm (f.bound fm acc x) r c then c else fm.round .rne r

/-- One element with the flushes of its grade (R203, R146). -/
def Sfu.result (f : Sfu) (w : BitVec 2) (k acc : Bool) (fpm a b : Nat) : Nat :=
  let fm := fmtOf w k
  let fz := !acc || fzs fpm
  let fr := !acc || fzr fpm
  fm.flushBits fr (f.elem fm acc fz fr (w.toNat + if k then 4 else 0) a b)

/-- A variable-latency result for a thread-register field: register or outbound stream (R99, R105). -/
def pendField (i : Iss) (kind : PendKind) (d lane : Nat) (v : Word) (s : State) : State :=
  if 60 ≤ d then
    let q := d - 60
    let st : Stream := SMap.get {} (s.team i.t).streams q
    let n := ((s.grp i.t i.g).port lane q).pushed
    if st.count ≤ n then s
    else (s.updGrp i.t i.g fun g => g.updPort lane q fun p => { p with push := p.push ++ [none], pushed := p.pushed + 1 }).pend i
      { id := 0, seq := 0, kind := kind, lane := lane, file := .port, reg := q, val := v, addr := n }
  else s.pend i { id := 0, seq := 0, kind := kind, lane := lane, file := .x, reg := d, val := v }

/-- An SFU instruction: each element's function, a variable-latency result (R206). -/
def toSfu (o : Op) (f : Sfu) (d : Nat) (w : BitVec 2) (k acc : Bool) : State → Host.Outcome State Fault Refusal :=
  issue o fun i s => .done (overLanes i.lanes (fun l s =>
    pendField i .sf d l (ofEls (ewOf w) fun e =>
      f.result w k acc i.fpm (el (i.v 0 l) (ewOf w) e) (el (i.v 1 l) (ewOf w) e)) s) s)

/-- RCP (R204). 1 ÷ x. -/
def execRcp (sm : Bool) (d a : BitVec 6) (w : BitVec 2) (f g : Bool) : State → Host.Outcome State Fault Refusal :=
  toSfu (opOf (.rcp sm d a w f g)) .rcp d.toNat w f g

/-- RSQ (R204). 1 ÷ √x. -/
def execRsq (sm : Bool) (d a : BitVec 6) (w : BitVec 2) (f g : Bool) : State → Host.Outcome State Fault Refusal :=
  toSfu (opOf (.rsq sm d a w f g)) .rsq d.toNat w f g

/-- SQRT (R204). √x. -/
def execSqrt (sm : Bool) (d a : BitVec 6) (w : BitVec 2) (f g : Bool) : State → Host.Outcome State Fault Refusal :=
  toSfu (opOf (.sqrt sm d a w f g)) .sqrt d.toNat w f g

/-- EXP2 (R204). 2^x. -/
def execExp2 (sm : Bool) (d a : BitVec 6) (w : BitVec 2) (f g : Bool) : State → Host.Outcome State Fault Refusal :=
  toSfu (opOf (.exp2 sm d a w f g)) .exp2 d.toNat w f g

/-- LOG2 (R204). log2 x. -/
def execLog2 (sm : Bool) (d a : BitVec 6) (w : BitVec 2) (f g : Bool) : State → Host.Outcome State Fault Refusal :=
  toSfu (opOf (.log2 sm d a w f g)) .log2 d.toNat w f g

/-- SIN (R204). sin x. -/
def execSin (sm : Bool) (d a : BitVec 6) (w : BitVec 2) (f g : Bool) : State → Host.Outcome State Fault Refusal :=
  toSfu (opOf (.sin sm d a w f g)) .sin d.toNat w f g

/-- COS (R204). cos x. -/
def execCos (sm : Bool) (d a : BitVec 6) (w : BitVec 2) (f g : Bool) : State → Host.Outcome State Fault Refusal :=
  toSfu (opOf (.cos sm d a w f g)) .cos d.toNat w f g

/-- TANH (R204). tanh x. -/
def execTanh (sm : Bool) (d a : BitVec 6) (w : BitVec 2) (f g : Bool) : State → Host.Outcome State Fault Refusal :=
  toSfu (opOf (.tanh sm d a w f g)) .tanh d.toNat w f g

/-- SIGM (R204). 1 ÷ (1 + e^−x). -/
def execSigm (sm : Bool) (d a : BitVec 6) (w : BitVec 2) (f g : Bool) : State → Host.Outcome State Fault Refusal :=
  toSfu (opOf (.sigm sm d a w f g)) .sigm d.toNat w f g

/-- ERF (R204). erf x. -/
def execErf (sm : Bool) (d a : BitVec 6) (w : BitVec 2) (f g : Bool) : State → Host.Outcome State Fault Refusal :=
  toSfu (opOf (.erf sm d a w f g)) .erf d.toNat w f g

/-- GELU (R204). x · (1 + erf(x ÷ √2)) ÷ 2. -/
def execGelu (sm : Bool) (d a : BitVec 6) (w : BitVec 2) (f g : Bool) : State → Host.Outcome State Fault Refusal :=
  toSfu (opOf (.gelu sm d a w f g)) .gelu d.toNat w f g

/-- SILU (R204). x ÷ (1 + e^−x). -/
def execSilu (sm : Bool) (d a : BitVec 6) (w : BitVec 2) (f g : Bool) : State → Host.Outcome State Fault Refusal :=
  toSfu (opOf (.silu sm d a w f g)) .silu d.toNat w f g

/-- FDIV (R204). x ÷ y. -/
def execFdiv (sm : Bool) (d a b : BitVec 6) (u : Bool) (w : BitVec 2) (f g : Bool) : State → Host.Outcome State Fault Refusal :=
  toSfu (opOf (.fdiv sm d a b u w f g)) .fdiv d.toNat w f g

end Sys2Proof.Machine
end

