-- ==== Sys2Proof/Machine/MemoryOps.lean ====
section
/-! DEFINITION. Memory instructions (R208–R227, R200–R202): loads, stores and atomics of the three spaces, fences, cache maintenance,
publication, and the store that quantises. -/

namespace Sys2Proof.Machine

open Sys2Proof

/-! ## Lanes' accesses -/

/-- Who makes a lane's access. -/
def Iss.who (i : Iss) (l : Nat) : Who := { t := i.t, g := i.g, lane := l, core := i.core }

/-- The regime of an issue's accesses. -/
def Iss.rg (i : Iss) : Regime := { unit := unitOf i.core, fn := i.fn, harbour := i.harbour, who := 64 * i.t + i.g + 1 }

/-- The effective address of format M (R107, R208). -/
def eaM (base : Word) (off : BitVec 9) (n : Nat) : Nat := (base + off.signExtend 64 * BitVec.ofNat 64 n).toNat % 2 ^ 48

/-- Whether the core's own copy serves a lane's access, so that no request leaves: a load's copy; for a store that of a CP line (R360). -/
def State.servedBy (s : State) (core lane : Nat) (load : Bool) (x : Xl) : Bool :=
  (load || (decide (x.kind = 0) && decide (x.coh = 2))) && (s.l1Serves core lane x).isSome

/-- Whether a thread's drain to HC memory or to its window is still to be performed, which later events of the thread in the order of R73
follow (R278). -/
def State.drainFirst (s : State) (w : Who) : Bool :=
  ((s.pairOf w.core).queue.any fun e => e.hc && e.team = w.t && e.grp = w.g && e.lanes.getLsbD w.lane) ||
  (s.stores.any fun f => !f.performed && f.team = w.t && f.grp = w.g && match f.drain with
    | some u => !u.sw && u.lanes.getLsbD w.lane
    | none => false)

/-- Whether a thread's drain still has to write an SW line (R77, R278). -/
def State.drainTo (s : State) (w : Who) (line : Nat) : Bool :=
  ((s.pairOf w.core).queue.any fun e => e.team = w.t && e.grp = w.g && e.lanes.getLsbD w.lane && match e.op with
    | .drain _ _ _ _ _ _ _ _ ls => ls.any fun l => l.coh = 1 && l.key / 128 = line
    | _ => false) ||
  (s.stores.any fun f => !f.performed && f.team = w.t && f.grp = w.g && f.key / 128 = line && match f.drain with
    | some u => u.sw && u.lanes.getLsbD w.lane
    | none => false)

/-- Whether an access of a thread must let a drain of its own go first: program order in HC memory (R73), and at one SW line (R77). -/
def State.drainDue (s : State) (w : Who) (x : Xl) : Bool :=
  x.kind = 0 && ((x.coh = 0 && s.drainFirst w) || (x.coh = 1 && s.drainTo w (x.key / 128)))

/-- Translate and check the access of every lane of a list: the first trap of R412, else the demand faults (R208, R235). -/
def State.checkLanes (s : State) (i : Iss) (acc : Acc) (bar : Xl → Bool) (lanes : List Nat) (ea : Nat → Nat) :
    Except Res (List (Nat × Xl)) :=
  let rs := lanes.map fun l => (l, s.check i.rg i.core acc (i.txl.getLsbD l) (ea l) bar keepAct (s.servedBy i.core l (acc = .load)))
  let es := rs.filterMap fun r => match r.2 with | .error e => some e | .ok _ => none
  match firstTrap es with
  | some (c, notes) => .error (.trap c false (fun l => BitVec.ofNat 64 (ea l)) notes)
  | none =>
    if !es.isEmpty then .error (.fault es)
    else
      let xs := rs.filterMap fun r => match r.2 with | .ok x => some (r.1, x) | .error _ => none
      if xs.any fun x => s.drainDue (i.who x.1) x.2 then .error (.hold id) else .ok xs

/-- A lane's access is charged, and may reach its channel, unless the core's own copy serves it (R318, R360). -/
def State.chargeAccess (s : State) (t : Nat) (rg : Regime) (core lane : Nat) (load : Bool) (x : Xl) : State :=
  if s.servedBy core lane load x then s
  else (s.charge rg x 64).toChannel rg.fn (s.team t).scls (s.team t).dloff rg.unit x

/-- Results on their way from another package or the host bear it, with the time of issue (R446, R448). A load is performed at once or, as
the free value says, when it returns (R82): it then keeps its address, its bytes and its extension `src`. -/
def State.markRemote (s : State) (i : Iss) (l : Nat) (x : Xl) (src : Option (Nat × Bool) := none) : State :=
  if x.kind = 0 then s
  else
    let again := if (s.free (2 ^ 22 + l)).getLsbD 0 then src.map fun e => (x.key, e.1, e.2) else none
    s.updGrp i.t i.g fun g => { g with out := g.out.map fun (p : Pend) =>
      if p.lane = l ∧ p.seq = s.clk.seq then { p with remote := if x.kind = 2 then 1 else 2, since := s.clk.time, src := again } else p }

/-- The result of an atomic that is on its way to another package does not exist yet (R82). -/
def State.awaitRmw (s : State) (i : Iss) (l : Nat) : State :=
  if s.stores.any fun f => f.rmw.isSome && !f.performed && f.team = i.t && f.grp = i.g && f.lane = l && f.seq = s.clk.seq then
    s.updGrp i.t i.g fun g => { g with out := g.out.map fun (p : Pend) => if p.lane = l ∧ p.seq = s.clk.seq then { p with ready := false } else p }
  else s

/-- Lanes act in ascending order; a lane whose transaction has aborted meanwhile does nothing. -/
def eachLane (i : Iss) (load : Bool) (xs : List (Nat × Xl)) (ea : Nat → Nat) (f : Nat → Xl → State → State) (s : State) : State :=
  xs.foldl (fun s e =>
    if i.txl.getLsbD e.1 && (s.grp i.t i.g).tx.isNone then s
    else f e.1 e.2 (((s.keep i.rg (ea e.1) e.2).claimCp i.t i.core e.2).chargeAccess i.t i.rg i.core e.1 load e.2)) s

/-- Whether a lane's address is not a multiple of the access size. -/
def misaligned (lanes : List Nat) (n : Nat) (ea : Nat → Nat) : Bool := lanes.any fun l => ea l % n != 0

/-- A variable-latency result for which given lanes wait (R99). -/
def State.pendFor (s : State) (lanes : LaneMask) (i : Iss) (p : Pend) : State :=
  let (id, s) := s.newId
  s.updGrp i.t i.g fun g => { g with out := g.out ++ [{ p with id := id, seq := s.clk.seq, lanes := lanes }] }

/-- A value returned by memory is on its way to a register (R210). -/
def State.returned (s : State) (i : Iss) (lanes : LaneMask) (f : RegFile) (lane reg addr : Nat) (v : Word) (bad : Bool) : State :=
  s.pendFor lanes i { id := 0, seq := 0, kind := .ld, lane := lane, file := f, reg := reg, val := v, poison := bad, addr := addr, mem := true }

/-- Bytes of an access (R209). -/
def szOf (z : BitVec 3) : Nat := 2 ^ (z.toNat % 4)

/-- The extension of a loaded value (R210). -/
def extOf (z : BitVec 3) (v : Nat) : Word := BitVec.ofInt 64 (val (decide (4 ≤ z.toNat)) (8 * szOf z) v)

/-- Loads of `n` bytes by lanes, each into a register of its own lane. -/
def loadLanes (i : Iss) (lanes : List Nat) (n : Nat) (sg : Bool) (ea : Nat → Nat) (put : Nat → Nat × Bool → State → State) (s : State) : Res :=
  if misaligned lanes n ea then .trap 0x04 false fun l => BitVec.ofNat 64 (ea l)
  else match s.checkLanes i .load (fun _ => false) lanes ea with
    | .error r => r
    | .ok xs => .done (eachLane i true xs ea (fun l x s =>
        match s.loadLane (i.who l) x n with
        | (some r, s) => (put l r s).markRemote i l x (some (n, sg))
        | (none, s) => s) s)

/-- An access of the lowest lane alone: its traps are recorded in that lane (R213). -/
def Res.inLane (l : Nat) : Res → Res
  | .trap c sp a notes => .trapIn (laneBit l) c sp a notes
  | r => r

/-- Stores of `n` bytes by lanes, aligned to `al`; `pre` happens once every translation has succeeded. -/
def storeLanes (i : Iss) (lanes : List Nat) (al n : Nat) (ea : Nat → Nat) (v : Nat → Nat) (pre : State → State) (s : State) : Res :=
  if misaligned lanes al ea then .trap 0x04 false fun l => BitVec.ofNat 64 (ea l)
  else match s.checkLanes i .store (fun _ => false) lanes ea with
    | .error r => r
    | .ok xs => .done (eachLane i false xs ea (fun l x s => s.storeLane (i.who l) x n (v l % 2 ^ (8 * n))) (pre s))

/-! ## The scratchpad -/

/-- A touch of absent lines parks the group in PARKED until they are present (R69). -/
def Group.needLines (g : Group) (cycle : Nat) (ls : List Nat) : Group :=
  let g := g.leave .parked cycle
  { g with pace := { g.pace with needs := ls } }

/-- What keeps lanes' scratchpad accesses from being performed now: a region whose fill cannot start, one that must be filled
first, or an absent line (R69, R72, R212). -/
def spGate (i : Iss) (n : Nat) (off : Nat → Nat) (s : State) : Option Res :=
  let tm := s.team i.t
  let lanes := (lanesOf i.lanes).filter fun l => tm.inRange (off l) n
  let ts := lanes.map fun l => s.touch i.t (off l / 128)
  let es := ts.filterMap fun t => match t with | .fault e => some e | _ => none
  let va (l : Nat) : Nat := match tm.rgnAt (off l / 128) with
    | some k => tm.rgnVa k (off l / 128 - tm.rgnOff k) + off l % 128
    | none => off l
  match firstTrap es with
  | some (c, notes) => some (.trap c false (fun l => BitVec.ofNat 64 (va l)) notes)
  | none =>
    if !es.isEmpty then some (.fault es)
    else
      let fills := (ts.filterMap fun t => match t with | .fill k => some k | _ => none).eraseDups
      if !fills.isEmpty then some (.hold fun s => s.updTeam i.t fun tm => fills.foldl (fun tm k => tm.startFill k) tm)
      else if (lanesOf i.lanes).any fun l => s.drainFirst (i.who l) then some (.hold id)
      else if ts.contains .absent then some (.hold fun s => s.updGrp i.t i.g fun g => g.needLines s.clk.cycle (lanes.map fun l => off l / 128))
      else none

/-- Marks an address that is a scratchpad offset, or an accumulator bank, in a poisoned return. -/
def spAddr (off : Nat) : Nat := 2 ^ 50 + off

/-- Scratchpad accesses by lanes, in ascending order. -/
def spLanes (i : Iss) (n : Nat) (off : Nat → Nat) (f : Nat → State → State) (s : State) : Res :=
  if misaligned (lanesOf i.lanes) n off then .trap 0x04 true fun l => BitVec.ofNat 64 (off l)
  else match spGate i n off s with
    | some r => r
    | none => .done ((lanesOf i.lanes).foldl (fun s l => f l s) s)

/-- One LDS of a lane: 0 out of range (R212). -/
def ldsLane (i : Iss) (n : Nat) (off : Nat → Nat) (reg : Nat) (ext : Nat → Word) (l : Nat) (s : State) : State :=
  let tm := s.team i.t
  if tm.inRange (off l) n then
    s.returned i i.lanes .x l reg (spAddr (off l)) (ext (tm.spRead (off l) n)) (tm.line (off l / 128)).poison
  else (s.updTeam i.t fun tm => tm.spErr false (off l)).returned i i.lanes .x l reg 0 0 false

/-- One STS of a lane: dropped out of range (R212). -/
def stsLane (i : Iss) (n : Nat) (off : Nat → Nat) (v : Nat → Nat) (l : Nat) (s : State) : State :=
  s.updTeam i.t fun tm => if tm.inRange (off l) n then tm.spWrite (off l) n (v l) (s.stampNow tm.dloff) else tm.spErr true (off l)

/-- One SAMO of a lane: reads and writes as one event; out of range it gives 0 (R220). Poison is not written over (R430). -/
def samoLane (i : Iss) (n : Nat) (off : Nat → Nat) (reg : Nat) (op : Nat → Nat → Option Nat) (l : Nat) (s : State) : State :=
  let tm := s.team i.t
  if tm.inRange (off l) n then
    let m := tm.spRead (off l) n
    let bad := (tm.line (off l / 128)).poison
    let s := match (if bad then none else op l m) with
      | some v => s.updTeam i.t fun tm => tm.spWrite (off l) n v (s.stampNow tm.dloff)
      | none => s
    s.returned i i.lanes .x l reg (spAddr (off l)) (BitVec.ofNat 64 m) bad
  else (s.updTeam i.t fun tm => tm.spErr true (off l)).returned i i.lanes .x l reg 0 0 false

/-! ## Fences (R78, R222) -/

/-- Whether a push that the lane made, held by a transaction until its commit, is not yet accepted by its queue (R222, R464). -/
def State.pushDue (s : State) (w : Who) : Bool :=
  s.sched.chains.any fun c => c.deeds.any fun d => match d with
    | .held t g (.push _ _ wl flags _ _ _) => t = w.t && g = w.g && (wl = w.lane || flags.getLsbD w.lane)
    | _ => false

/-- Whether a thread's FENCE.REL at a scope (0 .T, 1 .P, 2 .X) is still held. -/
def State.relWaits (s : State) (w : Who) (scope : Nat) : Bool :=
  let th := (s.grp w.t w.g).th w.lane
  decide (1 ≤ scope) &&
  ((s.stores.any fun f => !f.remote && f.of w.t w.g w.lane && !(f.drain.getD {}).sp && (th.tsm &&& tsmBit (f.key / 128)) != 0) ||
   ((s.pairOf w.core).queue.any fun e => e.sw && e.team = w.t && e.grp = w.g && e.lanes.getLsbD w.lane) ||
   ((s.team w.t).regions.any fun k => s.rgnParks w.t k || (!(s.grp w.t w.g).pace.holding && (s.team w.t).rgnHas k)) ||
   (s.stores.any fun f => f.team = w.t && f.lane = 32) || s.pushDue w ||
   (decide (2 ≤ scope) && th.osat != 0))

/-- The map unit makes the write-backs for which a FENCE.REL is held, or asks for the pages that they wait for (R72, R78). -/
def State.rgnPush (s : State) (t : Nat) : State :=
  let ks := (s.team t).regions
  if ks.any fun k => s.rgnParks t k then s.rgnAsk t ks else ks.foldl (fun s k => s.rgnWriteBack t k) s

/-- What FENCE.REL does when it completes: region write-backs, SY.TSM cleared. -/
def State.release (s : State) (t g : Nat) (lanes : LaneMask) (scope : Nat) : State :=
  if scope = 0 then s
  else
    let s := (s.team t).regions.foldl (fun s k => s.rgnWriteBack t k) s
    s.updGrp t g fun gr => gr.mapTh lanes fun th => { th with tsm := 0 }

/-- Whether a value that the thread's accesses return from memory is still on its way (R78). -/
def Group.acqWaits (g : Group) (l : Nat) : Bool := g.out.any fun p => p.mem && p.lane = l

/-- What FENCE.ACQ does when it completes: SW lines leave the core's L1, at .X the lines of other packages too. -/
def State.acquire (s : State) (core scope : Nat) : State :=
  if scope = 0 then s
  else { s with cache := { s.cache with
    l1 := s.cache.l1.filter fun e => !(e.core = core && (e.kind = 1 || (decide (2 ≤ scope) && e.kind = 3))) } }

/-- A FENCE of either kind or both. -/
def fence (o : Op) (rel acq : Bool) (scope : Nat) : State → Host.Outcome State Fault Refusal :=
  issue o fun i s =>
    let g := s.grp i.t i.g
    if (lanesOf i.lanes).any fun l => (rel && s.relWaits (i.who l) scope) || (acq && g.acqWaits l) then
      .hold fun s => if rel && decide (1 ≤ scope) then s.rgnPush i.t else s
    else
      let s := if rel then s.release i.t i.g i.lanes scope else s
      .done (if acq then s.acquire i.core scope else s)

/-! ## Atomics (R214–R219) -/

/-- ACQ of an atomic: its lanes go no further until the FENCE.ACQ that follows it is over (R85, R218). -/
def State.awaitAcq (s : State) (i : Iss) (scope : Nat) : State :=
  s.updGrp i.t i.g fun g => g.mapTh i.lanes fun th => { th with acq := some scope }

/-- Atomics by lanes in ascending order, with the fences of ORD (R216–R218). `host`: the operation exists as a PCIe AtomicOp
(R341). -/
def atomicLanes (i : Iss) (ord : BitVec 2) (n : Nat) (red host : Bool) (op : Nat → Rmw)
    (put : Nat → Nat × Bool → State → State) (s : State) : Res :=
  let lanes := lanesOf i.lanes
  let ea (l : Nat) : Nat := (i.v 0 l).toNat % 2 ^ 48
  if misaligned lanes n ea then .trap 0x04 false fun l => BitVec.ofNat 64 (ea l)
  else match s.checkLanes i .rw (fun x => x.kind = 1 && !host) lanes ea with
    | .error r => r
    | .ok xs =>
      let scope := if xs.any fun x => x.2.kind != 0 then 2 else 1
      if ord.getLsbD 1 && xs.any fun x => s.relWaits (i.who x.1) (if x.2.kind = 0 then 1 else 2) then
        .hold fun s => s.rgnPush i.t
      else
        let s := if ord.getLsbD 1 then s.release i.t i.g i.lanes scope else s
        let s := eachLane i false xs ea (fun l x s =>
          match s.atomicLane (i.who l) x n red (op l) with
          | (some r, s) => ((put l r s).awaitRmw i l).markRemote i l x
          | (none, s) => s) s
        .done (if ord.getLsbD 0 then s.awaitAcq i scope else s)

/-- Bytes of an atomic (R214). -/
def dwOf (w : Bool) : Nat := if w then 8 else 4

/-! ## Cache maintenance (R223–R226) -/

/-- Virtual addresses of `n` lines from the one that holds an address. -/
def lineVas (ea n : Nat) : List Nat := (List.range n).map fun j => (ea / 128 * 128 + 128 * j) % 2 ^ 48

/-- The pages that cache maintenance acts on: those that translate and can be read. -/
def State.plainXl (s : State) (i : Iss) (va : Nat) : Option Xl :=
  match s.checkBack i.rg i.core .load false va with
  | .ok x => some x
  | .error _ => none

/-- The lines of an issue: lane and translation, in ascending lane and address. -/
def State.maintLines (s : State) (i : Iss) (o : BitVec 9) (n : Nat) : List (Nat × Xl) :=
  (lanesOf i.lanes).flatMap fun l => (lineVas (eaM (i.v 0 l) o 8) n).filterMap fun va => (s.plainXl i va).map fun x => (l, x)

/-- WBACK of one line. -/
def State.wbackLine (s : State) (w : Who) (x : Xl) : State :=
  match s.l1 w.core (x.key / 128) with
  | some c =>
    if c.dirty then
      let u := s.l1Clean w.core c.line
      (u.updGrp w.t w.g fun g => g.updTh w.lane fun th => { th with tsm := th.tsm ||| tsmBit c.line }).inFlight w
        { key := c.line * 128, size := 8, val := BitVec.ofNat 64 (memRead c.data 0 8), deltas := s.sentSince u }
    else s
  | none => s

/-- Whether a lane's earlier stores to a line are still on their way. -/
def State.storesTo (s : State) (w : Who) (line : Nat) : Bool :=
  s.stores.any fun f => f.team = w.t && f.grp = w.g && f.lane = w.lane && f.key / 128 = line

/-- Whether a line is pinned by a TILE.FETCH of the core's pair (R269, R270). -/
def State.tilePinned (s : State) (core line : Nat) : Bool :=
  (s.pairOf core).recs.any fun e => match e.2 with
    | some r => r.binds.any fun b => b.st = 2 && b.lines.contains line
    | none => false

/-- INVAL of one line; pinned pages and lines pinned by TILE.FETCH keep it. -/
def State.invalLine (s : State) (core line : Nat) : State :=
  if s.tilePinned core line then s
  else { s with cache := { s.cache with l1 := s.cache.l1.filter fun e => !(e.core = core && e.line = line && e.kind != 4) } }

/-- PREF into L1: an SW or remote line may be held there. -/
def State.prefLine (s : State) (core : Nat) (x : Xl) : State :=
  let line := x.key / 128
  if hasL1 core ∧ x.home ≠ 3 ∧ (x.kind ≠ 0 ∨ x.coh = 1) ∧ (s.l1 core line).isNone then
    s.l1Put { core := core, line := line, kind := if x.kind = 0 then 1 else 3, poison := s.isPoison (line * 128) 128, data := s.lineData line }
  else s

/-! ## Publish (R83, R227) -/

/-- The event of PUBL on a descriptor: the active index inverted, the generation count one up (R339). -/
def State.publish (s : State) (key : Nat) : State :=
  let d := s.rd key 8
  let act := 1 - d / 2 ^ 63
  let gen := (d / 2 ^ 48 % 2 ^ 15 + 1) % 2 ^ 15
  s.perform none key 8 (act * 2 ^ 63 + gen * 2 ^ 48 + d % 2 ^ 48)

/-- LD (R210). Each lane loads 2^SZ bytes into x[T]. -/
def execLd (sm : Bool) (t a : BitVec 6) (o : BitVec 9) (z : BitVec 3) : State → Host.Outcome State Fault Refusal :=
  issue (opOf (.ld sm t a o z)) (fun i s => loadLanes i (lanesOf i.lanes) (szOf z) (decide (4 ≤ z.toNat)) (fun l => eaM (i.v 0 l) o (szOf z))
    (fun l r s => s.returned i i.lanes .x l t.toNat (eaM (i.v 0 l) o (szOf z)) (extOf z r.1) r.2) s)

/-- ST (R210). Each lane stores the low 2^SZ bytes of x[T]. -/
def execSt (sm : Bool) (t a : BitVec 6) (o : BitVec 9) (z : BitVec 2) : State → Host.Outcome State Fault Refusal :=
  issue (opOf (.st sm t a o z)) (fun i s => storeLanes i (lanesOf i.lanes) (2 ^ z.toNat) (2 ^ z.toNat) (fun l => eaM (i.v 0 l) o (2 ^ z.toNat))
    (fun l => (i.v 1 l).toNat) id s)

/-- LDS (R212). Each lane loads from the window. -/
def execLds (sm : Bool) (t a : BitVec 6) (o : BitVec 9) (z : BitVec 3) : State → Host.Outcome State Fault Refusal :=
  issue (opOf (.lds sm t a o z)) (fun i s =>
    let off (l : Nat) : Nat := eaM (i.v 0 l) o (szOf z)
    spLanes i (szOf z) off (ldsLane i (szOf z) off t.toNat (extOf z)) s)

/-- STS (R212). Each lane stores to the window. -/
def execSts (sm : Bool) (t a : BitVec 6) (o : BitVec 9) (z : BitVec 2) : State → Host.Outcome State Fault Refusal :=
  issue (opOf (.sts sm t a o z)) (fun i s =>
    let off (l : Nat) : Nat := eaM (i.v 0 l) o (2 ^ z.toNat)
    spLanes i (2 ^ z.toNat) off (stsLane i (2 ^ z.toNat) off fun l => (i.v 1 l).toNat) s)

/-- LDU (R213). One access as of the lowest lane, into w[T]. -/
def execLdu (sm : Bool) (t a : BitVec 5) (o : BitVec 9) (z : BitVec 3) : State → Host.Outcome State Fault Refusal :=
  issue (opOf (.ldu sm t a o z)) (fun i s =>
    let ea := eaM (i.v 0 i.low) o (szOf z)
    (loadLanes i [i.low] (szOf z) (decide (4 ≤ z.toNat)) (fun _ => ea)
      (fun l r s => s.returned i 0xFFFFFFFF .w l t.toNat ea (extOf z r.1) r.2) s).inLane i.low)

/-- STU (R213). One store as of the lowest lane. -/
def execStu (sm : Bool) (t a : BitVec 5) (o : BitVec 9) (z : BitVec 2) : State → Host.Outcome State Fault Refusal :=
  issue (opOf (.stu sm t a o z)) (fun i s =>
    (storeLanes i [i.low] (2 ^ z.toNat) (2 ^ z.toNat) (fun _ => eaM (i.v 0 i.low) o (2 ^ z.toNat))
      (fun _ => (i.v 1 i.low).toNat) id s).inLane i.low)

/-- AMO (R216). Each lane reads and writes memory as one event; the old value goes to x[D]. -/
def execAmo (sm : Bool) (d a b : BitVec 6) (o : BitVec 2) (w : Bool) (p : BitVec 3) : State → Host.Outcome State Fault Refusal :=
  issue (opOf (.amo sm d a b o w p)) (fun i s =>
    atomicLanes i o (dwOf w) false (p = 0 || p = 6) (fun l => { p := p, n := dwOf w, b := (i.v 1 l).toNat })
      (fun l r s => s.returned i i.lanes .x l d.toNat ((i.v 0 l).toNat % 2 ^ 48) (BitVec.ofNat 64 r.1) r.2) s)

/-- CAS (R217). Each lane stores b where memory equals x[D]; the old value goes to x[D]. -/
def execCas (sm : Bool) (d a b : BitVec 6) (o : BitVec 2) (w : Bool) : State → Host.Outcome State Fault Refusal :=
  issue (opOf (.cas sm d a b o w)) (fun i s =>
    atomicLanes i o (dwOf w) false true
      (fun l => { cas := true, n := dwOf w, b := (i.v 1 l).toNat, cmp := (i.v 2 l).toNat })
      (fun l r s => s.returned i i.lanes .x l d.toNat ((i.v 0 l).toNat % 2 ^ 48) (BitVec.ofNat 64 r.1) r.2) s)

/-- RED (R216). Each lane reads and writes memory as one event and returns nothing. -/
def execRed (sm : Bool) (a b : BitVec 6) (o : BitVec 2) (w : Bool) (p : BitVec 3) : State → Host.Outcome State Fault Refusal :=
  issue (opOf (.red sm a b o w p)) (fun i s =>
    atomicLanes i o (dwOf w) true false (fun l => { p := p, n := dwOf w, b := (i.v 1 l).toNat }) (fun _ _ s => s) s)

/-- FENCE_REL (R222). Held until earlier stores are acknowledged at the scope. -/
def execFenceRel (sm : Bool) (c : BitVec 2) : State → Host.Outcome State Fault Refusal :=
  fence (opOf (.fenceRel sm c)) true false c.toNat

/-- FENCE_ACQ (R222). Held until earlier loads have returned, then SW lines leave L1. -/
def execFenceAcq (sm : Bool) (c : BitVec 2) : State → Host.Outcome State Fault Refusal :=
  fence (opOf (.fenceAcq sm c)) false true c.toNat

/-- FENCE_AR (R222). Both fences at one scope. -/
def execFenceAr (sm : Bool) (c : BitVec 2) : State → Host.Outcome State Fault Refusal :=
  fence (opOf (.fenceAr sm c)) true true c.toNat

/-- PREF (R224). A line is requested into a level; no value changes. -/
def execPref (sm l : Bool) (a : BitVec 6) (o : BitVec 9) : State → Host.Outcome State Fault Refusal :=
  issue (opOf (.pref sm l a o)) (fun i s =>
    .done (if l then s else (s.maintLines i o 1).foldl (fun s e => s.prefLine i.core e.2) s))

/-- WBACK (R225). Modified lines of the core are written back. -/
def execWback (sm : Bool) (n a : BitVec 6) (o : BitVec 9) : State → Host.Outcome State Fault Refusal :=
  issue (opOf (.wback sm n a o)) (fun i s =>
    let ls := s.maintLines i o (n.toNat + 1)
    if ls.any fun e => s.storesTo (i.who e.1) (e.2.key / 128) then .hold id
    else .done (ls.foldl (fun s e => s.wbackLine (i.who e.1) e.2) s))

/-- INVAL (R226). Copies of the lines leave the core’s L1. -/
def execInval (sm : Bool) (n a : BitVec 6) (o : BitVec 9) : State → Host.Outcome State Fault Refusal :=
  issue (opOf (.inval sm n a o)) (fun i s =>
    .done ((s.maintLines i o (n.toNat + 1)).foldl (fun s e => s.invalLine i.core (e.2.key / 128)) s))

/-- PUBL (R227). A twin descriptor’s active index is inverted; inside a transaction at its commit. -/
def execPubl (sm : Bool) (a : BitVec 5) : State → Host.Outcome State Fault Refusal :=
  issue (opOf (.publ sm a)) (fun i s =>
    let va := (i.v 0 i.low).toNat % 2 ^ 48
    if va % 16 ≠ 0 then .trap 0x04 false fun _ => BitVec.ofNat 64 va
    else match s.checkLanes i .store (fun x => x.kind != 0 || x.coh != 0) [i.low] (fun _ => va) with
      | .error r => r
      | .ok xs =>
        if xs.any fun x => s.isPoison x.2.key 16 then .trap 0x08 false fun _ => BitVec.ofNat 64 va
        else .done (eachLane i false xs (fun _ => va) (fun l x s =>
          match (s.grp i.t i.g).txOf l with
          | some tx =>
            match tx.addWrite (x.key / 128) with
            | none => s.txCapacity (i.who l)
            | some tx => s.putTx (i.who l) (tx.updData fun d => { d with publs := d.publs ++ [x.key] })
          | none => s.publish x.key) s))

/-- SAMO (R220). Each lane reads and writes the window as one event. -/
def execSamo (sm : Bool) (d a b : BitVec 6) (w : Bool) (p : BitVec 3) : State → Host.Outcome State Fault Refusal :=
  issue (opOf (.samo sm d a b w p)) (fun i s =>
    spLanes i (dwOf w) (fun l => (i.v 0 l).toNat % 2 ^ 48)
      (samoLane i (dwOf w) (fun l => (i.v 0 l).toNat % 2 ^ 48) d.toNat fun l m => some (amoOp (dwOf w) p m (i.v 1 l).toNat)) s)

/-- SAMO_CAS (R220). Each lane stores b where the window equals x[D]. -/
def execSamoCas (sm : Bool) (d a b : BitVec 6) (w : Bool) : State → Host.Outcome State Fault Refusal :=
  issue (opOf (.samoCas sm d a b w)) (fun i s =>
    spLanes i (dwOf w) (fun l => (i.v 0 l).toNat % 2 ^ 48)
      (samoLane i (dwOf w) (fun l => (i.v 0 l).toNat % 2 ^ 48) d.toNat fun l m =>
        if m = (i.v 2 l).toNat % 2 ^ (8 * dwOf w) then some ((i.v 1 l).toNat % 2 ^ (8 * dwOf w)) else none) s)

/-- FQST (R201). The elements of x[T] converted to a narrow format and stored packed. -/
def execFqst (sm : Bool) (t a : BitVec 6) (i : BitVec 2) (x : Bool) (r : BitVec 2) (k : Bool) (w : BitVec 2) (z : BitVec 3) : State → Host.Outcome State Fault Refusal :=
  issue (opOf (.fqst sm t a i x r k w z)) (fun im s =>
    let n := 64 / ewOf w
    let v := (convFmt z.toNat).w
    let b := n * v / 8
    let pack (l : Nat) : Nat := (List.range n).foldl (fun acc e =>
      acc + convEl (fzs im.fpm) (fzr im.fpm) (rmOf r im.fpm im.src l e) (fmtOf w k) z.toNat (ewOf w) (el (im.v 1 l) (ewOf w) e) * 2 ^ (v * e)) 0
    storeLanes im (lanesOf im.lanes) (if b = 3 then 4 else b) b (fun l => (im.v 0 l).toNat % 2 ^ 48) pack
      (fun s => srBump im r (if x then amaxUpd im i.toNat n (fsrc im w (fmtOf w k) 1) s else s)) s)

end Sys2Proof.Machine
end

