-- ==== Sys2Proof/Machine/Tiles.lean ====
section
/-! DEFINITION. Tiles: operand formats (R134, R140–R142, R263, R264), tensor layout descriptors (R265), reservation records and
their bindings (R266, R270), the arithmetic of the arrays (R151, R153) and of the drain path (R152, R278, R279). -/

namespace Sys2Proof.Machine

open Sys2Proof

/-! ## Operand formats by code (R134) -/

/-- Element bits. -/
def mBits (c : Nat) : Nat :=
  [64, 32, 32, 16, 16, 8, 8, 6, 6, 4, 8, 8, 4, 4, 4, 4, 6, 6, 8, 8, 8, 4, 4, 4, 4, 8, 8, 8, 16, 8, 6, 2].getD c 8

/-- Elements of a block or group; 1 for a plain format. -/
def mUnit (c : Nat) : Nat :=
  [1, 1, 1, 1, 1, 1, 1, 1, 1, 1, 1, 1, 1, 1, 16, 32, 32, 32, 32, 32, 32, 32, 32, 64, 128, 32, 64, 128, 1, 1, 16, 16].getD c 1

/-- Whether a format is asymmetric (R142). -/
def mAq (c : Nat) : Bool := decide (22 ≤ c ∧ c ≤ 27)

/-- Bytes of a unit's scale. -/
def mScale (c : Nat) : Nat := if mUnit c = 1 then 0 else if mAq c then 2 else 1

/-- Bytes of a unit's zero point. -/
def mZero (c : Nat) : Nat := if mAq c then 1 else 0

/-- Width classes: 0 FP64, 1 FP32, 2 E8M10, 3 16-bit, 4 8-bit, 5 sub-8-bit, 6 INT16. -/
def mClass (c : Nat) : Nat :=
  if c = 0 then 0 else if c = 1 then 1 else if c = 2 then 2 else if c = 28 then 6
  else if mBits c = 16 then 3 else if mBits c = 8 then 4 else 5

/-- The contraction length K (R263). -/
def mK (c : Nat) : Nat := [16, 32, 64, 128, 256, 512, 64].getD (mClass c) 16

/-- The accumulator format (R264). -/
def mAcc (c : Nat) : TileSt := if c = 0 then .fp64lo else if (10 ≤ c ∧ c ≤ 13) ∨ c = 28 then .int32 else .fp32

/-- Whether two formats may be paired (R264). -/
def mPairs (a b : Nat) : Bool := mClass a = mClass b && mAcc a = mAcc b

/-- What K0 must be a multiple of (R270). -/
def mStepK (c : Nat) : Nat := if mUnit c ≠ 1 then mUnit c else if mBits c = 6 then 4 else if mBits c = 4 then 2 else 1

/-- Elements and bytes of the run that repeats in memory: a unit, or eight elements (R140–R142). -/
def mRun (c : Nat) : Nat := if mUnit c = 1 then 8 else mUnit c
def mRunBytes (c : Nat) : Nat := if mUnit c = 1 then mBits c else mUnit c * mBits c / 8 + mScale c + mZero c

/-- The float format of a code's elements. -/
def mFmt (c : Nat) : Fmt :=
  if c = 0 then f64 else if c = 1 then f32 else if c = 2 then e8m10 else if c = 3 then f16 else if c = 4 then bf16
  else if c = 5 ∨ c = 18 then e4m3 else if c = 6 ∨ c = 19 then e5m2 else if c = 7 ∨ c = 16 ∨ c = 30 then e3m2
  else if c = 8 ∨ c = 17 then e2m3 else if c = 29 then e3m4 else e2m1

/-- The value of an element's bits (R135, R139). -/
def mElem (c v : Nat) : FV :=
  if c = 10 ∨ c = 20 then .ofInteger (val true 8 v)
  else if c = 11 then .ofInteger (val false 8 v)
  else if c = 12 ∨ c = 21 then .ofInteger (val true 4 v)
  else if c = 13 then .ofInteger (val false 4 v)
  else if c = 28 then .ofInteger (val true 16 v)
  else if c = 31 then .ofInteger (val true 2 v)
  else (mFmt c).decode v

/-! ## Descriptors and records (R265, R266) -/

/-- Fields of a record's copy of its descriptor. -/
def ObRec.fmt (r : ObRec) : Nat := bf r.d0.toNat 52 48
def ObRec.sp (r : ObRec) : Bool := bit r.d0.toNat 53
def ObRec.raw (r : ObRec) : Bool := bit r.d0.toNat 54
def ObRec.rnd (r : ObRec) : Rm := if bit r.d0.toNat 55 then .rtz else .rne
def ObRec.base (r : ObRec) : Nat := bf r.d0.toNat 47 0
def ObRec.rows (r : ObRec) : Nat := bf r.d1.toNat 31 0
def ObRec.cols (r : ObRec) : Nat := bf r.d1.toNat 63 32
def ObRec.rstride (r : ObRec) : Nat := bf r.d2.toNat 47 0

/-- Bytes of one row of `n` elements of a format. -/
def mRowBytes (c n : Nat) : Nat := if mUnit c = 1 then (n * mBits c + 7) / 8 else n / mUnit c * mRunBytes c

/-- Whether a descriptor breaches R265. -/
def descBad (d0 d1 d2 d3 : Nat) : Bool :=
  let fmt := bf d0 52 48
  let raw := bit d0 54
  let cols := bf d1 63 32
  let rows := bf d1 31 0
  bf d0 63 57 != 0 || decide (2 ≤ bf d0 56 55) || (raw && fmt != 0) || bf d0 47 0 % 8 != 0 ||
  cols = 0 || decide (2 ^ 31 < cols) || cols % mUnit fmt != 0 || rows = 0 || decide (2 ^ 31 < rows) ||
  bf d2 63 48 != 0 || bf d2 47 0 % 8 != 0 || decide (bf d2 47 0 < if raw then 4 * cols else mRowBytes fmt cols) || d3 != 0

/-- A scale as an MMA takes it: 1.0 where the record has none (R266). -/
def ObRec.scaleBits (r : ObRec) : BitVec 32 := if r.sclp then r.scale else 0x3F800000

/-- Bytes of a tile's scales and zero points (R270). -/
def tileScales (c : Nat) : Nat := 64 * (mK c / mUnit c) * mScale c
def tileZeros (c : Nat) : Nat := 64 * (mK c / mUnit c) * mZero c

/-- The bytes of a tile that exist, row by row: address and length (R270). -/
def ObRec.tileSpans (r : ObRec) (row0 k0 : Nat) : List (Nat × Nat) :=
  let c := r.fmt
  let kEnd := min (k0 + mK c) r.cols
  if kEnd ≤ k0 then []
  else
    let lo := k0 / mRun c * mRunBytes c + k0 % mRun c * mBits c / 8
    let hi := mRowBytes c kEnd
    (List.range 64).filterMap fun i =>
      if row0 + i < r.rows then some ((r.base + (row0 + i) * r.rstride + lo) % 2 ^ 48, hi - lo) else none

/-- The first address that spans touch in each page. -/
def spanPages (spans : List (Nat × Nat)) : List Nat :=
  (spans.flatMap fun e => if e.2 = 0 then [] else
    e.1 :: (List.range ((e.1 + e.2 - 1) / 4096 - e.1 / 4096)).map fun j => ((e.1 / 4096 + 1 + j) * 4096) % 2 ^ 48).foldl
    (fun (l : List Nat) a => if l.any fun b => b / 4096 = a / 4096 then l else l ++ [a]) []

/-- The pages of spans translated: the first trap of R412 with its address, else the demand faults; pages and translations. -/
def State.xlatePages (s : State) (i : Iss) (acc : Acc) (bar : Xl → Bool) (vas : List Nat) : Except Res (List (Nat × Xl)) :=
  let rs := vas.map fun va => (va, s.check i.rg i.core acc false va bar)
  let es := rs.filterMap fun r => match r.2 with | .error e => some e | .ok _ => none
  match firstTrap es with
  | some (c, notes) =>
    let va := match rs.find? fun r => match r.2 with | .error (.trap k _) => k = c | _ => false with
      | some r => r.1
      | none => 0
    .error (.trap c false (fun _ => BitVec.ofNat 64 va) notes)
  | none =>
    if es.isEmpty then .ok (rs.filterMap fun r => match r.2 with | .ok x => some (r.1, x) | .error _ => none)
    else .error (.fault es)

/-- A range cut at multiples of `b` bytes: address, length. -/
def cutSpans (b a n : Nat) : List (Nat × Nat) :=
  if n = 0 then []
  else (List.range ((a + n - 1) / b - a / b + 1)).map fun j =>
    let lo := max a ((a / b + j) * b)
    (lo, min (a + n) ((a / b + j + 1) * b) - lo)

/-- The lines that spans touch, by their pages' translations. They are resolved here, once: a range entry that goes later changes nothing for
them (R316). -/
def State.linesOf (s : State) (xs : List (Nat × Xl)) (spans : List (Nat × Nat)) : List TileLine :=
  ((spans.flatMap fun e => (cutSpans 128 e.1 e.2).map fun l => l.1 % 2 ^ 48 / 128 * 128).eraseDups).filterMap fun va =>
    match xs.find? fun e => e.1 / 4096 = va / 4096 with
    | none => none
    | some (a, x) =>
      let there (pa : Nat) : Nat := pa - a % 4096 + va % 4096
      (s.resolve (there x.pa)).map fun k =>
        { va := va, pa := there x.pa, key := k, coh := x.coh, twin := match x.desc, x.alt with
          | some d, some b => (s.resolve (there b.2)).map fun k => (d, x.act, k)
          | _, _ => none }

/-- The line that holds a virtual address. -/
def lineAt (ls : List TileLine) (va : Nat) : Option TileLine := ls.find? fun l => l.va / 128 = va / 128

/-- Where a byte of a line lies: of a TWIN page, in the backing that is active now (R340). -/
def State.tileKey (s : State) (l : TileLine) (va : Nat) : Nat :=
  (match l.twin with
   | some (d, act, alt) => if s.rd d 8 / 2 ^ 63 % 2 = act then l.key else alt
   | none => l.key) + va % 128

/-! ## Reading a tile (R151, R270, R271) -/

/-- A byte of a pinned tile: an 8-byte unit written since the pin may be read old or new (R271). -/
def State.tileByte (s : State) (b : Binding) (va : Nat) : Nat :=
  match lineAt b.map va with
  | none => 0
  | some l =>
    let old := (SMap.get 0 b.data (l.pa + va % 128)).toNat
    let new := (SMap.get 0 s.mem (s.tileKey l va)).toNat
    if old = new then old else if (s.free (2 ^ 24 + (l.pa + va % 128) / 8)).getLsbD 0 then old else new

/-- A byte that went into the record's windows at the pin. -/
def Binding.window (b : Binding) (va : Nat) : Nat :=
  match lineAt b.map va with
  | none => 0
  | some l => (SMap.get 0 b.data (l.pa + va % 128)).toNat

/-- `n` bits from bit `o` of the byte at an address, `f` giving the bytes. -/
def bitsAt (f : Nat → Nat) (a o n : Nat) : Nat :=
  (List.range ((o + n + 7) / 8)).foldr (fun j acc => f ((a + j) % 2 ^ 48) + 256 * acc) 0 / 2 ^ o % 2 ^ n

/-- The value of element (row, k) of a binding: zero outside the tensor; NaN or infinity where it is special (R141, R142, R153). -/
def State.tileValue (s : State) (r : ObRec) (b : Binding) (row k : Nat) : FV :=
  if r.rows ≤ row ∨ r.cols ≤ k then .num false 0 0
  else
    let c := r.fmt
    let u := (r.base + row * r.rstride + k / mRun c * mRunBytes c) % 2 ^ 48
    let o := k % mRun c * mBits c
    let q := bitsAt (s.tileByte b) (u + o / 8) (o % 8) (mBits c)
    let sa := u + mUnit c * mBits c / 8
    if mScale c = 0 then mElem c q
    else if mAq c then
      match f16.decode (bitsAt b.window sa 0 16) with
      | .num sg m e =>
        let z := b.window ((sa + 2) % 2 ^ 48) % (if mBits c = 4 then 16 else 256)
        FV.mul (.num sg m e) (.ofInteger ((q : Int) - z))
      | _ => .nan
    else
      match e4m3.decode (b.window (sa % 2 ^ 48)) with
      | .num sg m e => FV.mul (.num sg m e) (mElem c q)
      | _ => .nan

/-- Whether a value is special (R153). -/
def FV.special : FV → Bool
  | .num _ _ _ => false
  | _ => true

/-- The array takes −0 as zero, and does not look at special values (R153). -/
def FV.clean : FV → FV
  | .num _ 0 _ => .num false 0 0
  | .num sg m e => .num sg m e
  | _ => .num false 0 0

/-- An exactly zero sum is +0 (R151). -/
def FV.posZero : FV → FV
  | .num _ 0 e => .num false 0 e
  | v => v

/-- An integer value. -/
def FV.toInt : FV → Int
  | .num sg m e => signedAt sg m e 0
  | _ => 0

/-- One element of the update of R151: accumulator format, the old value, the products. -/
def mmaElem (st : TileSt) (acc : Bool) (old : Nat) (ps : List FV) : Nat :=
  match st with
  | .int32 =>
    let p := ps.foldl (fun t p => t + p.toInt) (if acc then (old : Int) else 0)
    (p % 2 ^ 32).toNat
  | .fp64lo => ps.foldl (fun t p => f64.round .rne (FV.add false p (f64.decode t)).posZero) (if acc then old else 0)
  | _ =>
    let p := f32.round .rne (ps.foldl (FV.add false) (.num false 0 0)).posZero
    if acc then f32.round .rne (FV.add false (f32.decode old) (f32.decode p)).posZero else p

/-- The bits of a mask of 64 rows. -/
def rowMask (f : Nat → Bool) : BitVec 64 := BitVec.ofNat 64 ((List.range 64).foldl (fun m i => if f i then m + 2 ^ i else m) 0)

/-- An MMA's update of its bank (R151, R153, R277, R430). -/
def State.mmaBank (s : State) (st : TileSt) (acc : Bool) (ra rb : ObRec) (ba bb : Binding) (k : Bank) : Bank :=
  let n := mK ra.fmt
  let a (i q : Nat) : FV := s.tileValue ra ba (ba.row0 + i) (ba.k0 + q)
  let b (j q : Nat) : FV := s.tileValue rb bb (bb.row0 + j) (bb.k0 + q)
  let old := if acc then k.val else []
  let elem (i j : Nat) : Nat := mmaElem st acc (SMap.get 0 old (64 * i + j)).toNat
    ((List.range n).map fun q => FV.mul (a i q).clean (b j q).clean)
  let bSp := (List.range 64).any fun j => (List.range n).any fun q => (b j q).special
  let flag (i : Nat) : Bool := st != .int32 && (bSp || (List.range n).any fun q => (a i q).special)
  let bad : BitVec 64 := if ba.poison || bb.poison then BitVec.ofNat 64 (2 ^ 64 - 1) else 0
  { k with val := (List.range 4096).foldl (fun m e => SMap.set 0 m e (BitVec.ofNat 64 (elem (e / 64) (e % 64)))) []
           flags := rowMask flag ||| (if acc then k.flags else 0)
           poison := bad ||| (if acc then k.poison else 0) }

/-! ## The drain path (R152, R278, R279) -/

/-- The canonical NaN of a tile's format. -/
def tileNan : TileSt → Nat
  | .fp64lo => f64.canon
  | _ => f32.canon

/-- What a drain takes from a bank element: scales of an FP32 tile applied, flagged rows as NaN (R152, R153). -/
def drainElem (st : TileSt) (sA sB : BitVec 32) (flag : Bool) (v : Nat) : Nat :=
  match st with
  | .fp32 =>
    let a := f32.decode sA.toNat
    let b := f32.decode sB.toNat
    if flag || a.special || b.special then f32.canon else f32.round .rne (FV.mul (FV.mul a b) (f32.decode v))
  | .fp64lo => if flag then f64.canon else v
  | .int32 => v
  | _ => 0

/-- Bytes of a destination element. -/
def drainSize (raw : Bool) (fmt : Nat) (st : TileSt) : Nat := if raw then (if st = .fp64lo then 8 else 4) else mBits fmt / 8

/-- Whether a destination is legal for a tile (R278). -/
def drainLegal (r : ObRec) (st : TileSt) : Bool :=
  match st with
  | .fp32 => r.raw || decide (1 ≤ r.fmt ∧ r.fmt ≤ 6)
  | .int32 => r.raw || r.fmt = 10 || r.fmt = 28
  | .fp64lo => if r.raw then decide (8 * r.cols ≤ r.rstride) else decide (r.fmt ≤ 1)
  | .clear => true
  | .fp64hi => false

/-- The bits that a drain writes. -/
def drainOut (r : ObRec) (st : TileSt) (v : Nat) : Nat :=
  match st with
  | .clear => 0
  | .int32 => if r.raw then v else fit (mBits r.fmt) true true (val true 32 v)
  | .fp64lo => if r.raw then v else (mFmt r.fmt).round r.rnd (f64.decode v)
  | _ => if r.raw then v else (mFmt r.fmt).round r.rnd (f32.decode v)

/-- The bits that a summing drain leaves over the old ones (R279). The manual does not say whether a clear tile meets a RAW
destination as FP32 or as INT32: `open_` says. -/
def draddOut (open_ : Bool) (r : ObRec) (st : TileSt) (v d : Nat) : Nat :=
  let fsum (fd : Fmt) (a : FV) : Nat := fd.round r.rnd (FV.add false (fd.decode d) a).posZero
  if r.raw then
    match st with
    | .int32 => (d + v) % 2 ^ 32
    | .fp64lo => fsum f64 (f64.decode v)
    | .fp32 => fsum f32 (f32.decode v)
    | _ => if open_ then fsum f32 (.num false 0 0) else d
  else if r.fmt = 10 ∨ r.fmt = 28 then fit (mBits r.fmt) true true (val true (mBits r.fmt) d + (if st = .int32 then val true 32 v else 0))
  else fsum (mFmt r.fmt) (match st with | .fp64lo => f64.decode v | .fp32 => f32.decode v | _ => .num false 0 0)

/-- The rows of a drain that exist: row of the tile, address, elements (R278). -/
def ObRec.drainRows (r : ObRec) (size row0 col0 : Nat) : List (Nat × Nat × Nat) :=
  let n := min 64 (r.cols - col0)
  if n = 0 then []
  else (List.range 64).filterMap fun i =>
    if row0 + i < r.rows then some (i, r.base + (row0 + i) * r.rstride + col0 * size, n) else none

/-- The 64-byte image of a record in a save frame or a dump, by doubleword (R266). -/
def ObRec.image (r : ObRec) : List Nat :=
  let slot (k : Nat) : Option Binding := r.binds[(k + 2 - r.old % 2) % 2]?
  let of (k : Nat) (f : Binding → Nat) : Nat := ((slot k).map f).getD 0
  let at_ (k : Nat) : Nat := of k fun b => b.k0 % 2 ^ 32 * 2 ^ 32 + b.row0 % 2 ^ 32
  let keep (k : Nat) : Nat := of k fun b => if b.keep then 1 else 0
  let cap (k : Nat) : Nat := of k fun b => b.capS % 2 ^ 12 * 2 ^ 10 + b.capZ % 2 ^ 10
  [r.d0.toNat, r.d1.toNat, r.d2.toNat,
   r.scale.toNat * 2 ^ 32 + r.role % 4 * 2 ^ 30 + (if r.sclp then 2 ^ 29 else 0) + r.soff % 2 ^ 12 * 2 ^ 10 + r.zoff % 2 ^ 10,
   at_ 0, at_ 1,
   r.old % 2 * 2 ^ 22 + keep 1 * 2 ^ 21 + keep 0 * 2 ^ 20 + of 1 (fun b => b.st % 4) * 2 ^ 18 + of 0 (fun b => b.st % 4) * 2 ^ 16,
   cap 1 * 2 ^ 32 + cap 0]

end Sys2Proof.Machine
end

