-- ==== Sys2Proof/Machine/Engines.lean ====
section
/-! DEFINITION. How engines carry commands out: which command can start (R283, R367), the accesses that engines make (R83, R84,
R313, R422), and the data that go to a scratchpad (R69). -/

namespace Sys2Proof.Machine

open Sys2Proof

/-! ## Work -/

/-- How a piece of a command's work ends: done; failed with a cause, AKIND, address and index (R422); or waiting, `stuck` for
replay (R60). -/
inductive Work (α : Type) where
  | ok (a : α) (s : State)
  | fail (cause akind addr index : Nat) (s : State)
  | wait (stuck : Bool) (s : State)

/-- Work followed by more work. -/
def Work.bind {α β : Type} (w : Work α) (f : α → State → Work β) : Work β :=
  match w with
  | .ok a s => f a s
  | .fail c k a i s => .fail c k a i s
  | .wait b s => .wait b s

/-- Work on the first element of a list, one to a step; `note` records how far the command has come. -/
def eachUnit {α : Type} (note : Nat → State → State) (f : α → State → Work Unit) (k : Nat) : List α → State → Work Unit
  | [], s => .ok () s
  | x :: t, s =>
    match f x s with
    | .ok _ s => if t.isEmpty then .ok () s else .wait false (note (k + 1) s)
    | .fail c ak a i s => .fail c ak a i s
    | .wait b s => .wait b s

/-! ## Starting a command (R283, R367) -/

/-- Whether a command comes from the same thread and queue as another. -/
def Cmd.sameThread (a b : Cmd) : Bool :=
  !a.batch && !b.batch && a.core = b.core && a.qn = b.qn && a.team = b.team && a.grp = b.grp && a.lane = b.lane

/-- Commands accepted before a command. -/
def State.before (s : State) (id : Nat) : List Cmd := s.eng.cmds.takeWhile fun c => c.id != id

/-- Whether a pool's core has pushed a command whose function's slice does not run: from its slice end on (R367). -/
def State.outOfTurn (s : State) (c : Cmd) : Bool :=
  let p : Pool := SMap.get {} s.part.pools (s.pairOwner (c.core / 2) - 256)
  decide (c.core < 384 ∧ 256 ≤ s.pairOwner (c.core / 2)) && !c.harbour && (p.cur != c.fn || p.endTime.isSome)

/-- Whether a command can start, or go on: no earlier one of its thread and queue waits to start, and the stores that PUSH.REL
named are performed (R283). -/
def State.startable (s : State) (c : Cmd) : Bool :=
  (c.st = .queued || (c.st = .held && !s.stores.any fun f => c.rel.contains f.id && (!f.performed || !f.deltas.isEmpty))) && (c.started || (!s.outOfTurn c && !((s.before c.id).any fun b => b.sameThread c && !b.started && b.st != .done)))

/-- The command that a step concerns, where it can start and its image is in order. -/
def State.cmdFor (s : State) (id qn code : Nat) : Option Cmd :=
  match s.eng.cmds.find? fun c => c.id = id with
  | some c => if c.qn = qn ∧ cmdCode c.img = code ∧ !cmdBad c.qn c.img ∧ s.startable c then some c else none
  | none => none

/-! ## Pieces of a command's data -/

/-- A range cut at multiples of `g`: address and bytes of each piece. -/
def cutAt (g a n : Nat) : List (Nat × Nat) :=
  if n = 0 then []
  else (List.range ((a + n - 1) / g - a / g + 1)).map fun i =>
    let lo := if i = 0 then a else (a / g + i) * g
    (lo, min (a + n) ((a / g + i + 1) * g) - lo)

/-- A piece of a destination row: destination, bytes, and the place in the source. -/
structure Piece where
  dst : Nat
  n : Nat
  src : Nat
  deriving DecidableEq, Repr

/-- The pieces of a COPY or FILL, row by row, cut at 128-byte lines of the destination. -/
def copyPieces (m : BitVec 512) : List Piece :=
  (dstRows m).zipIdx.flatMap fun r =>
    let src := (((cmdAddr m 2 : Int) + (r.2 : Int) * s32 (bf (cdw m 5) 31 0)) % (2 : Int) ^ 48).toNat
    (cutAt 128 r.1.1 r.1.2).map fun p => { dst := p.1, n := p.2, src := src + (p.1 - r.1.1) }

/-! ## Lines of the window (R69) -/

/-- A line's pending count falls by one; at zero the line is present. -/
def Team.spArrived (tm : Team) (line : Nat) : Team :=
  tm.updLine line fun l => { l with pending := l.pending - 1, absent := l.absent && decide (1 < l.pending) }

/-- A command holds a line's count no more. -/
def State.dropLine (s : State) (c : Cmd) (line : Nat) : State :=
  let s := s.updCmd c.id fun c => { c with lines := c.lines.erase line }
  if c.lines.contains line && s.hasTeam c.team then s.updTeam c.team fun tm => tm.spArrived line else s

/-- Whether data of a command are on their way to a line. -/
def State.arriving (s : State) (id line : Nat) : Bool := s.eng.arrivals.any fun a => a.cmd = id && a.line = line

/-- Whether a command has still to write data to a line of the window. -/
def Cmd.due (c : Cmd) (line : Nat) : Bool :=
  if c.st = .done ∧ !c.failed then false
  else if c.qn = 1 then
    let z := (dstRows c.img).headD (0, 0)
    let n := bf (cdw c.img 6) 63 32
    let a := z.1 + c.pos * (z.2 / n)
    decide (a < line * 128 + 128 ∧ line * 128 < z.1 + z.2)
  else ((copyPieces c.img).drop c.pos).any fun p => p.dst / 128 = line

/-- Counts of lines all of whose data have arrived fall. -/
def State.settleLines (s : State) (id : Nat) : State :=
  let c := s.cmd id
  (c.lines.filter fun l => !s.arriving id l && !c.due l).foldl (fun s l => s.dropLine (s.cmd id) l) s

/-! ## Ends of commands (R285) -/

/-- Every write of a command is on its way or performed. -/
def State.cmdDone (s : State) (id : Nat) : State :=
  (s.updCmd id fun c => { c with st := .done, started := true }).settleLines id

/-- A command has failed (R422). -/
def State.cmdFail (s : State) (id cause akind addr index : Nat) : State :=
  s.updCmd id fun c => { c with st := .done, started := true, failed := true, cause := cause, akind := akind, eaddr := addr, failTime := s.clk.time, detail := index }

/-- What a command's work makes of it. -/
def State.cmdWork (s : State) (id : Nat) (w : State → Work Unit) : State :=
  let sent (u : State) : State := u.updCmd id fun c => { c with deltas := c.deltas ++ s.sentSince u }
  match w (s.updCmd id fun c => { c with started := true }) with
  | .ok _ u => (sent u).cmdDone id
  | .fail c k a i u => (sent u).cmdFail id c k a i
  | .wait stuck u => if stuck then (sent u).updCmd id fun c => { c with st := .parked } else sent u

/-- A step that carries out the command of a queue and code. -/
def engine (id qn code : Nat) (f : Cmd → State → Work Unit) (s : State) : Host.Outcome State Fault Refusal :=
  match s.cmdFor id qn code with
  | none => .next s
  | some c => .next (s.cmdWork id (f c))

/-- The error record of a failed command (R285, R404, R422). -/
def Cmd.record (c : Cmd) (cause akind addr index : Nat) (time : Word := c.failTime) : Deed :=
  .err { errOf cause with time := some time, skind := 3, snum := c.core, vf := c.fn, akind := akind, addr := addr,
                          tag := if cmdCpl c.img = 2 then cmdTag c.img else 0, detail := cmdCode c.img + 256 * (index % 2 ^ 24) }

/-- Whether a command is LHUNLOCK. -/
def Cmd.isUnlock (c : Cmd) : Bool := c.qn = 10 && cmdCode c.img = 0xA2

/-- The error record of a part, mig or lh command that ended with PST ≠ 0 (R348); an LHUNLOCK refused has its own (R451). -/
def Cmd.partRecord (c : Cmd) : Deed :=
  if c.isUnlock then .err { errOf 0x71 with time := some c.failTime, skind := 7, akind := 3, addr := cdw c.img 2 % 2 ^ 48, detail := c.pst } else
  .err { errOf 0x29 with time := some c.failTime, skind := if c.qn = 10 then 7 else 4, akind := 1, addr := cmdAddr c.img 7,
                         tag := if cmdCpl c.img = 2 then cmdTag c.img else 0, detail := cmdCode c.img + 256 * c.pst + 65536 * (c.detail % 256) }

/-- The action of the header's CPL, made whether the command completed or failed (R284, R285). Of a TARGET that is itself malformed, the record
that holds its 48-bit address is decremented, and the TAG is its low half; ring 63 takes no completion record (log 189). -/
def Cmd.cplDeeds (c : Cmd) : List Deed :=
  let m := c.img
  if cmdCpl m = 1 then [.dec (bf (cdw m 1) 47 7 * 128)]
  else if cmdCpl m = 2 ∧ cmdRing m ≠ 63 then
    [.post (cmdRing m) (complRec (cmdTag m) (if c.failed then 1 else 0) (if c.failed then c.cause else 0) (c.root != 0 && c.wfrag != 0) 0 0 0)]
  else []

/-- What follows the last write of a command: error records, the action of CPL, the return of WFRAG, the batch's count (R285).
A spawned team has reported its own failure and returned its weight (R289, R297). -/
def Cmd.endDeeds (c : Cmd) : List Deed :=
  let errs := if !c.failed || c.quiet then []
    else if 8 ≤ c.qn then [c.partRecord]
    else if c.errs.isEmpty then [c.record c.cause c.akind c.eaddr c.detail]
    else c.errs.map fun e => c.record e.1 1 e.2.1 e.2.2.1 e.2.2.2
  errs ++ c.cplDeeds ++ (if c.root = 0 ∨ c.wfrag = 0 ∨ c.quiet then [] else [.ret c.root c.wfrag.toNat c.failed]) ++
  (if c.batch then [.itemEnd c.grid (if c.failed then c.cause else 0)] else [])

/-- Appended pages become readable, with their owner and the generation of its shelf key (R327, R329). -/
def State.publishPages (s : State) (fn spn n : Nat) : State :=
  { s with ras := { s.ras with shelf := (List.range n).foldl (fun m i => SMap.set none m (spn + i) (some (fn, SMap.get 0 s.lh.shelfKey fn))) s.ras.shelf } }

/-- A command ends: counts of lines that it still holds fall, its pins go, and what follows is done in order (R69, R285, R313). The end
of a message from another package is its sender's business (R289). -/
def State.endCmd (s : State) (id : Nat) : State :=
  let c := s.cmd id
  let s := c.lines.foldl (fun s l => s.dropLine (s.cmd id) l) s
  let s := { s with eng := { s.eng with cmds := s.eng.cmds.filter fun d => d.id != id } }
  let s := if c.qn = 6 ∧ cmdCode c.img = 0x61 ∧ !c.failed then s.publishPages c.fn c.spn (cdw c.img 3) else s
  if c.far = 0 then s.launch c.fn c.harbour c.endDeeds
  else { s with outbox := s.outbox ++ [.ended (c.far - 1) c.cause (if c.quiet then c.detail else c.wfrag.toNat)] }

/-! ## The manager's own accesses (R463) -/

/-- Reach an address of the harbour firmware's space for the manager: an HC page of this package that grants the access. -/
def State.hubReach (s : State) (acc : Acc) (va n : Nat) : Option Xl :=
  match s.check hubRegime 100000 acc false (va % 2 ^ 48) (fun x => x.kind != 0 || x.coh != 0) with
  | .ok x => if (acc != .store && s.isPoison x.key n) || s.keylessLine (x.key / 64) then none else some x
  | .error _ => none

/-- The manager reads a doubleword. -/
def State.hubRead (s : State) (va : Nat) : Option Nat := (s.hubReach .load va 8).map fun x => s.rd x.key 8

/-- The manager reads `n` doublewords. -/
def State.hubReads (s : State) (va : Nat) : Nat → Option (List Nat)
  | 0 => some []
  | n + 1 => match s.hubRead va, s.hubReads (va + 8) n with
    | some v, some l => some (v :: l)
    | _, _ => none

/-- The manager writes `n` bytes, at most 8 and aligned. -/
def State.hubWrite (s : State) (va n v : Nat) : Option State := (s.hubReach .store va n).map fun x => s.perform none x.key n v

/-- The manager writes doublewords; none where one cannot be reached. -/
def State.hubWrites (s : State) (va : Nat) : List Nat → Option State
  | [] => some s
  | v :: t => match s.hubWrite va 8 v with
    | some s => s.hubWrites (va + 8) t
    | none => none

/-- RESULT of a part, mig or lh command (R348). -/
def cmdResult (m : BitVec 512) : Nat := cdw m 7

/-- Whether RESULT can be written, or is absent (R348, R463). -/
def State.resultOk (s : State) (m : BitVec 512) : Bool :=
  cmdResult m = 0 || (decide (cmdResult m < 2 ^ 48) && cmdResult m % 8 = 0 && (s.hubReach .store (cmdResult m) 8).isSome)

/-- An LHUNLOCK has come to its end: the nonce is spent, a refusal is counted but for one with PST 9 (R375, R381, R451). -/
def State.spendNonce (s : State) (pst : Nat) : State :=
  { s with lh := { s.lh with nonce := none, failed := if pst = 0 ∨ pst = 9 then s.lh.failed else s.lh.failed + 1 } }

/-- A part, mig or lh command ends with PST and DETAIL: its result word, where RESULT can be written, then its completion (R348, R463). -/
def State.partEnd (s : State) (id pst detail : Nat) : State :=
  let c := s.cmd id
  let s := if c.isUnlock then s.spendNonce pst else s
  let s := if cmdResult c.img = 0 ∨ !s.resultOk c.img then s else ((s.hubWrite (cmdResult c.img) 8 (2 ^ 63 + detail % 256 * 256 + pst)).getD s)
  s.updCmd id fun c => { c with st := .done, started := true, pst := pst, detail := detail, failTime := s.clk.time, failed := decide (pst ≠ 0), cause := if pst = 0 then 0 else 0x29 }

/-- Whether the manager, the migration engine or Lighthouse comes to a command next: part and lh commands one at a time in order
of acceptance, mig commands likewise; of one cycle's those of core 640 first, then of core 641, then of engine batches (R350). -/
def State.partTurn (s : State) (c : Cmd) : Bool :=
  let rank (b : Cmd) : Nat := if b.batch then 2 else b.core - 640
  decide (c.cycle < s.clk.cycle) &&
  !(s.eng.cmds.any fun b => b.id != c.id && decide (8 ≤ b.qn) && ((b.qn = 9) = (c.qn = 9)) && b.st != .done &&
      (if b.cycle = c.cycle ∧ rank b ≠ rank c then decide (rank b < rank c) else (s.before c.id).any fun d => d.id = b.id))

/-- How many commands pin a page of a function's intermediate space. -/
def State.pinCount (s : State) (fn page : Nat) : Nat := (s.eng.cmds.filter fun d => d.fn = fn && d.pins.any fun p => p.2 = page).length

/-- A page translated for a bank or walk command is pinned, as virtual and intermediate page; 65,535 pins are the most (R313). -/
def State.pinPage (s : State) (c : Cmd) (va : Nat) (x : Xl) : Option State :=
  let p := (va / 4096, (x.ipa + (va - x.va)) / 4096)
  if (s.cmd c.id).pins.contains p then some s
  else if 65535 ≤ s.pinCount c.fn p.2 then none
  else some (s.updCmd c.id fun c => { c with pins := c.pins ++ [p] })

/-- How far a command has come. -/
def notePos (id k : Nat) (s : State) : State := s.updCmd id fun c => { c with pos := k }

/-! ## Accesses -/

/-- The regime of a command: the translation unit of the pushing core, in the pusher's context (R313). -/
def Cmd.regime (c : Cmd) : Regime := { unit := unitOf c.core, fn := c.fn, harbour := c.harbour, who := 2 ^ 40 + c.id }

/-- The lines of the pusher's window: none for a batch, or once the team has gone (R418). -/
def State.window (s : State) (c : Cmd) : Nat :=
  if c.batch || !s.hasTeam c.team || (s.team c.team).st = .ended then 0 else (s.team c.team).spl * 128

/-- Reach a page for a command (R313, R336, R422); a keyless slice refuses what would be written to it (R378, R383). The page of a bank or walk
command is pinned. -/
def State.engReach (s : State) (c : Cmd) (acc : Acc) (va index : Nat) (bar : Xl → Bool := fun _ => false)
    (pick : Nat → Nat → Nat := keepAct) : Work Xl :=
  match s.checkPage c.regime c.core acc false va bar pick with
  | .ok x =>
    if s.wrongSlice c.regime x then .fail 0x23 1 va index s
    else if x.kind = 1 ∧ s.ext.hostDown then .fail 0x6D 1 va index s
    else if acc = .store ∧ s.keylessLine (x.key / 64) then .fail 0x4C 1 va index (s.noteRead x.key 1)
    else if s.sluiced c.regime x then .wait false s
    else match (if c.qn = 4 ∨ c.qn = 5 then s.pinPage c va x else some s) with
      | none => .wait false s
      | some s => .ok x ((s.keep c.regime va x).claimCp c.team c.core x)
  | .error (.trap cause note) => .fail cause 1 va index (s.xnote note c.core [2 ^ 40 + c.id])
  | .error (.demand st a k z) => .wait true (s.await c.fn [2 ^ 40 + c.id] (.demand st a k z))
  | .error e => .wait false (s.await c.fn [2 ^ 40 + c.id] e)

/-- Whether an engine reaches a line through the pushing core's L1: CP pages (R80, R84). -/
def Xl.viaL1 (x : Xl) (core : Nat) : Bool := x.kind = 0 && x.coh = 2 && hasL1 core

/-- Read `n` bytes of one aligned 8-byte unit; a poisoned source fails the command (R286, R430). -/
def State.engLoad (s : State) (c : Cmd) (va n index : Nat) : Work Nat :=
  (s.engReach c .load va index).bind fun x s =>
    let s := (s.charge c.regime x n).toChannel c.fn c.scls c.dloff (1000 + c.qn) x
    if x.viaL1 c.core then
      let l := s.cpLine c.core x
      if l.poison then .fail 0x08 1 va index s else .ok (memRead l.data (x.key % 128) n) (s.l1Put l)
    else if s.isPoison x.key n then .fail 0x08 1 va index (s.noteRead x.key n)
    else .ok (s.rd x.key n) (s.noteRead x.key n)

/-- Read `n` bytes of memory as a little-endian number, each aligned 8-byte unit by itself. -/
def State.engBytes (s : State) (c : Cmd) (va n index : Nat) : Work Nat :=
  (cutAt 8 va n).foldl (fun w p => w.bind fun v s => (s.engLoad c (p.1 % 2 ^ 48) p.2 index).bind fun b s =>
    .ok (v + b * 256 ^ (p.1 - va)) s) (.ok 0 s)

/-- Read a source: memory, or the pusher's window, where a range past its end fails (R286, R418). -/
def State.engSrc (s : State) (c : Cmd) (sp : Bool) (va n index : Nat) : Work Nat :=
  if sp then
    if s.window c < va + n then .fail 0x06 4 va index s
    else if ((List.range ((va + n - 1) / 128 - va / 128 + 1)).any fun i => ((s.team c.team).line (va / 128 + i)).poison) && n != 0 then .fail 0x08 4 va index s
    else .ok ((s.team c.team).spRead va n) s
  else s.engBytes c va n index

/-- The backing that a shadow command writes: the one captured when it started, or the inactive one now (R83). -/
def Cmd.pick (c : Cmd) (desc act : Nat) : Nat :=
  match c.caps.find? fun e => e.1 = desc with
  | some e => e.2
  | none => 1 - act

/-- The command keeps the backing that it has met. -/
def State.capture (s : State) (id : Nat) (x : Xl) : State :=
  match x.desc with
  | some d => s.updCmd id fun c => if c.caps.any fun e => e.1 = d then c else { c with caps := c.caps ++ [(d, 1 - x.act)] }
  | none => s

/-- Pages that a direct-mode command may not write: any but CP pages owned by the core that issued it (R84). -/
def State.barsDirect (s : State) (c : Cmd) (x : Xl) : Bool := x.kind != 0 || x.coh != 2 || s.owner x != c.core + 1

/-- Reach a page that a command writes: in shadow mode by the inactive backing, in direct mode only on a CP page that the core owns (R83, R84). -/
def State.engDst (s : State) (c : Cmd) (va index : Nat) : Work Xl :=
  if cmdShd c.img then
    (s.engReach c .store va index (pick := (s.cmd c.id).pick)).bind fun x s => .ok x (s.capture c.id x)
  else s.engReach c .store va index (s.barsDirect c)

/-- The first page, of those that a direct-mode command will write, for which it is rejected before it writes any (R84). -/
def State.rejected (s : State) (c : Cmd) (vas : List Nat) : Option Nat :=
  if cmdShd c.img then none
  else vas.find? fun va => match s.translate c.regime va with
    | .ok x => s.barsDirect c x
    | .error _ => false

/-- Work of a command that begins: rejected for its destination, or done (R84). -/
def Work.unlessRejected (c : Cmd) (vas : List Nat) (s : State) (w : State → Work Unit) : Work Unit :=
  match (if c.pos = 0 then s.rejected c vas else none) with
  | some va => .fail 0x07 1 va 0 s
  | none => w s

/-- Write `n` bytes within one 128-byte line. A whole line ends its poison (R429). -/
def State.engStore (s : State) (c : Cmd) (x : Xl) (n v : Nat) : State :=
  let s := (s.charge c.regime x n).toChannel c.fn c.scls c.dloff (1000 + c.qn) x
  if x.viaL1 c.core then
    let l := s.cpLine c.core x
    s.l1Put { l with dirty := true, cls := c.scls, stamp := s.stampNow c.dloff, data := memWrite l.data (x.key % 128) n v, poison := l.poison && decide (n < 128) }
  else s.perform none x.key n v

/-- Bytes of a number, the lowest first. -/
def bytesOf (n v : Nat) : List Byte := (List.range n).map fun i => BitVec.ofNat 8 (v / 256 ^ i)

/-- Write `n` bytes of a destination that lie within one line: memory, or the pusher's window, whose data go on their way (R69). -/
def State.engWrite (s : State) (c : Cmd) (sp : Bool) (va n v index : Nat) : Work Unit :=
  if sp then
    if s.window c < va + n then .fail 0x06 4 va index s
    else
      let (id, s) := s.newId
      .ok () { s with eng := { s.eng with arrivals := s.eng.arrivals ++
        [{ id := id, cmd := c.id, team := c.team, line := va / 128, bytes := (bytesOf n v).zipIdx.map fun b => (va + b.2, b.1) }] } }
  else (s.engDst c va index).bind fun x s => .ok () (s.engStore c x n v)

/-- Twin descriptors of the pages that a shadow command will write are read when it starts (R83). -/
def State.captureAll (s : State) (c : Cmd) (vas : List Nat) : State :=
  if cmdShd c.img && !c.harbour then
    vas.foldl (fun s va => match s.translate c.regime va (s.cmd c.id).pick with
      | .ok x => s.capture c.id x
      | .error _ => s) s
  else s

/-- Pages of the destination of COPY, FILL or CHAIN. -/
def dstPages (m : BitVec 512) : List Nat :=
  ((dstRows m).flatMap fun r => (cutAt 4096 r.1 r.2).map fun p => p.1 % 2 ^ 48 / 4096 * 4096).eraseDups

/-! ## COPY, FILL and CHAIN (R286, R287) -/

/-- The pattern of FILL at an address: its byte 0 at each 8-byte-aligned position. -/
def fillBytes (m : BitVec 512) (a n : Nat) : Nat :=
  (List.range n).foldl (fun v i => v + cdw m 2 / 256 ^ ((a + i) % 8) % 256 * 256 ^ i) 0

/-- An address of a destination, modulo 2^48 in memory. -/
def wrapVa (sp : Bool) (a : Nat) : Nat := if sp then a else a % 2 ^ 48

/-- COPY and FILL (R286). -/
def copyWork (fill : Bool) (c : Cmd) (s : State) : Work Unit :=
  let m := c.img
  let ssp := bit (cmdFlags m) 0
  let dsp := bit (cmdFlags m) 1
  let s := if c.pos = 0 && !dsp then s.captureAll c (dstPages m) else s
  Work.unlessRejected c (if dsp then [] else dstPages m) s <| eachUnit (notePos c.id) (fun p s =>
    (if fill then .ok (fillBytes m p.dst p.n) s else s.engSrc c ssp p.src p.n 0).bind fun v s =>
      s.engWrite c dsp (wrapVa dsp p.dst) p.n v 0) c.pos ((copyPieces m).drop c.pos)

/-- Formats of CHAIN by code. -/
def chainFmt (k : Nat) : Fmt := [f32, f16, bf16, e4m3, e5m2].getD k f32

/-- An exactly zero sum is +0; other values stand. -/
def plusZero (v : FV) : FV := if v.isZero then .num false 0 0 else v

/-- SFU functions of opcodes 16–23. -/
def chainSfu (op : Nat) : Sfu := [Sfu.exp2, .rcp, .rsq, .sqrt, .tanh, .sigm, .gelu, .silu].getD (op - 16) .exp2

/-- One operation of CHAIN on F32 encodings (R287). -/
def chainOp (op v x : Nat) : Nat :=
  let a := f32.decode v
  let b := f32.decode x
  if op = 1 then f32.round .rne (plusZero (FV.add false a b))
  else if op = 2 then f32.round .rne (plusZero (FV.add false a b.neg))
  else if op = 3 then f32.round .rne (FV.mul a b)
  else if op = 4 then fminBits f32 false false v x
  else if op = 5 then fminBits f32 true false v x
  else if op = 6 then f32.round .rne (plusZero (FV.add false b a.neg))
  else if op = 24 then (if a.isNan then v else f32.round .rne a.abs)
  else if op = 25 then (if a.isNan then v else f32.round .rne a.neg)
  else (chainSfu op).result 1 false false 0 v 0

/-- The operations of CHAIN up to the first End, on one element. -/
def chainEl (m : BitVec 512) (v b : Nat) : Nat :=
  ((chainOps m).takeWhile fun o => o / 4 != 0).foldl (fun v o =>
    chainOp (o / 4) v ([b, bf (cdw m 5) 31 0, bf (cdw m 5) 63 32, bf (cdw m 6) 31 0].getD (o % 4) 0)) v

/-- CHAIN (R287). -/
def chainWork (c : Cmd) (s : State) : Work Unit :=
  let m := c.img
  let fa := chainFmt (bf (cdw m 2) 50 48)
  let fb := chainFmt (bf (cdw m 2) 53 51)
  let fd := chainFmt (bf (cdw m 2) 56 54)
  let rnd : Rm := if bf (cdw m 2) 58 57 = 1 then .rtz else .rne
  let ssp := bit (cmdFlags m) 0
  let dsp := bit (cmdFlags m) 1
  let s := if c.pos = 0 && !dsp then s.captureAll c (dstPages m) else s
  Work.unlessRejected c (if dsp then [] else dstPages m) s <| eachUnit (notePos c.id) (fun i s =>
    (s.engSrc c ssp (wrapVa ssp (cmdAddr m 2 + i * (fa.w / 8))) (fa.w / 8) 0).bind fun a s =>
    (if cmdAddr m 3 = 0 then .ok 0 s else s.engSrc c ssp (wrapVa ssp (cmdAddr m 3 + i * (fb.w / 8))) (fb.w / 8) 0).bind fun b s =>
      let r := chainEl m (f32.round .rne (fa.decode a)) (f32.round .rne (fb.decode b))
      (cutAt 128 (cmdAddr m 4 + i * (fd.w / 8)) (fd.w / 8)).foldl (fun w p => w.bind fun _ s =>
        s.engWrite c dsp (wrapVa dsp p.1) p.2 (fd.round rnd (f32.decode r) / 256 ^ (p.1 - (cmdAddr m 4 + i * (fd.w / 8))) % 256 ^ p.2) 0)
        (.ok () s)) c.pos ((List.range (bf (cdw m 6) 63 32)).drop c.pos)

/-! ## Collectives (R288) -/

/-- Bytes of an element of a collective. -/
def collSize (fmt : Nat) : Nat := [4, 2, 2, 4, 8, 8].getD fmt 4

/-- Fields of a collective. -/
def collRoot (m : BitVec 512) : Nat := bf (cdw m 4) 47 38
def collOp (m : BitVec 512) : Nat := bf (cdw m 4) 37 35
def collFmt (m : BitVec 512) : Nat := bf (cdw m 4) 34 32
def collCount (m : BitVec 512) : Nat := bf (cdw m 4) 31 0
def collSeq (m : BitVec 512) : Nat := bf (cdw m 6) 63 32
def collRank (m : BitVec 512) : Nat := bf (cdw m 6) 9 0

/-- Fold of two elements: SUM, MIN, MAX, OR (R288). -/
def collFold (fmt op a b : Nat) : Nat :=
  let w := 8 * collSize fmt
  if fmt = 3 ∨ fmt = 4 then
    let x := (BitVec.ofNat w a).toInt
    let y := (BitVec.ofNat w b).toInt
    if op = 0 then (a + b) % 2 ^ w
    else if op = 1 then (if y < x then b else a)
    else if op = 2 then (if x < y then b else a)
    else Nat.lor a b
  else
    let f := if fmt = 0 then f32 else if fmt = 1 then f16 else if fmt = 2 then bf16 else f64
    if op = 0 then f.round .rne (plusZero (FV.add false (f.decode a) (f.decode b)))
    else fminBits f (op = 2) false a b

/-- The fold over ranks in ascending order. -/
def collFolds (fmt op : Nat) : List Nat → Nat
  | [] => 0
  | x :: t => t.foldl (collFold fmt op) x

/-- The die of a compute core (R9). -/
def dieOf (core : Nat) : Nat := core / 96

/-- The set record as a member reads it: its entries (R288). -/
def State.collSet (s : State) (c : Cmd) : Work (List Nat) :=
  let a := cmdAddr c.img 5
  (s.engBytes c a 8 0).bind fun n s =>
    if n = 0 ∨ 1024 < n then .fail 0x20 1 a 0 s
    else (List.range n).foldl (fun w i => w.bind fun l s => (s.engBytes c ((a + 8 + 8 * i) % 2 ^ 48) 8 0).bind fun e s =>
      if bf e 63 28 ≠ 0 then .fail 0x20 1 a 0 s else .ok (l ++ [e]) s) (.ok [] s)

/-- Whether an entry of a set names a die of this package. -/
def State.entryHere (s : State) (fn e : Nat) : Bool := s.peerPkg fn (bf e 9 0) = Config.package
def entryDie (e : Nat) : Nat := bf e 11 10

/-- Whether some link that is up admits packets of a partition tag to a function (R391). -/
def State.admitted (s : State) (tag fn : Nat) : Bool :=
  s.ext.admission.any fun e => e.2 = some (tag, fn) && decide (e.1 < 1024) && !s.ext.linkDown.contains (e.1 / 64) && !s.ext.retrain.contains (e.1 / 64)

/-- A member's part leaves for the members in other packages, each packet with the tag of the entry that it goes to (R24, R288). -/
def State.collSend (s : State) (c : Cmd) (set : List Nat) : State :=
  (set.filter fun e => !s.entryHere c.fn e).foldl (fun s e => { s with outbox := s.outbox ++
    [.packet { pkg := s.peerPkg c.fn (bf e 9 0), tag := bf e 27 12, vf := c.fn, cls := c.scls, stamp := s.stampNow c.dloff } (cmdAddr c.img 5)] }) s

/-- Commands of this package's other members: of the same function, with the same SET and SEQ (R288). -/
def State.collMates (s : State) (c : Cmd) : List Cmd :=
  s.eng.cmds.filter fun d => d.qn = 2 && d.fn = c.fn && d.harbour = c.harbour && cmdAddr d.img 5 = cmdAddr c.img 5 && collSeq d.img = collSeq c.img &&
    !cmdBad 2 d.img && (d.st = .queued || d.st = .parked)

/-- Whether two members agree on COUNT, FMT, OP and ROOT, and on the operation. -/
def collAgree (a b : BitVec 512) : Bool := cmdCode a = cmdCode b && bf (cdw a 4) 47 0 = bf (cdw b 4) 47 0

/-- Elements that a member's source gives: for the operations of R288, COUNT of them where the source is used. -/
def collNeeds (m : BitVec 512) (rank : Nat) : Nat := if cmdCode m = 0x22 ∧ rank ≠ collRoot m then 0 else collCount m

/-- Read a member's source. -/
def State.collSrc (s : State) (c : Cmd) (n : Nat) : Work (List Nat) :=
  let z := collSize (collFmt c.img)
  (List.range n).foldl (fun w i => w.bind fun l s => (s.engBytes c ((cmdAddr c.img 2 + i * z) % 2 ^ 48) z 0).bind fun v s => .ok (l ++ [v]) s) (.ok [] s)

/-- What a member of rank `k` among `n` receives, given every rank's source: index in its destination and value (R288). -/
def collOut (m : BitVec 512) (k n : Nat) (src : Nat → List Nat) : List (Nat × Nat) :=
  let cnt := collCount m
  let fold (i : Nat) : Nat := collFolds (collFmt m) (collOp m) ((List.range n).map fun r => (src r).getD i 0)
  let code := cmdCode m
  if code = 0x20 ∨ (code = 0x21 ∧ k = collRoot m) then (List.range cnt).map fun i => (i, fold i)
  else if code = 0x21 then []
  else if code = 0x22 then (List.range cnt).map fun i => (i, (src (collRoot m)).getD i 0)
  else if code = 0x23 then (List.range n).flatMap fun r => (List.range cnt).map fun i => (r * cnt + i, (src r).getD i 0)
  else (List.range (cnt / n)).map fun i => (i, fold (k * (cnt / n) + i))

/-- Write a member's destination. -/
def State.collDst (s : State) (c : Cmd) (out : List (Nat × Nat)) : Work Unit :=
  let z := collSize (collFmt c.img)
  out.foldl (fun w e => w.bind fun _ s =>
    (cutAt 128 (cmdAddr c.img 3 + e.1 * z) z).foldl (fun w p => w.bind fun _ s =>
      s.engWrite c false (p.1 % 2 ^ 48) p.2 (e.2 / 256 ^ (p.1 - (cmdAddr c.img 3 + e.1 * z)) % 256 ^ p.2) 0) (.ok () s)) (.ok () s)

/-- Reach every page that a member writes, before anything is written. -/
def State.collReach (s : State) (d : Cmd) (out : List (Nat × Nat)) : Work Unit :=
  let z := collSize (collFmt d.img)
  (out.flatMap fun e => [cmdAddr d.img 3 + e.1 * z, cmdAddr d.img 3 + e.1 * z + z - 1]).foldl (fun w a => w.bind fun _ s =>
    (s.engDst d (a % 2 ^ 48) 0).bind fun _ s => .ok () s) (.ok () s)

/-- Fail every member of this package (R288). -/
def State.collFail (s : State) (mates : List Cmd) (own : Option (Nat × Nat × Nat × Nat)) : State :=
  mates.foldl (fun s d => match own with
    | some (id, cause, ak, a) => if d.id = id then s.cmdFail id cause ak a 0 else s.cmdFail d.id 0x28 0 0 0
    | none => s.cmdFail d.id 0x28 0 0 0) s

/-- Every local member's source, by rank; none and the state where one waits or the collective has failed. -/
def State.collGather (s : State) (mates : List Cmd) : List Cmd → List (Nat × List Nat) → Option (List (Nat × List Nat)) × State
  | [], acc => (some acc, s)
  | d :: t, acc =>
    match s.collSrc d (collNeeds d.img (collRank d.img)) with
    | .ok v s => s.collGather mates t (acc ++ [(collRank d.img, v)])
    | .fail c ak a _ s => (none, s.collFail mates (some (d.id, c, ak, a)))
    | .wait stuck s => (none, if stuck then s.updCmd d.id fun c => { c with st := .parked } else s)

/-- A collective is carried out for every member of this package at once, with the sources of members elsewhere given: their packets carry the
tags of the entries here, and none comes whose tag no link admits (R288, R391). -/
def collective (id code : Nat) (remote : List (Nat × List (BitVec 64))) (s : State) : Host.Outcome State Fault Refusal :=
  match s.cmdFor id 2 code with
  | none => .next s
  | some c =>
    .next (match s.collSet c with
    | .fail cause ak a _ s => s.cmdFail id cause ak a 0
    | .wait stuck s => if stuck then s.updCmd id fun c => { c with st := .parked } else s
    | .ok set s =>
      let n := set.length
      let mates := s.collMates c
      let mine := (set.zipIdx.filter fun e => s.entryHere c.fn e.1)
      let ranks := mates.map fun d => collRank d.img
      let remote := if mine.all fun e => s.admitted (bf e.1 27 12) c.fn then remote else []
      let odd (d : Cmd) : Bool := ((cmdCode d.img = 0x21 || cmdCode d.img = 0x22) && decide (n ≤ collRoot d.img)) ||
                                  (cmdCode d.img = 0x24 && collCount d.img % n != 0)
      if mates.any fun d => !s.startable d then s
      else if mates.any fun d => !(set[collRank d.img]?.any fun e => s.entryHere c.fn e && entryDie e = dieOf d.core) then s.collFail mates none
      else if !(mine.all fun e => ranks.contains e.2) || !((List.range n).all fun r => ranks.contains r || remote.any fun e => e.1 = r) then s
      else if mates.any odd then mates.foldl (fun s d => s.cmdFail d.id (if odd d then 0x20 else 0x28) 0 0 0) s
      else if mates.any (fun d => !collAgree c.img d.img) ||
              (remote.any fun e => !ranks.contains e.1 && decide (e.1 < n) && decide (e.2.length ≠ collNeeds c.img e.1)) then s.collFail mates none
      else
        match s.collGather mates mates [] with
        | (none, s) => s
        | (some locals, s) =>
          let src (r : Nat) : List Nat := match locals.find? fun e => e.1 = r with
            | some e => e.2
            | none => ((remote.find? fun e => e.1 = r).map fun e => e.2.map BitVec.toNat).getD []
          let out (d : Cmd) : List (Nat × Nat) := collOut d.img (collRank d.img) n src
          match mates.find? fun d => match s.collReach d (out d) with | .wait _ _ => true | _ => false with
          | some d => s.cmdWork d.id fun s => s.collReach d (out d)
          | none => mates.foldl (fun s d => (s.collSend d set).cmdWork d.id fun s => s.collDst d (out d)) s)

end Sys2Proof.Machine
end

