-- ==== Sys2Proof/Machine/Actors.lean ====
section
/-! DEFINITION. Who can move: groups able to issue (R49–R52, R55), the fetch of the word an issue stands at (R92, R336), and
the passing of time (R16). -/

namespace Sys2Proof.Machine

open Sys2Proof

/-- The active set of a core (R49, R296). -/
def activeCap (core : Nat) : Nat := if isLedge core then 4 else 8

/-- Whether a team's groups may issue: resident, and no kill, save, restore or hold is under way (R60, R281, R364, R419). -/
def Team.runs (tm : Team) : Bool :=
  tm.st = .resident && tm.kill.isNone && !tm.faulted && !tm.held && !tm.forceSave && !tm.mtxWait && !tm.entering

/-- The groups of a core that satisfy a test: team, group, effective priority and age; a group under a yield hint ranks as the
youngest (R96). -/
def State.groupsOn (s : State) (core : Nat) (p : Team → Group → Bool) : List (Nat × Nat × Nat × Nat) :=
  s.teams.flatMap fun e =>
    if e.2.core = core ∧ e.2.st = .resident then
      (e.2.groups.filter fun h => p e.2 h.2).map fun h =>
        (e.1, h.1, e.2.prio, if s.clk.cycle < h.2.youngUntil then h.2.since + 2 ^ 64 else h.2.since)
    else []

/-- The better of two groups for a place: higher priority, then the older (R49). -/
def better (a b : Nat × Nat × Nat × Nat) : Bool :=
  decide (b.2.2.1 < a.2.2.1) || (decide (b.2.2.1 = a.2.2.1) && decide (a.2.2.2 ≤ b.2.2.2))

/-- The first group of a list by R49. -/
def firstGroup : List (Nat × Nat × Nat × Nat) → Option (Nat × Nat × Nat × Nat)
  | [] => none
  | a :: t =>
    match firstGroup t with
    | none => some a
    | some b => if better a b then some a else some b

/-- Cores that hold a resident team. -/
def State.coresUsed (s : State) : List Nat :=
  ((s.teams.filter fun e => e.2.st = .resident).map fun e => e.2.core).eraseDups

/-- READY groups take the free places of a core's active set, first by R49 (R51). -/
def State.fillCore (s : State) (core : Nat) : Nat → State
  | 0 => s
  | k + 1 =>
    if (s.groupsOn core fun _ g => g.st = .active).length < activeCap core then
      match firstGroup (s.groupsOn core fun tm g => g.eligible && tm.runs) with
      | some (t, g, _, _) => (s.updGrp t g fun gr => gr.enter .active s.clk.cycle).fillCore core k
      | none => s
    else s

/-- Every core's active set is filled. -/
def State.fillActive (s : State) : State := s.coresUsed.foldl (fun s c => s.fillCore c (activeCap c)) s

/-- The active groups of a core that can issue in this cycle and have not done so (R49). -/
def State.canGo (s : State) (core : Nat) : List (Nat × Nat × Nat × Nat) :=
  (s.groupsOn core fun tm g => g.st = .active && !g.halt && tm.runs && g.pace.issued != s.clk.cycle + 1 && g.pace.tried != s.clk.cycle + 1).filter
    fun e => !(s.issues e.1 e.2.1).isEmpty

/-- The issues of a core that can move next: those of the first of its groups by R49, at most two groups in a cycle. -/
def State.fociOn (s : State) (core : Nat) : List Focus :=
  if 2 ≤ (s.groupsOn core fun _ g => g.pace.issued = s.clk.cycle + 1).length then []
  else match firstGroup (s.canGo core) with
    | some (t, g, _, _) => (s.issues t g).map fun m => { team := t, grp := g, lanes := m }
    | none => []

/-- Every issue that can move next. -/
def State.foci (s : State) : List Focus := s.coresUsed.flatMap s.fociOn

/-- The lanes of an issue stand at one PC; where they reached it inside different clauses, the lowest lane's clause governs (R55, log 167). -/
def State.align (s : State) (f : Focus) : State :=
  s.updGrp f.team f.grp fun g => g.mapTh f.lanes fun th => { th with pt := (g.th (lowLane f.lanes)).pt }

/-- The word at a place of the code, through the translation that the unit holds, or, for pages that it never holds, through a walk;
none where the walk is still to be made or the fetch is not permitted (R333, R336). -/
def State.fetchWord (s : State) (rg : Regime) (a : Nat) : Option Nat :=
  let read (x : Xl) : Option Nat := if x.denies .fetch || s.wrongSlice rg x then none else some (s.rd x.key 4)
  match s.cache.tlb.find? fun e => e.covers rg a with
  | none =>
    match s.walk rg a with
    | .error _ => none
    | .ok x => if (x.desc.isSome && x.backs.isNone) || s.part.gated.contains rg.unit then read x else none
  | some e =>
    match s.ofTlb e a with
    | .error _ => none
    | .ok x => read x

/-- The step that an issue takes: the clause header or the instruction at its place, the illegal word there, or the walk for
its page (R92, R94, R115, R333). -/
def State.fetch (s : State) (f : Focus) : Instr :=
  let tm := s.team f.team
  let pt := ((tm.grp f.grp).th (lowLane f.lanes)).pt
  match s.fetchWord tm.regime pt.addr.toNat with
  | none => .pageWalk tm.core tm.fn pt.addr.toNat 2
  | some w =>
    if pt.pos = 0 then
      match decodeHeader w with
      | .ok i => i
      | .error _ => .illegalClauseHeader (BitVec.ofNat 32 w)
    else
      match decodeInstr w with
      | .ok i => i
      | .error _ => .illegalInstruction (BitVec.ofNat 32 w)

/-- Time passes by amounts that nothing fixes; free values are drawn afresh (R16). -/
def State.tick (s : State) : State :=
  let dt := (s.free 0).toNat % 2 ^ 32
  let dc := (s.free 1).toNat % 2 ^ 32
  { s with clk := { s.clk with time := s.clk.time + BitVec.ofNat 64 dt, cycle := s.clk.cycle + dc, fresh := s.clk.fresh + 1 } }

end Sys2Proof.Machine
end

