-- ==== Sys2Proof/Machine/SyncOps.lean ====
section
/-! DEFINITION. Transactions (R239–R245), tasks and weight (R246–R253), system registers (R127–R131, R255) and system instructions (R256–R260). -/

namespace Sys2Proof.Machine

open Sys2Proof

/-! ## Transactions (R239–R245) -/

/-- Logical time of a core (R75). -/
def State.ltimeOf (s : State) (core : Nat) : Int := (SMap.get 0 s.cache.ltime core : Nat)

/-- Open transactions: team, group, core. -/
def State.openTx (s : State) : List (Nat × Nat × Nat × Tx) :=
  s.teams.flatMap fun e => e.2.groups.filterMap fun h => h.2.tx.map fun x => (e.1, h.1, e.2.core, x)

/-- The begin timestamp: logical time; with priority, the oldest in flight less one (R89). -/
def State.beginTime (s : State) (core : Nat) (prio : Bool) : Int :=
  if prio then s.openTx.foldl (fun m e => min m e.2.2.2.ts) (s.ltimeOf core) - 1 else s.ltimeOf core

/-- Whether one priority transaction is older than another: timestamp, then core, then group (R89). -/
def txOlder (a b : Nat × Nat × Nat × Tx) : Bool :=
  decide (a.2.2.2.ts < b.2.2.2.ts) ||
  (decide (a.2.2.2.ts = b.2.2.2.ts) && (decide (a.2.2.1 < b.2.2.1) || (decide (a.2.2.1 = b.2.2.1) && decide (a.2.1 ≤ b.2.1))))

/-- Lines that a transaction's commit writes. -/
def Tx.commitLines (x : Tx) : List Nat := (x.wlines ++ x.publs.map lineOf).eraseDups

/-- Whether another transaction's priority keeps a commit from its event (R89). -/
def State.txBlocked (s : State) (t g core : Nat) (x : Tx) : Bool :=
  s.openTx.any fun e => !(e.1 = t && e.2.1 = g) && e.2.2.2.prio && (x.commitLines.any fun l => e.2.2.2.touches l) &&
    !(x.prio && txOlder (t, g, core, x) e)

/-- The commit: every write and every PUBL as one event, then the held actions in order (R87, R241, R464). -/
def State.commitTx (s : State) (t g : Nat) (x : Tx) : State :=
  let tm := s.team t
  let p := x.parts &&& (s.grp t g).live
  let s := s.updGrp t g fun gr =>
    { gr with tx := none, txConfl := 0 }.mapTh x.parts fun th =>
      { th with txNest := 0, run := if th.run = Run.exited then Run.exited else Run.running }
  let s0 := x.wlines.eraseDups.foldl (fun s l => s.leaseWrite tm.core l) s
  let s := x.datas.foldl (fun s d => d.writes.foldl (fun s e => match e.2 with
    | some b => s.writeAt (s.commitKey d e.1) 1 b.toNat
    | none => s) s) s0
  let s := if p = 0 ∨ (s0.sentSince s).isEmpty then s
    else s.inFlight { t := t, g := g, lane := lowLane p, core := tm.core } { key := x.wlines.headD 0 * 128, deltas := s0.sentSince s }
  let s := x.publs.foldl (fun s k => s.publish k) s
  let held := x.datas.flatMap (·.held)
  if p = 0 then s else s.launch tm.fn tm.harbour (held.map fun h => .held t g h)

/-- The attempt to commit once every lane of P is parked at TXEND (R241). -/
def State.tryCommit (s : State) (t g : Nat) : State :=
  let gr := s.grp t g
  match gr.tx with
  | none => s
  | some x =>
    if (lanesOf (x.parts &&& gr.live)).all fun l => (gr.th l).run = .txend then
      if s.txBlocked t g (s.team t).core x then s.updGrp t g fun gr => gr.abortTx .conflict 0
      else s.commitTx t g x
    else s

/-- The innermost frame's alternative is taken for all of P (R244). -/
def Group.takeAlt (g : Group) (x : Tx) (f : TxFrame) (rest : List TxFrame) : Group :=
  let g := (g.restore f.ck x.parts).mapTh x.parts fun th => { th with txNest := th.txNest - 1 }
  { g with tx := some { x with frames := rest }, refund := g.refund ++ f.data.donors }.place (x.parts &&& g.live) f.alt

/-- Entries of a slice's wake table (R68, R90). -/
def State.wakeUsed (s : State) (slice : Nat) : Nat := (s.cache.wake.filter fun e => Config.homeSlice e.1 = slice).length

/-- Place the lines of a read set in their wake tables; none where some table is full (R90). -/
def State.placeWake (s : State) (t g : Nat) : List Nat → Option State
  | [] => some s
  | l :: rest =>
    if 512 ≤ s.wakeUsed (Config.homeSlice l) then none
    else { s with cache := { s.cache with wake := s.cache.wake ++ [(l, t, g)] } }.placeWake t g rest

/-- RETRY with no open frame: the checkpoint is restored, the read set placed, and the group sleeps at TXBEG (R244). -/
def State.sleepTx (s : State) (t g : Nat) (x : Tx) : State :=
  let s := s.updGrp t g fun gr =>
    let gr := ((gr.restore x.ck x.parts).mapTh x.parts fun th => { th with txNest := 0 })
    { ({ gr with tx := none, refund := gr.refund ++ x.datas.flatMap TxData.donors }.place (x.parts &&& gr.live) x.beg).rewind with st := .sleep, sleepTime := s.clk.time }
  (s.placeWake t g x.reads).getD s

/-- Hold an action until the commit (R240). -/
def State.holdAct (s : State) (t g : Nat) (h : Held) : State :=
  s.updGrp t g fun gr => { gr with tx := gr.tx.map fun x => x.updData fun d => { d with held := d.held ++ [h] } }

/-- A result that does not exist yet: its number, and the state (R464). -/
def State.unborn (s : State) (i : Iss) (l d : Nat) : Nat × State :=
  (s.clk.ids, s.pend i { id := 0, seq := 0, kind := .ld, lane := l, file := .x, reg := d, val := 0, ready := false })

/-- A variable-latency result in a thread register. -/
def State.later (s : State) (i : Iss) (l d : Nat) (v : Word) : State :=
  s.pend i { id := 0, seq := 0, kind := .ld, lane := l, file := .x, reg := d, val := v }

/-! ## Weight (R250) -/

/-- Units that a thread gains or loses by a transfer outside its transaction also stand in the checkpoints of that transaction. -/
def Ckpt.shift (c : Ckpt) (lane : Nat) (n : Int) : Ckpt :=
  { c with weight := c.weight.map fun e => if e.1 = lane then (e.1, e.2 + BitVec.ofInt 64 n) else e }

/-- The same for every checkpoint of a group's open transaction. -/
def Group.shiftWeight (g : Group) (lane : Nat) (n : Int) : Group :=
  { g with tx := g.tx.map fun x => { x with ck := x.ck.shift lane n, frames := x.frames.map fun f => { f with ck := f.ck.shift lane n } } }

/-- A transfer of WSPLIT from a donor to a lane meets the transactions of both (R240): inside one transaction its checkpoint undoes it;
else a donor in a transaction has given for good, and a receiver's transaction notes what its abort is to give back. -/
def State.noteSplit (s : State) (t g l dg dl n : Nat) : State :=
  let inTx (g l : Nat) : Bool := match (s.grp t g).tx with | some x => x.parts.getLsbD l | none => false
  if g = dg && inTx g l && inTx dg dl then s
  else
    let s := if inTx dg dl then s.updGrp t dg fun gr => gr.shiftWeight dl (-(n : Int)) else s
    if inTx g l then s.updGrp t g fun gr => { gr with tx := gr.tx.map fun x => x.updData fun d => { d with donors := d.donors ++ [(dg, dl, n)] } } else s

/-- Units that aborts give back return to their donors (R240). -/
def State.settleRefunds (s : State) : State :=
  if !(s.teams.any fun e => e.2.groups.any fun h => !h.2.refund.isEmpty) then s
  else s.teams.foldl (fun s e => e.2.groups.foldl (fun s h =>
    (h.2.refund.foldl (fun s d => (s.setWeight e.1 d.1 d.2.1 (s.weightOf e.1 d.1 d.2.1 + d.2.2)).updGrp e.1 d.1 fun gr => gr.shiftWeight d.2.1 d.2.2) s).updGrp e.1 h.1
      fun gr => { gr with refund := [] }) s) s

/-- Requests of WSPLIT in ascending lane order. -/
def wsplitLanes (t g dg dl d : Nat) (i : Iss) (lanes : List Nat) (s : State) : State :=
  lanes.foldl (fun s l =>
    if g = dg ∧ l = dl then s
    else
      let n := (i.v 0 l).toNat
      let have_ := s.weightOf t dg dl
      if 1 ≤ n ∧ n ≤ have_ then
        (((s.setWeight t dg dl (have_ - n)).setWeight t g l (s.weightOf t g l + n)).noteSplit t g l dg dl n).updGrp t g fun gr => gr.wrX l d (BitVec.ofNat 64 n)
      else s.updGrp t g fun gr => gr.wrX l d 0) s

/-- WSPLIT from a donor. -/
def wsplit (i : Iss) (d dg dl : Nat) (s : State) : Res :=
  let s := wsplitLanes i.t i.g dg dl d i (lanesOf i.lanes) s
  .done (if i.g = dg ∧ i.lanes.getLsbD dl then s.updGrp i.t i.g fun gr => gr.wrX dl d (BitVec.ofNat 64 (s.weightOf i.t dg dl)) else s)

/-! ## System registers (R127–R131, R255) -/

/-- Low `n` bits of a register. -/
def lowBits (v : Word) (n : Nat) : Word := BitVec.ofNat 64 (v.toNat % 2 ^ n)

/-- The function number that SY.VFN reads: on a harbour core the one that SY.HVF holds (R129, R131). On another core it is the function of the
team that runs there, and an SY.HVF written with another number changes nothing: DESIGN CHOICE (log 203). -/
def State.vfn (s : State) (i : Iss) : Word := BitVec.ofNat 64 (if isHarbour i.core then SMap.get 0 s.part.hvf i.core else i.fn)

/-- The value of a system register in a lane. -/
def State.sysRead (s : State) (i : Iss) (y l : Nat) : Word :=
  let tm := s.team i.t
  let g := tm.grp i.g
  let th := g.th l
  let f := s.fn i.fn
  if y = 0x000 then s.clk.time
  else if y = 0x001 then g.fpmode
  else if y = 0x002 then s.cache.tstick
  else if y = 0x003 then s.cache.lease
  else if y = 0x004 then BitVec.ofNat 64 i.core
  else if y = 0x005 then s.vfn i
  else if y = 0x006 then g.active.setWidth 64
  else if 0x008 ≤ y ∧ y ≤ 0x00B then SMap.get 0 g.amax (y - 0x008)
  else if y = 0x010 then th.trapCause
  else if y = 0x011 then th.trapPc
  else if y = 0x012 then th.trapAddr
  else if y = 0x013 then tm.trapvec
  else if y = 0x018 then f.prehdl
  else if y = 0x019 then f.prebud
  else if y = 0x020 then tm.sperr
  else if y = 0x021 then tm.dbgctl
  else if y = 0x022 then tm.bpaddr
  else if y = 0x030 then th.osat.setWidth 64
  else if y = 0x031 then th.tsm
  else if y = 0x032 then th.txNest.setWidth 64
  else if y = 0x033 then th.depth.setWidth 64
  else if y = 0x034 then th.weight
  else if 0x040 ≤ y ∧ y ≤ 0x047 then SMap.get 0 tm.rgnva (y - 0x040)
  else if 0x048 ≤ y ∧ y ≤ 0x04F then SMap.get 0 tm.rgnctl (y - 0x048)
  else if y = 0x800 then BitVec.ofNat 64 (SMap.get 0 s.part.hvf i.core)
  else if y = 0x801 then BitVec.ofNat 64 (SMap.get 0 s.part.split i.core)
  else if y = 0x802 then (if isHarbour i.core then 1 else 0)
  else 0

/-- Whether a value written to SY.RGNCTLk may enable its region (R72). -/
def Team.rgnFits (tm : Team) (k : Nat) (v : Word) : Bool :=
  let off := bf v.toNat 43 32
  let n := bf v.toNat 12 0
  decide (off + n ≤ tm.spl) && decide (1 ≤ n) &&
  (List.range 8).all fun j => j = k || !tm.rgnEn j || decide (off + n ≤ tm.rgnOff j) || decide (tm.rgnOff j + tm.rgnLines j ≤ off)

/-- Bits of SY.RGNCTLk that are not reserved (R71). -/
def rgnMask : Word := 0x18FFF00001FFF

/-- A region's fill is over: lines that never arrived are present as they stand. -/
def Team.endFill (tm : Team) (k : Nat) : Team :=
  let tm' := { tm with rgnFilled := SMap.set false tm.rgnFilled k false, rgnFill := SMap.set 0 tm.rgnFill k 0 }
  if SMap.get 0 tm.rgnFill k = 0 then tm'
  else (List.range (tm.rgnLines k)).foldl (fun tm i => tm.updLine (tm.rgnOff k + i) fun l => { l with absent := false }) tm'

/-- A write of SY.RGNCTLk: none while the write-back of an enabled region cannot be performed yet (R72). -/
def State.writeRgnctl (s : State) (t k : Nat) (v : Word) : Option State :=
  let tm := s.team t
  let was := tm.rgnEn k
  let fills := SMap.get 0 tm.rgnFill k != 0 && !(match s.fillStop t k with | some (.trap _ _) => true | _ => false)
  if was && (fills || s.rgnParks t k) then none
  else
    let s := if was then s.rgnWriteBack t k else s
    some (s.updTeam t fun tm =>
      let tm := if was then tm.endFill k else tm
      let put (x : Word) : Team := { tm with rgnctl := SMap.set 0 tm.rgnctl k x }
      if !v.getLsbD 48 || tm.rgnFits k v then put (v &&& rgnMask)
      else put (SMap.get 0 tm.rgnctl k &&& 0xFFFEFFFFFFFFFFFF))

/-- A write of SY.FPMODE zeroes SRCNT (R145). -/
def Group.setFpmode (g : Group) (v : Word) : Group := { g with fpmode := v &&& 0xFFFFFFFF0000000F, srcnt := 0 }

/-- A write of a register of thread scope in a lane. -/
def Thread.sysWrite (th : Thread) (y : Nat) (v : Word) : Thread :=
  if y = 0x010 then { th with trapCause := lowBits v 8 }
  else if y = 0x011 then { th with trapPc := lowBits v 48, trapPt := .header (v.setWidth 48) }
  else if y = 0x012 then { th with trapAddr := lowBits v 48 }
  else if y = 0x034 then { th with weight := v }
  else th

/-- The new value of SY.SPERR: tenants clear it with V; the harbour, whose access is RW, writes V, WR and OFF with the value. DESIGN CHOICE:
the manual marks the fields W1C and RO and does not say what the harbour's write of them does (log 204). -/
def sperrWrite (harbour : Bool) (old v : Word) : Word :=
  if harbour then v &&& 0xC0000000000FFFFF else if v.getLsbD 63 then 0 else old

/-- A write of SY.TSTICK or SY.LEASE: 16 bits; 0 is discarded. -/
def tickWrite (old v : Word) : Word := if v.toNat % 2 ^ 16 = 0 then old else lowBits v 16

/-- A write of a system register by the lanes of an issue; none while it must wait. SY.PREHDL and SY.PREBUD, read or written, are those of the
issuing team's own function also on a harbour core: DESIGN CHOICE (log 202). -/
def State.sysWrite (s : State) (i : Iss) (y : Nat) : Option State :=
  let v := i.v 0 i.low
  if y = 0x001 then some (s.updGrp i.t i.g fun g => g.setFpmode v)
  else if 0x008 ≤ y ∧ y ≤ 0x00B then some (s.updGrp i.t i.g fun g => { g with amax := SMap.set 0 g.amax (y - 0x008) v })
  else if y = 0x013 then some (s.updTeam i.t fun tm => { tm with trapvec := v &&& 0xFFFFFFFFFFFC })
  else if y = 0x018 then some (s.updFn i.fn fun f => { f with prehdl := lowBits v 48 })
  else if y = 0x020 then some (s.updTeam i.t fun tm => { tm with sperr := sperrWrite i.harbour tm.sperr v })
  else if y = 0x021 then some (s.updTeam i.t fun tm => { tm with dbgctl := lowBits v 2 })
  else if y = 0x022 then some (s.updTeam i.t fun tm => { tm with bpaddr := lowBits v 48 })
  else if 0x040 ≤ y ∧ y ≤ 0x047 then some (s.updTeam i.t fun tm => { tm with rgnva := SMap.set 0 tm.rgnva (y - 0x040) (v &&& 0xFFFFFFFFFF80) })
  else if 0x048 ≤ y ∧ y ≤ 0x04F then s.writeRgnctl i.t (y - 0x048) v
  else if !i.harbour then some s
  else if y = 0x002 then some { s with cache := { s.cache with tstick := tickWrite s.cache.tstick v } }
  else if y = 0x003 then some { s with cache := { s.cache with lease := tickWrite s.cache.lease v } }
  else if y = 0x019 then some (s.updFn i.fn fun f => { f with prebud := lowBits v 32 })
  else if y = 0x800 then some { s with part := { s.part with hvf := SMap.set 0 s.part.hvf i.core (v.toNat % 16) } }
  else if y = 0x801 then some (if 8 < v.toNat % 16 then s else { s with part := { s.part with split := SMap.set 0 s.part.split i.core (v.toNat % 16) } })
  else some (s.updGrp i.t i.g fun g => overLanes i.lanes (fun l g => g.updTh l fun th => th.sysWrite y (i.v 0 l)) g)

/-- Whether a system register is one of a team, and whether one that groups of a core share (R127). -/
def sysOfTeam (y : Nat) : Bool := [0x013, 0x020, 0x021, 0x022].contains y || decide (0x040 ≤ y ∧ y ≤ 0x04F)
def sysShared (y : Nat) : Bool := sysOfTeam y || [0x002, 0x003, 0x018, 0x019, 0x800, 0x801].contains y

/-- Whether a group of a higher number has written the register in this cycle: its write stands (R127). -/
def State.mtsLater (s : State) (i : Iss) (y : Nat) : Bool :=
  sysShared y && s.teams.any fun e => e.2.core = i.core && (e.1 = i.t || !sysOfTeam y) &&
    e.2.groups.any fun h => decide (i.g < h.1) && h.2.pace.wrote == (y, s.clk.cycle + 1)

/-- A group has written a shared register in this cycle. -/
def State.mtsNoted (s : State) (i : Iss) (y : Nat) : State :=
  if sysShared y then s.updGrp i.t i.g fun g => { g with pace := { g.pace with wrote := (y, s.clk.cycle + 1) } } else s

/-! ## Fences of atomics, and room in L1 -/

/-- FENCE.ACQ that follows an atomic with ACQ is over once the lane's values have returned: the core then drops its SW lines (R85, R218). -/
def State.settleFences (s : State) : State :=
  s.teams.foldl (fun s e => e.2.groups.foldl (fun s h => h.2.thr.foldl (fun s x => match x.2.acq with
    | some sc => if h.2.acqWaits x.1 then s
        else (s.acquire e.2.core sc).updGrp e.1 h.1 fun g => g.updTh x.1 fun th => { th with acq := none }
    | none => s) s) s) s

/-- Lines of a core's L1, but for those of pinned pages, which have their own portion (R65, R80). -/
def State.l1Lines (s : State) (core : Nat) : List L1Line := s.cache.l1.filter fun e => e.core = core && e.kind != 4

/-- Lines leave a core's L1 of 128 KB by eviction, modified ones by a write-back (R15, R77); the free value chooses them. -/
def State.evict (s : State) (core : Nat) : Nat → State
  | 0 => s
  | k + 1 =>
    let ls := s.l1Lines core
    match ls[(s.free (2 ^ 23 + k)).toNat % ls.length]? with
    | some v => ((s.l1Clean core v.line).l1Drop core v.line).evict core k
    | none => s

/-- No core holds more lines than its L1 has room for. -/
def State.fitL1 (s : State) : State :=
  ((s.cache.l1.map (·.core)).eraseDups).foldl (fun s c => s.evict c ((s.l1Lines c).length - 1024)) s

/-! ## HALTT (R259) -/

/-- A group is halted: at its boundary it parks with its mark; groups in other states keep them. -/
def Group.halted (g : Group) (cycle : Nat) : Group :=
  match g.st with
  | .ready => { g.leave .parked cycle with halt := true }
  | .active => { g.leave .parked cycle with halt := true }
  | .done => g
  | _ => { g with halt := true }

/-- Every other group of the team is halted. -/
def Team.haltOthers (tm : Team) (g cycle : Nat) : Team :=
  tm.mapGroups fun k gr => if k = g ∨ gr.halt then gr else gr.halted cycle

/-- What a word that waits at issue still waits for, in one lane: the conditions of the header where it stands, but for OQ, which only
an active group's streams can meet (R54, R95); what its fence waits for (R78). -/
def State.wordWaits (s : State) (t g l : Nat) : Bool :=
  let i := mkIss {} { team := t, grp := g, lanes := laneBit l } s
  match s.codeWord (s.team t).regime i.pt.addr.toNat with
  | none => false
  | some w =>
    if i.pt.pos = 0 then
      match decodeHeader w with
      | .ok (.clauseHeader _ _ _ _ tf eq dr mx sf st ld _ n) =>
        (((s.grp t g).th l).reached).isSome && !s.waitsHold i { ld := ld, st := st, sf := sf, mx := mx, dr := dr, eq := eq, tf := tf, oq := none } n.toNat
      | _ => false
    else
      match decodeInstr w with
      | .ok (.fenceRel _ c) => s.relWaits (i.who l) c.toNat
      | .ok (.fenceAcq _ _) => (s.grp t g).acqWaits l
      | .ok (.fenceAr _ c) => s.relWaits (i.who l) c.toNat || (s.grp t g).acqWaits l
      | _ => false

/-- Whether every outstanding dependence of a parked group is satisfied (R51): its marked lanes' results are written, its words' waits are
over, the scratchpad lines that it needs are present, and some lane can take its next word. -/
def State.depsMet (s : State) (t g : Nat) : Bool :=
  let gr := s.grp t g
  !(s.issues t g).isEmpty && (gr.pace.needs.all fun l => s.touch t l != .absent) &&
  (lanesOf gr.live).all fun l => !((gr.th l).waitRes && s.waits t g l) && !(decide ((gr.th l).run = .running) && s.wordWaits t g l)

/-- Halt marks are cleared; groups whose dependences are satisfied become READY (R259). -/
def State.unhalt (s : State) (t : Nat) : State :=
  ((s.team t).groupList.filter fun k => (s.grp t k).halt).foldl (fun s k =>
    let s := s.updGrp t k fun gr => { gr with halt := false }
    if (s.grp t k).st = .parked ∧ (s.grp t k).awaits.isNone ∧ s.depsMet t k then s.updGrp t k fun gr => gr.enter .ready s.clk.cycle else s) s

/-- TXBEG (R239). Opens a transaction for the lanes: checkpoint, x[D] := 0, SY.TXNEST := 1. -/
def execTxbeg (sm : Bool) (d : BitVec 6) : State → Host.Outcome State Fault Refusal :=
  issue (opOf (.txbeg sm d)) (fun i s =>
    let g := s.grp i.t i.g
    if g.tx.isSome then .trap 0x0D false fun _ => 0
    else
      let prio := decide (16 ≤ g.txConfl)
      let x : Tx := { parts := i.lanes, dreg := d.toNat, beg := i.pt, aft := i.pt.next, ck := g.checkpoint s.clk.seq i.lanes,
                      prio := prio, ts := s.beginTime i.core prio }
      .done (s.updGrp i.t i.g fun g =>
        { overLanes i.lanes (fun l (g : Group) => g.wrX l d.toNat 0) g with tx := some x }.mapTh i.lanes fun th => { th with txNest := 1 }))

/-- TXEND (R241). The lanes park; when all of P stand here the transaction commits or aborts. -/
def execTxend (sm : Bool) : State → Host.Outcome State Fault Refusal :=
  issue { (opOf (.txend sm)) with sm := false } (fun i s =>
    .went ((s.updGrp i.t i.g fun g =>
      ((g.place i.lanes i.pt.next).marked i.lanes 0 i.pt sm).mapTh i.lanes fun th => { th with run := .txend }).tryCommit i.t i.g))

/-- RETRY (R244). The innermost alternative runs; without a frame the group sleeps on its read set. -/
def execRetry (sm : Bool) : State → Host.Outcome State Fault Refusal :=
  issue (opOf (.retry sm)) (fun i s =>
    match (s.grp i.t i.g).tx with
    | none => .done s
    | some x =>
      match x.frames with
      | f :: rest => .went (s.updGrp i.t i.g fun g => g.takeAlt x f rest) i.lanes
      | [] => .went (s.sleepTx i.t i.g x) i.lanes)

/-- TXELSE (R243). Opens a frame whose alternative is the target. -/
def execTxelse (sm : Bool) (o : BitVec 20) : State → Host.Outcome State Fault Refusal :=
  issue (opOf (.txelse sm o)) (fun i s =>
    match (s.grp i.t i.g).tx with
    | none => .done s
    | some x =>
      if 8 ≤ x.frames.length then .trap 0x0D false fun _ => 0
      else
        .done (s.updGrp i.t i.g fun g =>
          { g with tx := some { x with frames := { alt := i.pt.target o, ck := g.checkpoint s.clk.seq x.parts } :: x.frames } }.mapTh x.parts
            fun th => { th with txNest := th.txNest + 1 }))

/-- TXABT (R245). The transaction ends at once with status 2 + 256·code. -/
def execTxabt (sm : Bool) (c : BitVec 6) : State → Host.Outcome State Fault Refusal :=
  issue (opOf (.txabt sm c)) (fun i s =>
    .went (s.updGrp i.t i.g fun g => g.abortTx (.code c.toNat) 0) i.lanes)

/-- TDEC (R246). Each lane decrements the DEPCNT of its record; held inside a transaction. -/
def execTdec (sm : Bool) (a : BitVec 6) : State → Host.Outcome State Fault Refusal :=
  issue (opOf (.tdec sm a)) (fun i s =>
    let ea (l : Nat) : Nat := (i.v 0 l).toNat % 2 ^ 48
    let lanes := (lanesOf i.lanes).filter fun l => !i.txl.getLsbD l
    if misaligned lanes 128 ea then .trap 0x04 false fun l => BitVec.ofNat 64 (ea l)
    else match s.checkLanes i .store notHc lanes ea with
      | .error r => r
      | .ok xs =>
        let s := (lanesOf i.txl).foldl (fun s l => s.holdAct i.t i.g (.tdec l (ea l))) s
        .done (xs.foldl (fun s e => (s.keep i.rg (ea e.1) e.2).launch i.fn i.harbour [.decPa e.2.pa (ea e.1)]) s))

/-- TSPAWN (R247). The team leader spawns the record at its address; other lanes read 0. -/
def execTspawn (sm : Bool) (d a : BitVec 6) : State → Host.Outcome State Fault Refusal :=
  issue (opOf (.tspawn sm d a)) (fun i s =>
    let lead := i.g = 0 && i.lanes.getLsbD 0
    let ea (l : Nat) : Nat := (i.v 0 l).toNat % 2 ^ 48
    let others (s : State) : State := ((lanesOf i.lanes).filter fun l => !(lead && l = 0)).foldl (fun s l => s.later i l d.toNat 0) s
    if !lead then .done (others s)
    else if i.txl.getLsbD 0 then
      let (p, s) := s.unborn i 0 d.toNat
      .done (others (s.holdAct i.t i.g (.tspawn 0 d.toNat (ea 0) p)))
    else if ((s.grp i.t i.g).th 0).depth = 9 then .trap 0x0D false fun _ => 0
    else if ea 0 % 128 ≠ 0 then .trap 0x04 false fun l => BitVec.ofNat 64 (ea l)
    else match s.checkLanes i .store notHc [0] ea with
      | .error r => r
      | .ok xs =>
        let x := (xs.map fun e => e.2).headD {}
        if s.isPoison x.key 128 then .trap 0x08 false fun l => BitVec.ofNat 64 (ea l)
        else
          let (st, ds, s) := (s.keep i.rg (ea 0) x).spawn i.t (BitVec.ofNat 1024 (s.rd x.key 128)) (ea 0) x
          .done (others ((s.later i 0 d.toNat (BitVec.ofNat 64 st)).launch i.fn i.harbour ds)))

/-- BARV (R249). The lanes park at a barrier object; the group arrives when all its threads have. -/
def execBarv (sm : Bool) (a : BitVec 6) : State → Host.Outcome State Fault Refusal :=
  issue (opOf (.barv sm a)) (fun i s =>
    let off := (i.v 0 i.low).toNat % 2 ^ 48
    if off % 8 ≠ 0 then .trap 0x04 true fun _ => BitVec.ofNat 64 off
    else if !(s.team i.t).inRange off 8 then .trap 0x06 true fun _ => BitVec.ofNat 64 off
    else match spGate i 8 (fun _ => off) s with
      | some r => r
      | none =>
        if (lanesOf i.lanes).any (s.grp i.t i.g).acqWaits then .hold id
        else .went ((s.updGrp i.t i.g fun g => (g.place i.lanes (.header i.pt.link)).mapTh i.lanes fun th => { th with run := .barv off }).tryArrive i.t i.g))

/-- WSPLIT (R250). The lowest lane gives weight to the others. -/
def execWsplit (sm : Bool) (d a : BitVec 6) : State → Host.Outcome State Fault Refusal :=
  issue (opOf (.wsplit sm d a)) (fun i s => wsplit i d.toNat i.g i.low s)

/-- WSPLIT_LDR (R250). The team leader gives weight to the lanes. -/
def execWsplitLdr (sm : Bool) (d a : BitVec 6) : State → Host.Outcome State Fault Refusal :=
  issue (opOf (.wsplitLdr sm d a)) (fun i s => wsplit i d.toNat 0 0 s)

/-- WRET (R251). Each lane returns its weight to the root once its stores have drained. -/
def execWret (sm : Bool) : State → Host.Outcome State Fault Refusal :=
  issue (opOf (.wret sm)) (fun i s =>
    let lanes := (lanesOf i.lanes).filter fun l => !i.txl.getLsbD l
    if !lanes.all (s.drained i.t i.g) then .hold id
    else
      let s := (lanesOf i.txl).foldl (fun s l => s.holdAct i.t i.g (.wret l)) s
      let root := (s.team i.t).root
      let ds := if root = 0 then [] else (lanes.filter fun l => s.weightOf i.t i.g l != 0).map fun l => Deed.ret root (s.weightOf i.t i.g l) false
      .done ((lanes.foldl (fun s l => s.setWeight i.t i.g l 0) s).launch i.fn i.harbour ds (some (i.t, i.g, i.lanes &&& ~~~ i.txl))))

/-- WBORROW (R252). Each lane borrows units from the root; the grant goes to x[D]. -/
def execWborrow (sm : Bool) (d a : BitVec 6) : State → Host.Outcome State Fault Refusal :=
  issue (opOf (.wborrow sm d a)) (fun i s =>
    .done ((lanesOf i.lanes).foldl (fun s l =>
      let (p, s) := s.unborn i l d.toNat
      if i.txl.getLsbD l then s.holdAct i.t i.g (.wborrow l d.toNat (i.v 0 l) p)
      else s.launch i.fn i.harbour [.borrow i.t i.g l (i.v 0 l) p]) s))

/-- IDEND (R253). Ends the discardable period of an idempotent team. -/
def execIdend (sm : Bool) : State → Host.Outcome State Fault Refusal :=
  issue (opOf (.idend sm)) (fun i s => .done (s.updTeam i.t fun tm => { tm with discardable := false }))

/-- NOP (R254). No effect. -/
def execNop (sm : Bool) : State → Host.Outcome State Fault Refusal :=
  issue (opOf (.nop sm)) (fun _ s => .done s)

/-- YIELD (R254). The group gives up its place where another group of the core is READY. -/
def execYield (sm : Bool) : State → Host.Outcome State Fault Refusal :=
  issue (opOf (.yield sm)) (fun i s =>
    .done (if (s.groupsOn i.core fun _ g => g.st = .ready).isEmpty then s
      else s.updGrp i.t i.g fun g => g.leave .ready s.clk.cycle))

/-- MFS (R255). x[D] takes a system register; SY.TIME and SY.OSAT as variable-latency results. -/
def execMfs (sm : Bool) (d : BitVec 6) (y : BitVec 12) : State → Host.Outcome State Fault Refusal :=
  issue (opOf (.mfs sm d y)) (fun i s =>
    if y = 0x000 ∨ y = 0x030 then .done ((lanesOf i.lanes).foldl (fun s l => pendField i .ld d.toNat l (s.sysRead i y.toNat l) s) s)
    else .done (setD i d.toNat (fun l => s.sysRead i y.toNat l) s))

/-- MTS (R127, R255). A system register takes x[D]; of a shared one, the lowest lane writes, and of two groups' writes in one cycle that of
the higher group number stands. -/
def execMts (sm : Bool) (d : BitVec 6) (y : BitVec 12) : State → Host.Outcome State Fault Refusal :=
  issue (opOf (.mts sm d y)) (fun i s =>
    match (if s.mtsLater i y.toNat then some s else s.sysWrite i y.toNat) with
    | some s => .done (s.mtsNoted i y.toNat)
    | none => .hold fun s => s.rgnAsk i.t [y.toNat - 0x048])

/-- TRAP (R256). Raises cause 0x0E with the immediate. -/
def execTrap (sm : Bool) (i : BitVec 12) : State → Host.Outcome State Fault Refusal :=
  issue (opOf (.trap sm i)) (fun _ _ => .trap 0x0E false fun _ => i.setWidth 64)

/-- ERET (R257). The lanes return from their trap handler to the trapping word. -/
def execEret (sm : Bool) : State → Host.Outcome State Fault Refusal :=
  issue (opOf (.eret sm)) (fun i s => .went ((s.updGrp i.t i.g fun g => g.eret i.lanes false).tryArrive i.t i.g) i.lanes)

/-- ERET_NEXT (R257). The lanes return from their trap handler past the trapping word. -/
def execEretNext (sm : Bool) : State → Host.Outcome State Fault Refusal :=
  issue (opOf (.eretNext sm)) (fun i s => .went ((s.updGrp i.t i.g fun g => g.eret i.lanes true).tryArrive i.t i.g) i.lanes)

/-- HALTT (R259). Halts every other group of the team, and waits until their results are written. -/
def execHaltt (sm : Bool) : State → Host.Outcome State Fault Refusal :=
  issue (opOf (.haltt sm)) (fun i s =>
    let s1 := s.updTeam i.t fun tm => tm.haltOthers i.g s.clk.cycle
    if (s1.team i.t).groups.any fun e => e.1 != i.g && e.2.unready 0xFFFFFFFF then .hold fun s => s.updTeam i.t fun tm => tm.haltOthers i.g s.clk.cycle
    else .done (s1.updTeam i.t fun tm => tm.mapGroups fun k gr => if k = i.g then gr else gr.settle 0xFFFFFFFF))

/-- HALTT_REL (R259). Clears every halt mark of the team. -/
def execHalttRel (sm : Bool) : State → Host.Outcome State Fault Refusal :=
  issue (opOf (.halttRel sm)) (fun i s => .done (s.unhalt i.t))

/-- TIMER (R260). Arms an entry of the timer table; p[K] says whether there was room. -/
def execTimer (sm : Bool) (d : BitVec 5) (k : BitVec 3) : State → Host.Outcome State Fault Refusal :=
  issue (opOf (.timer sm d k)) (fun i s =>
    let addr := (i.v 0 i.low).toNat % 2 ^ 48
    if i.txl ≠ 0 then
      let (ps, s) := (lanesOf i.lanes).foldl (fun (r : List Nat × State) l => (r.1 ++ [r.2.clk.ids],
        r.2.pend i { id := 0, seq := 0, kind := .other, lane := l, file := .p, reg := k.toNat, val := 0, ready := false })) ([], s)
      .done (s.holdAct i.t i.g (.timer addr (i.v 1 i.low) ps))
    else if addr % 128 ≠ 0 then .trap 0x04 false fun _ => BitVec.ofNat 64 addr
    else
      let (ok, s) := s.armTimer i.fn i.harbour addr (i.v 1 i.low)
      .done (setPd i k.toNat (fun _ => ok) s))

/-- SPERR_CLEAR (R129). SY.SPERR of the team is cleared. -/
def execSperrClear (team : Nat) : State → Host.Outcome State Fault Refusal :=
  fun s => .next (if s.hasTeam team then s.updTeam team fun tm => { tm with sperr := 0 } else s)

/-- FPMODE_WRITE (R145). The mode takes the value, and SRCNT is zeroed. -/
def execFpmodeWrite (team grp : Nat) (v : BitVec 64) : State → Host.Outcome State Fault Refusal :=
  fun s => .next (if s.hasGrp team grp then s.updGrp team grp fun g => g.setFpmode v else s)

/-- RGNCTL_WRITE (R72). The region map takes the value, once an enabled region is written back. -/
def execRgnctlWrite (team k : Nat) (v : BitVec 64) : State → Host.Outcome State Fault Refusal :=
  fun s => .next (if 8 ≤ k ∨ !s.hasTeam team then s else (s.writeRgnctl team k v).getD (s.rgnAsk team [k]))

/-- HVF_WRITE (R131). SY.HVF of the core takes the function number. -/
def execHvfWrite (core : Nat) (v : BitVec 64) : State → Host.Outcome State Fault Refusal :=
  fun s => .next (if coreExists core then { s with part := { s.part with hvf := SMap.set 0 s.part.hvf core (v.toNat % 16) } } else s)

end Sys2Proof.Machine
end

