-- ==== Sys2Proof/Machine/EngineOps.lean ====
section
/-! DEFINITION. Push and the engine commands (R283–R290): acceptance, the copy, chain, collective, message and event engines, completion. -/

namespace Sys2Proof.Machine

open Sys2Proof

/-! ## Push (R283) -/

/-- The command image in a lane: eight doublewords. -/
def Iss.image (i : Iss) (l : Nat) : BitVec 512 := BitVec.ofNat 512 (ofDwords ((List.range 8).map fun k => (i.v k l).toNat))

/-- The flag of a push, a variable-latency result in a predicate (R95); `ready` is false while a transaction holds the push. -/
def State.pushFlag (s : State) (i : Iss) (pd l : Nat) (v ready : Bool) : Nat × State :=
  (s.clk.ids, s.pend i { id := 0, seq := 0, kind := .eq, lane := l, file := .p, reg := pd, val := if v then 1 else 0, ready := ready })

/-- Flags of lanes for one push. -/
def State.pushFlags (s : State) (i : Iss) (pd : Nat) (lanes : List Nat) (v ready : Bool) : List Nat × State :=
  lanes.foldl (fun r l => let (p, s) := r.2.pushFlag i pd l v ready; (r.1 ++ [p], s)) ([], s)

/-- The lanes of PUSHX that have not pushed, in ascending order: whether one must wait, and the state (R283). -/
def pushxLanes (i : Iss) (q pd : Nat) (rel : Bool) : List Nat → State → Bool × State
  | [], s => (false, s)
  | l :: t, s =>
    let mark (s : State) : State := s.updGrp i.t i.g fun g => { g with pushed := g.pushed ||| laneBit l }
    if i.txl.getLsbD l then
      let (p, s) := s.pushFlag i pd l false false
      pushxLanes i q pd rel t (mark (s.holdAct i.t i.g (.push q (i.image l) l (laneBit l) pd rel [p])))
    else if (s.team i.t).spFull q (i.image l) then (true, s)
    else
      let (full, s) := s.pushCmd i.t i.g l q (i.image l) rel
      pushxLanes i q pd rel t (mark (s.pushFlag i pd l full true).2)

/-! ## Placing and ending commands -/

/-- A message leaves its engine: to this package's own dies, or on a Longshore link (R289). -/
def State.sendMsg (s : State) (c : Cmd) : State :=
  if s.peerPkg c.fn (bf (cdw c.img 2) 57 48) = Config.package then s.updCmd c.id fun c => { c with st := .sent, started := true }
  else { s.updCmd c.id fun c => { c with st := .spawned, started := true, away := true } with
         outbox := s.outbox ++ [.amsg (s.tagsOf c.fn (bf (cdw c.img 2) 57 48) c.scls c.dloff) c.img] }

/-- A malformed command that can start fails (R7, R349, R422); a row command with an operand out of line names that operand's row 0. -/
def State.refuseCmd (s : State) (c : Cmd) : State :=
  if c.qn < 8 then
    match (if c.qn = 4 ∧ 0x40 ≤ cmdCode c.img ∧ cmdCode c.img ≤ 0x43 then rowSkew c.img else none) with
    | some i => s.cmdFail c.id 0x20 1 (cmdAddr c.img i) 0
    | none => s.cmdFail c.id 0x20 0 0 0
  else if s.partTurn c then s.partEnd c.id 1 0
  else s

/-- PUSH (R283). The eight uniform registers from wA go to a queue; each lane of the issue gets the flag. -/
def execPush (sm : Bool) (q a : BitVec 6) (p : BitVec 3) (r : Bool) : State → Host.Outcome State Fault Refusal :=
  issue (opOf (.push sm q a p r)) (fun i s =>
    let m := i.image i.low
    if !i.txl.getLsbD i.low && !queueOk i.core q.toNat then .trap 0x0B false fun _ => 0
    else if i.txl.getLsbD i.low then
      let (ps, s) := s.pushFlags i p.toNat (lanesOf i.lanes) false false
      .done (s.holdAct i.t i.g (.push q.toNat m i.low i.lanes p.toNat r ps))
    else if (s.team i.t).spFull q.toNat m then .hold id
    else
      let (full, s) := s.pushCmd i.t i.g i.low q.toNat m r
      .done (s.pushFlags i p.toNat (lanesOf i.lanes) full true).2)

/-- PUSHX (R283). Each lane pushes the command in its eight thread registers, in ascending order. -/
def execPushx (sm : Bool) (q a : BitVec 6) (p : BitVec 3) (r : Bool) : State → Host.Outcome State Fault Refusal :=
  issue (opOf (.pushx sm q a p r)) (fun i s =>
    let left := (lanesOf i.lanes).filter fun l => !(s.grp i.t i.g).pushed.getLsbD l
    let (waits, s1) := pushxLanes i q.toNat p.toNat r left s
    if i.lanes &&& ~~~ i.txl != 0 && !queueOk i.core q.toNat then .trap 0x0B false fun _ => 0
    else if waits then .hold fun _ => s1
    else .done (s1.updGrp i.t i.g fun g => { g with pushed := g.pushed &&& ~~~ i.lanes }))

/-- SCRATCHPAD_ARRIVAL (R69). An engine’s data for a line arrive; its pending count falls when they are the command’s last. -/
def execScratchpadArrival (op : Nat) : State → Host.Outcome State Fault Refusal :=
  fun s => .next (match s.eng.arrivals.find? fun a => a.id = op with
    | none => s
    | some a =>
      let s := { s with eng := { s.eng with arrivals := s.eng.arrivals.filter fun b => b.id != op } }
      let s := if s.hasTeam a.team then s.updTeam a.team fun tm =>
          (a.bytes.foldl (fun tm b => tm.spWrite b.1 1 b.2.toNat (s.stampNow tm.dloff)) tm).updLine a.line fun l =>
            { l with poison := l.poison && decide (a.bytes.length < 128) }
        else s
      s.settleLines a.cmd)

/-- COPY (R286). Rows of bytes are copied. -/
def execCopy : State → Host.Outcome State Fault Refusal :=
  fun s => engine s.item 0 0x01 (copyWork false) s

/-- FILL (R286). Rows are filled with a pattern. -/
def execFill : State → Host.Outcome State Fault Refusal :=
  fun s => engine s.item 0 0x02 (copyWork true) s

/-- CHAIN (R287). Up to eight operations on each element. -/
def execChain : State → Host.Outcome State Fault Refusal :=
  fun s => engine s.item 1 0x10 chainWork s

/-- ALLREDUCE (R288). For the members of this package at once; the sources of members elsewhere arrive with the event. -/
def execAllreduce (cmd : Nat) (remote : List (Nat × List (BitVec 64))) : State → Host.Outcome State Fault Refusal :=
  collective cmd 0x20 remote

/-- REDUCE (R288). For the members of this package at once; the sources of members elsewhere arrive with the event. -/
def execReduce (cmd : Nat) (remote : List (Nat × List (BitVec 64))) : State → Host.Outcome State Fault Refusal :=
  collective cmd 0x21 remote

/-- BROADCAST (R288). For the members of this package at once; the sources of members elsewhere arrive with the event. -/
def execBroadcast (cmd : Nat) (remote : List (Nat × List (BitVec 64))) : State → Host.Outcome State Fault Refusal :=
  collective cmd 0x22 remote

/-- ALLGATHER (R288). For the members of this package at once; the sources of members elsewhere arrive with the event. -/
def execAllgather (cmd : Nat) (remote : List (Nat × List (BitVec 64))) : State → Host.Outcome State Fault Refusal :=
  collective cmd 0x23 remote

/-- REDUCESCATTER (R288). For the members of this package at once; the sources of members elsewhere arrive with the event. -/
def execReducescatter (cmd : Nat) (remote : List (Nat × List (BitVec 64))) : State → Host.Outcome State Fault Refusal :=
  collective cmd 0x24 remote

/-- AMSG (R289). The message goes to its destination. -/
def execAmsg : State → Host.Outcome State Fault Refusal :=
  fun s => .next (match s.cmdFor s.item 3 0x30 with
    | none => s
    | some c => s.sendMsg c)

/-- EVT (R290). A completion record with status event goes to the named ring; the command ends when it is written. -/
def execEvt : State → Host.Outcome State Fault Refusal :=
  fun s => .next (match s.cmdFor s.item 7 0x70 with
    | none => s
    | some c => (s.updCmd c.id fun c => { c with st := .spawned, started := true }).launch c.fn c.harbour
        [.post (bf (cdw c.img 2) 5 0) (complRec (bf (cdw c.img 2) 63 32) 3 0 false 0 0 0), .cmdEnd c.id])

/-- COMMAND_COMPLETION (R285). Once every write of the command is performed, its record, its CPL action and its weight follow in order. A malformed command fails here. -/
def execCommandCompletion : State → Host.Outcome State Fault Refusal :=
  fun s => .next (match s.eng.cmds.find? fun c => c.id = s.item with
    | none => s
    | some c =>
      if c.st = .done then (if (s.eng.arrivals.any fun a => a.cmd = c.id) || !c.deltas.isEmpty then s else s.endCmd c.id)
      else if s.startable c && cmdBad c.qn c.img then s.refuseCmd c
      else s)

end Sys2Proof.Machine
end

