-- ==== Sys2Proof/Machine/MatrixOps.lean ====
section
/-! DEFINITION. The matrix unit of a pair (R261–R281): reservation records, tile fetches, accumulator grants, the matrix queue, MMAs and drains. -/

namespace Sys2Proof.Machine

open Sys2Proof

/-! ## Records, grants and the queue (R262, R266, R273) -/

/-- The record of a team's handle: physical number and record. -/
def PairMtx.recAny (p : PairMtx) (t h : Nat) : Option (Nat × ObRec) :=
  (p.recs.filterMap fun e => match e.2 with
    | some r => if r.team = t ∧ r.handle = h then some (e.1, r) else none
    | none => none).head?

/-- A record that a queued OB.REL will release. -/
def PairMtx.leaving (p : PairMtx) (k : Nat) : Bool := p.queue.any fun e => e.op = .obRel k

/-- The record that a handle names: held, and not released by an earlier OB.REL (R268). -/
def PairMtx.recOf (p : PairMtx) (t h : Nat) : Option (Nat × ObRec) :=
  match p.recAny t h with
  | some e => if p.leaving e.1 then none else some e
  | none => none

/-- How many records a team holds. -/
def PairMtx.recCount (p : PairMtx) (t : Nat) : Nat :=
  (p.recs.filter fun e => match e.2 with | some r => r.team = t | none => false).length

/-- The first free physical record, of 48. -/
def PairMtx.freeRec (p : PairMtx) : Option Nat := (List.range 48).find? fun k => (SMap.get none p.recs k).isNone

/-- Write a physical record. -/
def PairMtx.setRec (p : PairMtx) (k : Nat) (r : Option ObRec) : PairMtx := { p with recs := SMap.set none p.recs k r }

/-- Write a physical bank. -/
def PairMtx.setBank (p : PairMtx) (k : Nat) (b : Option Bank) : PairMtx := { p with banks := SMap.set none p.banks k b }

/-- Change a physical bank. -/
def PairMtx.updBank (p : PairMtx) (k : Nat) (f : Bank → Bank) : PairMtx :=
  { p with banks := SMap.set none p.banks k ((SMap.get none p.banks k).map f) }

/-- Whether a queued ACC.REL gives a bank back (R274). -/
def PairMtx.ungranted (p : PairMtx) (k : Nat) : Bool :=
  p.queue.any fun e => match e.op with | .accRel bs => bs.contains k | _ => false

/-- A group's grant: physical banks with their indices. Banks of a grant that it has released belong to it no more (R273, R274). -/
def PairMtx.grant (p : PairMtx) (t g : Nat) : List (Nat × Bank) :=
  p.banks.filterMap fun e => match e.2 with
    | some b => if b.team = t ∧ b.grp = g ∧ !p.ungranted e.1 then some (e.1, b) else none
    | none => none

/-- The bank of an index in a group's grant. -/
def PairMtx.bankOf (p : PairMtx) (t g k : Nat) : Option (Nat × Bank) := (p.grant t g).find? fun e => e.2.idx = k

/-- A bank that an instruction may name: in the grant, and not the high bank of an FP64 tile (R275). -/
def PairMtx.nameable (p : PairMtx) (t g k : Nat) : Option (Nat × Bank) :=
  match p.bankOf t g k with
  | some e => if e.2.st = .fp64hi then none else some e
  | none => none

/-- Physical banks of a tile: one, or two for FP64. -/
def PairMtx.tileBanks (p : PairMtx) (t g : Nat) (e : Nat × Bank) : List Nat :=
  if e.2.st = .fp64lo then e.1 :: ((p.bankOf t g (e.2.idx + 1)).map fun h => h.1).toList else [e.1]

/-- Banks and records that an operation reads or writes. -/
def MtxOp.banks : MtxOp → List Nat
  | .mma _ _ b hi cl _ _ => b :: (hi.toList ++ cl)
  | .accZero bs => bs
  | .accRd b _ _ _ _ _ => [b]
  | .drain _ _ _ _ _ bs _ _ _ => bs
  | .accRel bs => bs
  | _ => []
def MtxOp.recs : MtxOp → List Nat
  | .mma _ _ _ _ _ ra rb => [ra, rb]
  | .drain _ _ _ _ r _ _ _ _ => [r]
  | .unpin r _ => [r]
  | .obRel r => [r]
  | _ => []

/-- Whether an operation must wait for an earlier one (R262). -/
def MtxOp.after (a b : MtxOp) : Bool :=
  (a.isMma && b.isMma) || (a.banks.any b.banks.contains) || a.recs.any b.recs.contains

/-- Positions of the queue whose operations wait for no earlier one. -/
def PairMtx.ready (p : PairMtx) : List (Nat × MtxEnt) :=
  ((List.range p.queue.length).zip p.queue).filter fun e => !((p.queue.take e.1).any fun q => e.2.op.after q.op)

/-- Bindings of a record that queued operations leave for the next to consume (R270, R277). -/
def PairMtx.unclaimed (p : PairMtx) (k : Nat) (r : ObRec) : List Binding :=
  p.queue.foldl (fun bs e => if !e.op.recs.contains k then bs else match e.op with
    | .mma _ _ _ _ _ _ _ => (match bs with
      | b :: rest => if b.keep then b :: rest else rest
      | [] => [])
    | .unpin _ all => if all then [] else bs.drop 1
    | _ => bs) r.binds

/-- The oldest binding goes; the other one, if any, is then the oldest. -/
def ObRec.dropOldest (r : ObRec) : ObRec := { r with binds := r.binds.drop 1, old := (r.old + 1) % 2 }

/-- The oldest binding is consumed unless it is kept (R277). -/
def ObRec.consume (r : ObRec) : ObRec :=
  match r.binds with
  | b :: _ => if b.keep then r else r.dropOldest
  | [] => r

/-- An issue's operation joins the queue. -/
def State.enqueueMtx (s : State) (i : Iss) (op : MtxOp) (sw : Bool := false) (hc : Bool := false) : State :=
  s.updPair (i.core / 2) fun p => { p with queue := p.queue ++ [{ team := i.t, grp := i.g, lanes := i.lanes, seq := s.clk.seq, sw := sw, hc := hc, op := op }] }

/-- Whether the queue of 16 is full. -/
def PairMtx.full (p : PairMtx) : Bool := decide (16 ≤ p.queue.length)

/-- Remove a queue entry. -/
def PairMtx.drop (p : PairMtx) (n : Nat) : PairMtx := { p with queue := p.queue.eraseIdx n }

/-- A bank cleared (R275). -/
def Bank.cleared (b : Bank) : Bank := { b with val := [], flags := 0, poison := 0 }

/-- Elements of an ACC.RD in a lane (R276). -/
def accRow (b : Bank) (st : TileSt) (row : Nat) (half : Bool) (lane : Nat) : Word :=
  let flag := b.flags.getLsbD row
  let el (j : Nat) : Nat := if flag then tileNan st else (SMap.get 0 b.val (64 * row + j)).toNat
  match st with
  | .fp64lo => BitVec.ofNat 64 (el (32 * (if half then 1 else 0) + lane))
  | .clear => 0
  | .fp64hi => 0
  | _ => BitVec.ofNat 64 (el (2 * lane) + 2 ^ 32 * el (2 * lane + 1))

/-- ACC.RD gives its results; of a poisoned row the lowest lane takes the poison (R276, R431). -/
def State.giveRow (s : State) (e : MtxEnt) (b : Bank) (st : TileSt) (idx row : Nat) (half : Bool) (pends : List (Nat × Nat)) : State :=
  let bad := b.poison.getLsbD row
  s.updGrp e.team e.grp fun gr => { gr with out := gr.out.map fun (p : Pend) =>
    match (pends.find? fun x => x.2 = p.id) with
    | some x => { p with ready := true, val := accRow b st row half x.1, addr := if p.file = .port then p.addr else 2 ^ 51 + idx,
                         poison := bad && x.1 = lowLane e.lanes, live := p.live && !bad }
    | none => p }

/-- The effect of an operation that is neither an MMA nor a drain. -/
def State.runMtx (s : State) (pr : Nat) (e : MtxEnt) : State :=
  match e.op with
  | .accZero bs => s.updPair pr fun p => bs.foldl (fun p b => p.updBank b Bank.cleared) p
  | .accRd b row half st idx pends =>
    match SMap.get none (SMap.get {} s.mtx pr : PairMtx).banks b with
    | some k => s.giveRow e k st idx row half pends
    | none => s
  | .unpin r all => s.updPair pr fun p => p.setRec r ((SMap.get none p.recs r).map fun rc => if all then { rc with binds := [] } else rc.dropOldest)
  | .obRel r => s.updPair pr fun p => p.setRec r none
  | .accRel bs => s.updPair pr fun p => bs.foldl (fun p b => p.setBank b none) p
  | _ => s

/-- Operations that need no step of their own take effect as soon as no earlier one holds them (R262). -/
def State.settleMtx (s : State) (pr : Nat) : Nat → State
  | 0 => s
  | k + 1 =>
    match (SMap.get {} s.mtx pr : PairMtx).ready.find? fun e => !e.2.op.isMma && !e.2.op.isDrain with
    | some e => ((s.runMtx pr e.2).updPair pr fun p => p.drop e.1).settleMtx pr k
    | none => s

/-- The queue takes an operation, and moves as far as it can. -/
def queueMtx (i : Iss) (op : MtxOp) (s : State) (sw : Bool := false) (hc : Bool := false) : Res :=
  if (s.pairOf i.core).full then .stall else .done ((s.enqueueMtx i op sw hc).settleMtx (i.core / 2) 16)

/-! ## MMA (R277) -/

/-- Pages that a tile may lie in (R271). -/
def tileBar (x : Xl) : Bool := x.kind != 0 || x.home = 1 || x.home = 3 || x.coh = 2

/-- The binding that an MMA will consume, at position `n` of the record's, is translated again where it is stale (R347): its failure, or the
record with the binding's new lines. -/
def State.restale (s : State) (i : Iss) (r : ObRec) (n : Nat) : Except Res ObRec :=
  match r.binds[n]? with
  | none => .ok r
  | some b =>
    if !b.stale then .ok r
    else match s.xlatePages i .load tileBar (spanPages (r.tileSpans b.row0 b.k0)) with
      | .error e => .error e
      | .ok xs => .ok { r with binds := r.binds.set n { b with stale := false, st := 1, map := s.linesOf xs (r.tileSpans b.row0 b.k0) } }

/-- Tile states after an MMA on a bank (R275): the bank, its high bank, banks that it clears, and the pair. -/
def PairMtx.retile (p : PairMtx) (t g : Nat) (e : Nat × Bank) (st : TileSt) (sA sB : BitVec 32) : Option Nat × List Nat × PairMtx :=
  let at_ (k : Nat) : Option (Nat × Bank) := p.bankOf t g k
  let set (p : PairMtx) (k : Nat) (st : TileSt) : PairMtx := p.updBank k fun b => { b with st := st, sA := sA, sB := sB }
  if st = .fp64lo then
    match at_ (e.2.idx + 1) with
    | none => (none, [], p)
    | some h =>
      let cl := if h.2.st = .fp64lo then ((at_ (e.2.idx + 2)).map fun c => c.1).toList else []
      (some h.1, cl, cl.foldl (fun p c => set p c .clear) (set (set p e.1 .fp64lo) h.1 .fp64hi))
  else
    let cl := if e.2.st = .fp64lo then ((at_ (e.2.idx + 1)).map fun c => c.1).toList else []
    (none, cl, cl.foldl (fun p c => set p c .clear) (set p e.1 st))

/-- MMA and MMA.ACC at issue. -/
def mmaIssue (acc : Bool) (i : Iss) (s : State) : Res :=
  let p := s.pairOf i.core
  let k := (i.v 2 i.low).toNat
  match p.recOf i.t (i.v 0 i.low).toNat, p.recOf i.t (i.v 1 i.low).toNat with
  | some (ra, a), some (rb, b) =>
    let st := mAcc a.fmt
    if a.role ≠ 0 ∨ b.role ≠ 1 ∨ (p.unclaimed ra a).isEmpty ∨ (p.unclaimed rb b).isEmpty ∨ !mPairs a.fmt b.fmt then .trap 0x0A false fun _ => 0
    else match p.nameable i.t i.g k with
      | none => .trap 0x0C false fun _ => 0
      | some e =>
        if st = .fp64lo ∧ (p.bankOf i.t i.g (k + 1)).isNone then .trap 0x0C false fun _ => 0
        else if acc ∧ e.2.st ≠ .clear ∧ (e.2.st ≠ st ∨ e.2.sA ≠ a.scaleBits ∨ e.2.sB ≠ b.scaleBits) then .trap 0x0A false fun _ => 0
        else match s.restale i a (a.binds.length - (p.unclaimed ra a).length), s.restale i b (b.binds.length - (p.unclaimed rb b).length) with
          | .error r, _ => r
          | _, .error r => r
          | .ok a', .ok b' =>
            let s := s.updPair (i.core / 2) fun p => (p.setRec ra (some a')).setRec rb (some b')
            if p.full then .stall
            else
              let (hi, cl, p) := (s.pairOf i.core).retile i.t i.g e st a.scaleBits b.scaleBits
              .done ((s.updPair (i.core / 2) fun _ => p).enqueueMtx i (.mma acc st e.1 hi cl ra rb))
  | _, _ => .trap 0x0A false fun _ => 0

/-- An MMA retires: its bank takes the update, the bindings are consumed (R263, R277). -/
def State.retireMma (s : State) (pr n : Nat) (acc : Bool) (st : TileSt) (bk : Nat) (hi : Option Nat) (cl : List Nat) (ra rb : Nat)
    (a b : ObRec) (ba bb : Binding) (k : Bank) : State :=
  let k' := s.mmaBank st acc a b ba bb k
  (s.updPair pr fun p =>
    let p := p.setBank bk (some k')
    let p := (hi.toList ++ cl).foldl (fun p c => p.updBank c Bank.cleared) p
    (((p.setRec ra (some a.consume)).setRec rb (some b.consume)).drop n)).settleMtx pr 16

/-! ## Tile fetches (R270) -/

/-- Lines of a tile, as memory keys divided by 128. -/
def State.tileLines (s : State) (b : Binding) : List Nat := (b.map.map fun l => s.tileKey l l.va / 128).eraseDups

/-- The bytes of a tile as memory holds them now, by device-physical address. -/
def State.tileData (s : State) (b : Binding) (r : ObRec) : SMap Byte :=
  (r.tileSpans b.row0 b.k0).foldl (fun m e => (List.range e.2).foldl (fun m j =>
    match lineAt b.map ((e.1 + j) % 2 ^ 48) with
    | some l => SMap.set 0 m (l.pa + (e.1 + j) % 128) (SMap.get 0 s.mem (s.tileKey l (e.1 + j)))
    | none => m) m) []

/-- Lines that tile fetches pin. -/
def State.pinnedLines (s : State) : List Nat :=
  (s.mtx.flatMap fun e => e.2.recs.flatMap fun x => match x.2 with
    | some r => r.binds.flatMap fun b => if b.st = 2 then b.lines else []
    | none => []).eraseDups

/-- Whether pinning further lines keeps every slice within 3,072 (R270). -/
def State.pinsFit (s : State) (lines : List Nat) : Bool :=
  let new := lines.filter fun l => !s.pinnedLines.contains l
  let all := s.pinnedLines ++ new
  new.all fun l => decide ((all.filter fun m => Config.homeSlice m = Config.homeSlice l).length ≤ 3072)

/-- Whether two ranges of a window overlap. -/
def windowsMeet (a b n : Nat) : Bool := decide (n ≠ 0) && decide (a < b + n) && decide (b < a + n)

/-- Whether the binding at a position may be pinned now: an older live binding whose windows it overlaps comes first (R270). -/
def ObRec.pinFree (r : ObRec) (n : Nat) (b : Binding) : Bool :=
  !((r.binds.take n).any fun o => windowsMeet o.capS b.capS (tileScales r.fmt) || windowsMeet o.capZ b.capZ (tileZeros r.fmt))

/-- The binding of a record that the fetch unit pins next. -/
def State.nextPin (s : State) (r : ObRec) : Option (Nat × Binding) :=
  ((List.range r.binds.length).zip r.binds).find? fun e =>
    e.2.st = 1 && !e.2.stale && r.pinFree e.1 e.2 && s.pinsFit (s.tileLines e.2)

/-- Pin a binding: lines, bytes, poison (R270, R430); its reads may reach their channels (R318). -/
def State.pin (s : State) (pr k : Nat) (r : ObRec) (n : Nat) (b : Binding) : State :=
  let lines := s.tileLines b
  let tm := s.team r.team
  let b := { b with st := 2, lines := lines, data := s.tileData b r, poison := lines.any fun l => s.isPoison (l * 128) 128 }
  (lines.foldl (fun s l => (s.noteRead (l * 128) 128).askChan tm.fn tm.scls (s.stampNow tm.dloff) (l * 128) pr) s).updPair pr fun p =>
    p.setRec k (some { r with binds := r.binds.set n b })

/-! ## Drains (R278–R280) -/

/-- TILE.DRAIN and TILE.DRADD at issue. -/
def drainIssue (add : Bool) (i : Iss) (s : State) : Res :=
  let p := s.pairOf i.core
  let w := (i.v 1 i.low).toNat
  let row0 := bf w 31 0
  let col0 := bf w 63 32
  match p.recOf i.t (i.v 2 i.low).toNat with
  | none => .trap 0x0A false fun _ => 0
  | some (k, r) =>
    if r.role ≠ 2 then .trap 0x0A false fun _ => 0
    else match p.nameable i.t i.g (i.v 0 i.low).toNat with
      | none => .trap 0x0C false fun _ => 0
      | some e =>
        if !drainLegal r e.2.st then .trap 0x0A false fun _ => 0
        else
          let size := drainSize r.raw r.fmt e.2.st
          let rows := r.drainRows size row0 col0
          let op (lines : List TileLine) : MtxOp := .drain add e.2.st e.2.sA e.2.sB k (p.tileBanks i.t i.g e) row0 col0 lines
          if r.sp then
            match rows.find? fun x => !(s.team i.t).inRange x.2.1 (x.2.2 * size) with
            | some x => .trap 0x06 true fun _ => BitVec.ofNat 64 x.2.1
            | none => queueMtx i (op []) s (hc := true)
          else match s.xlatePages i .store (fun x => x.kind != 0 || x.coh = 2 || x.home = 1)
              (spanPages (rows.map fun x => (x.2.1 % 2 ^ 48, x.2.2 * size))) with
            | .error e => e
            | .ok xs =>
              if p.full then .stall
              else
                let lines := s.linesOf xs (rows.map fun x => (x.2.1, x.2.2 * size))
                let s := xs.foldl (fun s x => s.keep i.rg x.1 x.2) (s.charge i.rg (xs.headD (0, {})).2 (64 * rows.length))
                let sws := lines.filter fun l => l.coh = 1
                let s := s.updGrp i.t i.g fun g => g.mapTh i.lanes fun th => { th with tsm := sws.foldl (fun m l => m ||| tsmBit (l.key / 128)) th.tsm }
                queueMtx i (op lines) s (!sws.isEmpty) (lines.any fun l => l.coh = 0)

/-- The element bits of a drained row as a number, given the old ones. -/
def drainRow (s : State) (add : Bool) (r : ObRec) (st : TileSt) (sA sB : BitVec 32) (b : Bank) (size i n old : Nat) : Nat :=
  (List.range n).foldr (fun j acc =>
    let v := drainElem st sA sB (b.flags.getLsbD i) (SMap.get 0 b.val (64 * i + j)).toNat
    let d := old / 2 ^ (8 * size * j) % 2 ^ (8 * size)
    (if add then draddOut ((s.free (2 ^ 16)).getLsbD 0) r st v d else drainOut r st v) % 2 ^ (8 * size) + 2 ^ (8 * size) * acc) 0

/-- Bytes of memory by a tile's lines, as a number. -/
def State.readSpan (s : State) (ls : List TileLine) (a n : Nat) : Nat :=
  (List.range n).foldr (fun j acc => (match lineAt ls ((a + j) % 2 ^ 48) with
    | some l => (SMap.get 0 s.mem (s.tileKey l (a + j))).toNat
    | none => 0) + 256 * acc) 0

/-- Memory written from a poisoned row is poisoned, with one CAUSE 0x48 for a line (R430). -/
def State.poisonOut (s : State) (key n : Nat) : State :=
  ((lines64 key n).filter fun m => !s.ras.poison.contains m).foldl (fun s m => s.lineErr 0x48 1 m) (s.setPoison key n)

/-- A part of a row is written to the window; written from a poisoned row, the line is poisoned, with one CAUSE 0x48 (R430). -/
def State.writeSp (s : State) (t : Nat) (bad : Bool) (a n v : Nat) : State :=
  let tm := s.team t
  let s := s.updTeam t fun tm => tm.spWrite a n v (s.stampNow tm.dloff)
  if bad && !(tm.line (a / 128)).poison then (s.updTeam t fun tm => tm.updLine (a / 128) fun x => { x with poison := true }).postErr
    { snum := tm.core, cause := 0x48, cls := 1, dom := 0, vf := tm.fn, akind := 4, addr := a }
  else s

/-- A part of a line of a row is written to memory as part of one event. -/
def State.writeRow (s : State) (tm : Team) (bad : Bool) (ls : List TileLine) (a n v : Nat) : State :=
  match lineAt ls (a % 2 ^ 48) with
  | none => s
  | some l =>
    let key := s.tileKey l a
    let s := (s.askChan tm.fn tm.scls (s.stampNow tm.dloff) key (tm.core / 2)).writeAt key n v
    let s := if l.coh = 1 then s.l1Drop tm.core (lineOf key) else s
    if bad then s.poisonOut key n else s

/-- TILE.DRADD is performed at its destination, as one event (R279). -/
def State.performDrain (s : State) (e : MtxEnt) (st : TileSt) (sA sB : BitVec 32) (r : ObRec) (b : Bank) (row0 col0 : Nat) (ls : List TileLine) : State :=
  let size := drainSize r.raw r.fmt st
  (r.drainRows size row0 col0).foldl (fun s x =>
    let n := x.2.2 * size
    let old := if r.sp then (s.team e.team).spRead x.2.1 n else s.readSpan ls x.2.1 n
    let v := drainRow s true r st sA sB b size x.1 x.2.2 old
    let bad := b.poison.getLsbD x.1
    (cutSpans 128 x.2.1 n).foldl (fun s l =>
      let part := v / 2 ^ (8 * (l.1 - x.2.1)) % 2 ^ (8 * l.2)
      if r.sp then s.writeSp e.team bad l.1 l.2 part else s.writeRow (s.team e.team) bad ls l.1 l.2 part) s) s

/-- Units of a drain, each marked where the drain writes its whole 64-byte line, no part of it from a poisoned row (R429). -/
def wholeUnits (us : List InFlight) : List InFlight :=
  us.map fun f =>
    let line := us.filter fun e => e.key / 64 = f.key / 64
    if (line.map (·.size)).sum = 64 && line.all fun e => !(e.drain.getD {}).bad then { f with drain := f.drain.map fun d => { d with whole := true } } else f

/-- The stores of a TILE.DRAIN, one for each aligned 8-byte unit that it writes, in no order among themselves (R278). -/
def State.drainUnits (s : State) (e : MtxEnt) (st : TileSt) (sA sB : BitVec 32) (r : ObRec) (b : Bank) (row0 col0 : Nat) (ls : List TileLine) : List InFlight :=
  let size := drainSize r.raw r.fmt st
  wholeUnits <| (r.drainRows size row0 col0).flatMap fun x =>
    let n := x.2.2 * size
    let v := drainRow s false r st sA sB b size x.1 x.2.2 0
    (cutSpans 8 x.2.1 n).filterMap fun u =>
      let f : InFlight := { seq := e.seq, team := e.team, grp := e.grp, lane := lowLane e.lanes, size := u.2, since := s.clk.time, performed := false,
                            val := BitVec.ofNat 64 (v / 2 ^ (8 * (u.1 - x.2.1)) % 2 ^ (8 * u.2)) }
      let d : DrainUnit := { lanes := e.lanes, bad := b.poison.getLsbD x.1 }
      if r.sp then some { f with key := u.1, drain := some { d with sp := true } }
      else (lineAt ls (u.1 % 2 ^ 48)).map fun l => { f with key := l.key + u.1 % 128, drain := some { d with sw := l.coh = 1 },
                                                            twin := l.twin.map fun t => (t.1, t.2.1, t.2.2 + u.1 % 128) }

/-- A drain's stores set out, each with a number of its own; their lines may reach their channels (R318). -/
def State.sendUnits (s : State) (tm : Team) (us : List InFlight) : State :=
  let s := ((us.filter fun f => !(f.drain.getD {}).sp).map fun f => f.key / 128 * 128).eraseDups.foldl
    (fun s k => s.askChan tm.fn tm.scls (s.stampNow tm.dloff) k (tm.core / 2)) s
  { s with stores := s.stores ++ us.zipIdx.map fun e => { e.1 with id := s.clk.ids + e.2 }, clk := { s.clk with ids := s.clk.ids + us.length } }

/-- Whether another unit of the drain has still to be performed in a unit's 64-byte line (log 229). -/
def State.lineOpen (s : State) (f : InFlight) : Bool :=
  s.stores.any fun e => e.id != f.id && !e.performed && e.drain.isSome && e.team = f.team && e.grp = f.grp && e.seq = f.seq && e.key / 64 = f.key / 64

/-- A unit of a drain is performed: as a store of its page, or in the window (R278). The last one of a line that the drain writes whole clears
the line's poison (R429). -/
def State.performUnit (s : State) (f : InFlight) (u : DrainUnit) : State :=
  if u.sp then
    let s := s.writeSp f.team u.bad f.key f.size f.val.toNat
    { s with stores := s.stores.filter fun e => e.id != f.id }
  else
    let k := s.storeKey f
    let s := s.performStore f
    let s : State := if u.whole && !s.lineOpen f then { s with ras := { s.ras with poison := s.ras.poison.filter fun l => l != k / 64 } } else s
    let s := if u.sw then s.l1Write (s.team f.team).core k f.size f.val.toNat else s
    if u.bad then s.poisonOut k f.size else s

/-! ## Grants (R273) -/

/-- Free physical banks of a pair, of 32. -/
def PairMtx.freeBanks (p : PairMtx) : List Nat := (List.range 32).filter fun k => (SMap.get none p.banks k).isNone

/-- The allocator serves the oldest request when enough banks are free. -/
def PairMtx.serve (p : PairMtx) : PairMtx :=
  match p.reqs with
  | [] => p
  | (t, g, n) :: rest =>
    if p.freeBanks.length < n then p
    else
      let p := ((p.freeBanks.take n).zip (List.range n)).foldl (fun p e => p.setBank e.1 (some { team := t, grp := g, idx := e.2 })) p
      { p with reqs := rest, granted := p.granted ++ [(t, g)] }

/-- A handle operand with KEEP or ALL in bit 8 (R270). -/
def handleBad (w : Nat) : Bool := w / 512 != 0 || w / 16 % 16 != 0

/-- The descriptor's four doublewords, and whether they came as poison. -/
def State.readDesc (s : State) (i : Iss) (x : Xl) : (List Nat × Bool) × State :=
  (List.range 4).foldl (fun (a : (List Nat × Bool) × State) j =>
    let (v, s) := a.2.readAt (i.who i.low) { x with key := x.key + 8 * j } 8
    ((a.1.1 ++ [v.1], a.1.2 || v.2), s)) (([], false), s)

/-- The lowest handle that a team does not hold. -/
def PairMtx.freeHandle (p : PairMtx) (t : Nat) : Nat := ((List.range 16).find? fun h => (p.recAny t h).isNone).getD 0

/-- MMA (R277). Queues the product of two tiles into a bank; it retires in a step of its own. -/
def execMma (sm : Bool) (d a b : BitVec 5) : State → Host.Outcome State Fault Refusal :=
  issue (opOf (.mma sm d a b)) (fun i s => mmaIssue false i s)

/-- MMA_ACC (R277). As MMA, accumulating. -/
def execMmaAcc (sm : Bool) (d a b : BitVec 5) : State → Host.Outcome State Fault Refusal :=
  issue (opOf (.mmaAcc sm d a b)) (fun i s => mmaIssue true i s)

/-- OB_RES (R267). Reads a descriptor and reserves a record; the handle, or 63, goes to w[D]. -/
def execObRes (sm : Bool) (d a b : BitVec 5) : State → Host.Outcome State Fault Refusal :=
  issue (opOf (.obRes sm d a b)) (fun i s =>
    let ea := (i.v 0 i.low).toNat % 2 ^ 48
    let w := (i.v 1 i.low).toNat
    let role := bf w 34 33
    let give (v : Nat) (bad : Bool) (s : State) : State := s.returned i 0xFFFFFFFF .w i.low d.toNat ea (BitVec.ofNat 64 v) bad
    if bf w 63 35 ≠ 0 ∨ role = 3 then .trap 0x0A false fun _ => 0
    else if ea % 32 ≠ 0 then .trap 0x04 false fun _ => BitVec.ofNat 64 ea
    else match s.xlatePages i .load (fun _ => false) [ea] with
      | .error r => r
      | .ok xs =>
        let x := (xs.map fun e => e.2).headD {}
        let ((ds, bad), s) := ((s.keep i.rg ea x).claimCp i.t i.core x).readDesc i x
        let g (j : Nat) : Nat := ds.getD j 0
        let raw := bit (g 0) 54
        let fmt := bf (g 0) 52 48
        if bad then .done (give 0 true s)
        else if descBad (g 0) (g 1) (g 2) (g 3) ∨ (role ≠ 2 ∧ (bit (g 0) 53 ∨ raw)) ∨
            (role = 2 ∧ (bit w 32 ∨ (!raw ∧ !([0, 1, 2, 3, 4, 5, 6, 10, 28].contains fmt)))) then .trap 0x0A false fun _ => 0
        else
          let p := s.pairOf i.core
          match (if 16 ≤ p.recCount i.t then none else p.freeRec) with
          | none => .done (give 63 false s)
          | some k =>
            let h := p.freeHandle i.t
            .done (give h false (s.updPair (i.core / 2) fun p => p.setRec k (some
              { team := i.t, handle := h, d0 := BitVec.ofNat 64 (g 0), d1 := BitVec.ofNat 64 (g 1), d2 := BitVec.ofNat 64 (g 2),
                scale := BitVec.ofNat 32 w, sclp := bit w 32, role := role }))))

/-- OB_REL (R268). Releases a record after the queued operations that name it. -/
def execObRel (sm : Bool) (a : BitVec 5) : State → Host.Outcome State Fault Refusal :=
  issue (opOf (.obRel sm a)) (fun i s =>
    match (s.pairOf i.core).recOf i.t (i.v 0 i.low).toNat with
    | none => .trap 0x0A false fun _ => 0
    | some (k, _) => queueMtx i (.obRel k) s)

/-- OB_SETS (R269). The record’s SOFF takes w[B]; it governs later fetches. -/
def execObSets (sm : Bool) (a b : BitVec 5) : State → Host.Outcome State Fault Refusal :=
  issue (opOf (.obSets sm a b)) (fun i s =>
    let w := (i.v 1 i.low).toNat
    match (s.pairOf i.core).recOf i.t (i.v 0 i.low).toNat with
    | none => .trap 0x0A false fun _ => 0
    | some (k, r) =>
      if 4096 ≤ w ∨ w % 64 ≠ 0 then .trap 0x0A false fun _ => 0
      else .done (s.updPair (i.core / 2) fun p => p.setRec k (some { r with soff := w })))

/-- OB_SETZ (R269). The record’s ZOFF takes w[B]; it governs later fetches. -/
def execObSetz (sm : Bool) (a b : BitVec 5) : State → Host.Outcome State Fault Refusal :=
  issue (opOf (.obSetz sm a b)) (fun i s =>
    let w := (i.v 1 i.low).toNat
    match (s.pairOf i.core).recOf i.t (i.v 0 i.low).toNat with
    | none => .trap 0x0A false fun _ => 0
    | some (k, r) =>
      if 1024 ≤ w ∨ w % 16 ≠ 0 then .trap 0x0A false fun _ => 0
      else .done (s.updPair (i.core / 2) fun p => p.setRec k (some { r with zoff := w })))

/-- ACC_ACQ (R273). The group parks until its banks are granted. -/
def execAccAcq (sm : Bool) (a : BitVec 5) : State → Host.Outcome State Fault Refusal :=
  issue (opOf (.accAcq sm a)) (fun i s =>
    let n := (i.v 0 i.low).toNat
    let p := s.pairOf i.core
    if p.granted.contains (i.t, i.g) then
      .done (s.updPair (i.core / 2) fun p => { p with granted := p.granted.erase (i.t, i.g) })
    else if n = 0 ∨ 32 < n ∨ !(p.grant i.t i.g).isEmpty then .trap 0x0C false fun _ => 0
    else if p.reqs.any fun e => e.1 = i.t ∧ e.2.1 = i.g then .hold id
    else .hold fun s => s.updPair (i.core / 2) fun p => { p with reqs := p.reqs ++ [(i.t, i.g, n)] })

/-- ACC_REL (R274). Releases the group’s grant after the queued operations on its banks. -/
def execAccRel (sm : Bool) : State → Host.Outcome State Fault Refusal :=
  issue (opOf (.accRel sm)) (fun i s =>
    match (s.pairOf i.core).grant i.t i.g with
    | [] => .trap 0x0C false fun _ => 0
    | bs => queueMtx i (.accRel (bs.map fun e => e.1)) s)

/-- ACC_ZERO (R275). Clears a bank, or both of an FP64 tile, after the queued operations on it. -/
def execAccZero (sm : Bool) (a : BitVec 5) : State → Host.Outcome State Fault Refusal :=
  issue (opOf (.accZero sm a)) (fun i s =>
    let p := s.pairOf i.core
    match p.nameable i.t i.g (i.v 0 i.low).toNat with
    | none => .trap 0x0C false fun _ => 0
    | some e =>
      let bs := p.tileBanks i.t i.g e
      if p.full then .stall
      else queueMtx i (.accZero bs) (s.updPair (i.core / 2) fun p => bs.foldl (fun p b => p.updBank b fun k => { k with st := .clear, sA := 0x3F800000, sB := 0x3F800000 }) p))

/-- ACC_RD (R276). Reads a row of a bank into x[D] after the queued operations on it. -/
def execAccRd (sm : Bool) (d : BitVec 6) (a b : BitVec 5) : State → Host.Outcome State Fault Refusal :=
  issue (opOf (.accRd sm d a b)) (fun i s =>
    let p := s.pairOf i.core
    let w := (i.v 1 i.low).toNat
    match p.nameable i.t i.g (i.v 0 i.low).toNat with
    | none => .trap 0x0C false fun _ => 0
    | some e =>
      if 128 ≤ w ∨ (64 ≤ w ∧ e.2.st ≠ .fp64lo) then .trap 0x0C false fun _ => 0
      else if p.full then .stall
      else
        let (pends, s) := (lanesOf i.lanes).foldl (fun (a : List (Nat × Nat) × State) l =>
          let id := a.2.clk.ids
          let s := pendField i .ld d.toNat l 0 a.2
          (if s.clk.ids = id then a.1 else a.1 ++ [(l, id)], s)) ([], s)
        let s := s.updGrp i.t i.g fun g => { g with out := g.out.map fun (q : Pend) => if pends.any fun x => x.2 = q.id then { q with ready := false, acc := true } else q }
        queueMtx i (.accRd e.1 (w % 64) (decide (64 ≤ w)) e.2.st e.2.idx pends) s)

/-- TILE_FETCH (R270). Translates a tile and binds it to a record; its pin is a step of its own. -/
def execTileFetch (sm : Bool) (a b : BitVec 5) : State → Host.Outcome State Fault Refusal :=
  issue (opOf (.tileFetch sm a b)) (fun i s =>
    let w := (i.v 0 i.low).toNat
    let c := (i.v 1 i.low).toNat
    let row0 := bf c 31 0
    let k0 := bf c 63 32
    match (if handleBad w then none else (s.pairOf i.core).recOf i.t (w % 16)) with
    | none => .trap 0x0A false fun _ => 0
    | some (k, r) =>
      if 1 < r.role ∨ k0 % mStepK r.fmt ≠ 0 ∨ 4096 < r.soff + tileScales r.fmt ∨ 1024 < r.zoff + tileZeros r.fmt then .trap 0x0A false fun _ => 0
      else match s.xlatePages i .load tileBar (spanPages (r.tileSpans row0 k0)) with
        | .error e => e
        | .ok xs =>
          if 2 ≤ r.binds.length then .hold id
          else
            let b : Binding := { row0 := row0, k0 := k0, keep := bit w 8, st := 1, grp := i.g, seq := s.clk.seq, capS := r.soff, capZ := r.zoff,
                                 map := s.linesOf xs (r.tileSpans row0 k0) }
            .done ((xs.foldl (fun s x => s.keep i.rg x.1 x.2) (s.charge i.rg (xs.headD (0, {})).2 8192)).updPair (i.core / 2) fun p => p.setRec k (some { r with binds := r.binds ++ [b] })))

/-- TILE_DRAIN (R278). Queues the writing of a tile to memory or the window. -/
def execTileDrain (sm : Bool) (d a b : BitVec 5) : State → Host.Outcome State Fault Refusal :=
  issue (opOf (.tileDrain sm d a b)) (fun i s => drainIssue false i s)

/-- TILE_DRADD (R279). Queues the adding of a tile to its destination. -/
def execTileDradd (sm : Bool) (d a b : BitVec 5) : State → Host.Outcome State Fault Refusal :=
  issue (opOf (.tileDradd sm d a b)) (fun i s => drainIssue true i s)

/-- TILE_UNPIN (R272). Empties the oldest binding, or both, after the queued operations that name the record. -/
def execTileUnpin (sm : Bool) (a : BitVec 5) : State → Host.Outcome State Fault Refusal :=
  issue (opOf (.tileUnpin sm a)) (fun i s =>
    let w := (i.v 0 i.low).toNat
    match (if handleBad w then none else (s.pairOf i.core).recOf i.t (w % 16)) with
    | none => .trap 0x0A false fun _ => 0
    | some (k, r) => if 1 < r.role then .trap 0x0A false fun _ => 0 else queueMtx i (.unpin k (bit w 8)) s)

/-- ACC_GRANT (R273). The allocator serves the oldest request when enough banks are free. -/
def execAccGrant (pair : Nat) : State → Host.Outcome State Fault Refusal :=
  fun s => .next (s.updPair pair PairMtx.serve)

/-- TILE_PIN (R270). The fetch unit pins the next binding of a record. -/
def execTilePin (pair rec : Nat) : State → Host.Outcome State Fault Refusal :=
  fun s => .next (
    match SMap.get none (SMap.get {} s.mtx pair : PairMtx).recs rec with
    | none => s
    | some r =>
      match s.nextPin r with
      | none => s
      | some (n, b) => s.pin pair rec r n b)

/-- MMA_RETIRE (R263). The oldest MMA of a pair retires once its bindings are pinned. -/
def execMmaRetire (pair : Nat) : State → Host.Outcome State Fault Refusal :=
  fun s => .next (
    let p : PairMtx := SMap.get {} s.mtx pair
    match p.ready.find? fun e => e.2.op.isMma with
    | some (n, e) =>
      (match e.op with
       | .mma acc st bk hi cl ra rb =>
         match SMap.get none p.recs ra, SMap.get none p.recs rb, SMap.get none p.banks bk with
         | some a, some b, some k =>
           match a.binds.head?, b.binds.head? with
           | some ba, some bb => if ba.st = 2 ∧ bb.st = 2 then s.retireMma pair n acc st bk hi cl ra rb a b ba bb k else s
           | _, _ => s
         | _, _, _ => s
       | _ => s)
    | none => s)

/-- DRAIN_DONE (R278, R279). A queued drain comes to its turn: a summing one is performed at its destination as one event, the stores of any
other set out. -/
def execDrainDone (pair : Nat) : State → Host.Outcome State Fault Refusal :=
  fun s => .next (
    let p : PairMtx := SMap.get {} s.mtx pair
    let ds := p.ready.filter fun e => e.2.op.isDrain
    match ds[(s.free 5).toNat % ds.length]? with
    | some (n, e) =>
      (match e.op with
       | .drain add st sA sB k bs row0 col0 ls =>
         match SMap.get none p.recs k, SMap.get none p.banks (bs.headD 0) with
         | some r, some b =>
           if add ∧ b.poison ≠ 0 ∧ s.errHeld (s.team e.team).fn then s
           else ((if add then s.performDrain e st sA sB r b row0 col0 ls
                  else s.sendUnits (s.team e.team) (s.drainUnits e st sA sB r b row0 col0 ls)).updPair pair fun p => p.drop n).settleMtx pair 16
         | _, _ => s
       | _ => s)
    | none => s)

end Sys2Proof.Machine
end

