-- ==== Sys2Proof/Machine/Saves.lean ====
section
/-! DEFINITION. Saves and restores of teams (R60–R62, R132, R133, R258, R281, R363–R366), the entry of the save handler
(R364), ownership of CP pages (R80), and the releases at team end (R63). -/

namespace Sys2Proof.Machine

open Sys2Proof

/-! ## CP pages (R80) -/

/-- Ownership of CP pages ends for a team that ends or is saved: where it was the last user, the core writes the page's lines
back and drops them. -/
def State.endCp (s : State) (t : Nat) : State :=
  let core := (s.team t).core
  let mine := (s.cache.cpUse.filter fun e => e.2 = t).map fun e => e.1
  let s := { s with cache := { s.cache with cpUse := s.cache.cpUse.filter fun e => e.2 != t } }
  mine.foldl (fun s fr =>
    if s.cache.cpUse.any fun e => e.1 = fr then s
    else
      let ls := (s.cache.l1.filter fun l => l.core = core && (l.kind = 2 || l.kind = 4) && l.frame = fr).map fun l => l.line
      let s := ls.foldl (fun s l => (s.l1Clean core l).l1Drop core l) s
      { s with cache := { s.cache with cpOwner := SMap.set 0 s.cache.cpOwner fr 0 } }) s

/-! ## Matrix state (R281) -/

/-- Whether a team has operations in its pair's queue. -/
def State.mtxBusy (s : State) (t : Nat) : Bool := (s.pairOf (s.team t).core).queue.any fun e => e.team = t

/-- Physical records of a team. -/
def PairMtx.teamRecs (p : PairMtx) (t : Nat) : List (Nat × ObRec) :=
  p.recs.filterMap fun e => match e.2 with
    | some r => if r.team = t then some (e.1, r) else none
    | none => none

/-- Physical banks of a team. -/
def PairMtx.teamBanks (p : PairMtx) (t : Nat) : List (Nat × Bank) :=
  p.banks.filterMap fun e => match e.2 with
    | some b => if b.team = t then some (e.1, b) else none
    | none => none

/-- A team's records, banks and requests leave the pair. -/
def PairMtx.release (p : PairMtx) (t : Nat) : PairMtx :=
  let p := (p.teamRecs t).foldl (fun p e => p.setRec e.1 none) p
  let p := (p.teamBanks t).foldl (fun p e => p.setBank e.1 none) p
  { p with reqs := p.reqs.filter fun r => r.1 != t, granted := p.granted.filter fun g => g.1 != t }

/-- A binding as a save keeps it: coordinates and captured offsets; its data are to be fetched again. -/
def Binding.saved (b : Binding) : Binding := { b with st := 1, stale := false, poison := false, lines := [], map := [], data := [] }

/-- A team's matrix state is kept with it and leaves the pair, beside what an earlier save kept and no pair has yet reserved. A grant whose
ACC.ACQ has not retired is asked for again. -/
def State.saveMtx (s : State) (t : Nat) : State :=
  let tm := s.team t
  let p := s.pairOf tm.core
  let again (g : Nat) : Bool := p.granted.any fun e => e.1 = t && e.2 = g
  let recs := (p.teamRecs t).map fun e => { e.2 with binds := e.2.binds.map Binding.saved }
  let banks := (p.teamBanks t).filterMap fun e => if again e.2.grp then none else some e.2
  (s.updTeam t fun tm => { tm with savedRecs := tm.savedRecs ++ recs, savedBanks := tm.savedBanks ++ banks, mtxWait := false }).updPair (tm.core / 2) fun p => p.release t

/-- The pages of a restored binding, translated anew; a fault is met as an engine's (R60, R281). -/
def State.refetch (s : State) (tm : Team) (r : ObRec) (b : Binding) : Option Binding × State :=
  let xs := (spanPages (r.tileSpans b.row0 b.k0)).map fun va => (va, s.check tm.regime tm.core .load false va tileBar)
  match xs.find? fun e => match e.2 with | .ok _ => false | _ => true with
  | some (_, .error (.trap _ _)) | some (_, .ok _) => (some { b with stale := true }, s)
  | some (_, .error e) => (none, s.await tm.fn [64 * tm.id + 63] e)
  | none => (some { b with map := s.linesOf (xs.filterMap fun e => match e.2 with | .ok x => some (e.1, x) | _ => none) (r.tileSpans b.row0 b.k0) }, s)

/-- Every binding of a list of records translated, or none while some page is absent. -/
def State.refetchAll (s : State) (tm : Team) : List ObRec → Option (List ObRec) × State
  | [] => (some [], s)
  | r :: t =>
    let (bs, s) := r.binds.foldl (fun (a : Option (List Binding) × State) b =>
      let (x, s) := a.2.refetch tm r b
      (match a.1, x with | some l, some b => some (l ++ [b]) | _, _ => none, s)) (some [], s)
    let (rs, s) := s.refetchAll tm t
    (match bs, rs with | some l, some q => some ({ r with binds := l } :: q) | _, _ => none, s)

/-- Whether every binding of a team's records is fetched; one whose page can no longer be read waits for the MMA that meets it (R347). -/
def State.bindsDone (s : State) (t : Nat) : Bool :=
  ((s.pairOf (s.team t).core).teamRecs t).all fun e => e.2.binds.all fun b => b.st != 1 || b.stale

/-- A restored team reserves its records and banks on its pair, once they are free and their tiles' pages are present, and waits on
until every binding is fetched from memory again (R281). -/
def State.restoreMtx (s : State) (t : Nat) : State :=
  let tm := s.team t
  let p := s.pairOf tm.core
  let recs := (List.range 48).filter fun k => (SMap.get none p.recs k).isNone
  if !tm.mtxWait || tm.st ≠ .resident then s
  else if tm.savedRecs.isEmpty && tm.savedBanks.isEmpty then
    (if s.bindsDone t then s.updTeam t fun tm => { tm with mtxWait := false } else s)
  else if recs.length < tm.savedRecs.length || p.freeBanks.length < tm.savedBanks.length then s
  else match s.refetchAll tm tm.savedRecs with
    | (none, s) => s
    | (some rs, s) =>
      let s := s.updPair (tm.core / 2) fun p =>
        let p := (recs.zip rs).foldl (fun p e => p.setRec e.1 (some e.2)) p
        (p.freeBanks.zip tm.savedBanks).foldl (fun p e => p.setBank e.1 (some e.2)) p
      s.updTeam t fun tm => { tm with savedRecs := [], savedBanks := [] }

/-! ## Saves -/

/-- Whether a lane's port holds pushed elements whose store can be made now: they drain before a save; one that waits for a page or for
the host is kept with the port (R54, R60). -/
def State.portDrains (s : State) (tm : Team) (t g l q : Nat) : Bool :=
  let p := (s.grp t g).port l q
  match p.push with
  | [] => false
  | none :: _ => true
  | some _ :: _ => match s.check tm.regime tm.core .store false ((SMap.get {} tm.streams q : Stream).addr tm.lin g l p.stored) with
    | .error (.trap _ _) => true
    | .error _ => false
    | .ok _ => true

/-- Whether a team's context can be saved: its results exist, its stores have drained, those of its ports included, its matrix work is done
(R54, R60, R101, R281). -/
def State.saveReady (s : State) (t : Nat) : Bool :=
  let tm := s.team t
  !(tm.groups.any fun e => e.2.out.any fun p => !p.ready) && !(s.stores.any fun f => f.team = t) &&
  (tm.groups.all fun e => (List.range 32).all fun l => (e.2.th l).osat = 0 && (List.range 4).all fun q => !s.portDrains tm t e.1 l q) && !s.mtxBusy t

/-- A group's wake entries are removed (R91). -/
def State.dropWake (s : State) (t : Nat) : State :=
  { s with cache := { s.cache with wake := s.cache.wake.filter fun e => e.2.1 != t } }

/-- A thread at a forced save: in the save handler it is spent; past PREEND it resumes at once (R365). -/
def Thread.spend (th : Thread) : Thread :=
  if !th.inSave then th else if th.preended then th.leaveTrap false else { th with spent := true }

/-- A group leaves its core with its results written and its transaction aborted (R51, R60, R88, R101). -/
def Group.saved (g : Group) : Group :=
  let g := ((g.settle 0xFFFFFFFF).abortTx .again 0).rewind
  { g.mapTh 0xFFFFFFFF Thread.spend with st := if g.st = .done then .done else .saved, pace := g.pace.rest, pushed := 0 }

/-- The lowest frame of a function's pool that no team holds; the manual says of none that it is taken first (log 186). -/
def State.freeFrame (s : State) (fn : Nat) : Nat :=
  ((List.range ((s.fn fn).used + 1)).find? fun n => !(s.teams.any fun e => e.2.fn = fn && e.2.frame && e.2.frameNo = n)).getD 0

/-- A team's records stand in its frame as R266 lays them out, at places that the manual does not give (log 186). -/
def State.writeFrame (s : State) (t fn no : Nat) : State :=
  let base := (s.fn fn).frames + no * 2 ^ 20
  (((s.pairOf (s.team t).core).teamRecs t).map (·.2)).zipIdx.foldl (fun s e =>
    match s.resolve (base + Config.frameSlot e.2 % 2 ^ 14 * 64) with
    | some key => s.writeAt key 64 (e.1.image.foldr (fun w acc => w + 2 ^ 64 * acc) 0)
    | none => s) s

/-- The whole context of a team is saved (R60, R132, R133, R281). -/
def State.saveTeam (s : State) (t : Nat) (byFault : Bool) : State :=
  let no := s.freeFrame (s.team t).fn
  let s := (((s.writeFrame t (s.team t).fn no).saveMtx t).endCp t).dropWake t
  let n := s.clk.seq
  (s.updTeam t fun tm =>
    { tm.mapGroups fun _ g => g.saved with st := .saved, faulted := false, held := false, forceSave := false, entering := false, saveSince := none, byFault := byFault,
                                            frame := true, frameNo := no, saveSeq := n, blockedAt := none }).updFn (s.team t).fn fun f => { f with used := f.used + 1 }

/-- A team with no frame stays on its core until replay (R60, R296, R438). -/
def Team.park (tm : Team) (cycle : Nat) : Team :=
  { tm.mapGroups fun _ g => if g.st = .ready ∨ g.st = .active then g.leave .parked cycle else g with faulted := false, held := true }

/-- Whether a fault frame is free. -/
def Fn.hasFrame (f : Fn) : Bool := decide (f.used < f.nframes)

/-- Whether teams of a core are saved at a demand fault: not on ledge and harbour cores (R296, R438). -/
def savesHere (core : Nat) : Bool := decide (core < 384)

/-! ## The save handler (R364) -/

/-- A thread enters the save handler; registers of a trap handler are kept beneath. One parked at BARV, whose group has not arrived, is to
be parked there again when it returns (log 168). -/
def Thread.enterSave (th : Thread) (prehdl : Word) (addr : Word) : Thread :=
  { th with below := if th.inTrap then some { cause := th.trapCause, pc := th.trapPc, addr := th.trapAddr, pt := th.trapPt, inTrap := true, tx := th.trapTx } else none
            trapCause := 0x10, trapAddr := addr, trapPc := th.pt.addr.setWidth 64, trapPt := th.pt, trapTx := none, inTrap := true, inSave := true,
            barred := (match th.run with | .barv off => some off | _ => none), preended := false, spent := false, pt := .header (prehdl.setWidth 48), run := .running, waitRes := false, reached := none, stopPt := none }

/-- Whether a team must be saved without its handler (R363): no handler, a group that has arrived at a barrier or is halted, a thread parked
at REJOIN. -/
def State.noHandler (s : State) (t : Nat) : Bool :=
  let tm := s.team t
  (s.fn tm.fn).preAt = 0 || tm.groups.any fun e => e.2.barOff.isSome || e.2.halt ||
    (List.range 32).any fun l => (e.2.th l).run.isRejoin

/-- The lanes of a team enter the save handler, once their results exist (R364): the handler in force at the slice end (R129). A team that was
kept on its core after a demand fault runs again, and meets the fault anew after its handler. -/
def State.enterHandler (s : State) (t : Nat) : State :=
  let tm := s.team t
  if !tm.entering || tm.groups.any fun e => e.2.out.any fun p => !p.ready then s
  else
    let v := (s.fn tm.fn).preAt
    let cyc := s.clk.cycle
    (s.dropWake t).updTeam t fun tm =>
      { tm.mapGroups fun _ g =>
          if g.st = .done then g
          else
            let g := (g.settle 0xFFFFFFFF).abortTx .again 0
            let g := g.mapTh g.live fun th => th.enterSave v 0
            { g with st := if g.st = .active then .active else .ready, since := if g.st = .active then g.since else cyc, pace := g.pace.rest, pushed := 0 }
        with entering := false, saveSince := some cyc, held := false, faulted := false, waitPage := none }

/-- Whether a cooperative save has ended: every thread that entered has executed PREEND or exited, stores have drained and matrix
work is done (R258, R365). -/
def State.coopReady (s : State) (t : Nat) : Bool :=
  let tm := s.team t
  let live := tm.groups.flatMap fun e => (lanesOf e.2.live).map fun l => e.2.th l
  tm.st = .resident && tm.kill.isNone && !tm.forceSave && !tm.faulted && (live.any fun th => th.preended) &&
  (live.all fun th => !th.inSave || th.preended) && s.saveReady t

/-- A group after a cooperative save: its system context stands, everything else reads zero (R132, R133). -/
def Group.cooped (g : Group) : Group :=
  let g := g.settle 0xFFFFFFFF
  { g with st := if g.st = .done then .done else .saved, x := [], w := [], p := [], enr := [], arr := [], ports := [], out := [], tx := none, pace := g.pace.rest, pushed := 0 }

/-- The team leaves its core after a cooperative save. -/
def State.coopEnd (s : State) (t : Nat) : State :=
  let core := (s.team t).core
  let s := (((s.updPair (core / 2) fun p => p.release t).endCp t).dropWake t)
  let n := s.clk.seq
  s.updTeam t fun tm =>
    { tm.mapGroups fun _ g => g.cooped with st := .coop, sp := [], lines := [], saveSince := none, held := false, byFault := false, saveSeq := n, blockedAt := none }

/-- w0–w5 of a group (R33, R289). -/
def Team.w05 (tm : Team) (g : Nat) : SMap Word :=
  let l := match tm.origin with
    | .amsg _ => tm.init
    | _ => tm.init.set 3 (BitVec.ofNat 64 g)
  l.zipIdx.foldl (fun m e => SMap.set 0 m e.2 e.1) []

/-- The context of a saved team is restored on the core where it has been placed: its groups are READY, a group at a barrier too, which
takes no place until its continuation (R51, R56, R60, R366). -/
def State.restoreTeam (s : State) (t : Nat) : State :=
  let tm := s.team t
  let coop := decide (tm.st = .coop)
  let v := (s.fn tm.fn).preAt
  let cyc := s.clk.cycle
  let s := if tm.frame then s.updFn tm.fn fun f => { f with used := f.used - 1 } else s
  let s := s.updTeam t fun tm =>
    { tm.mapGroups fun k g =>
        if g.st = .done then g
        else
          let g := if coop then { g.mapTh g.live fun th =>
              { th with trapCause := 0x10, trapAddr := 1, pt := .header (v.setWidth 48), run := .running, inTrap := true, inSave := true, preended := false }
            with w := tm.w05 k } else g
          { g with st := if g.halt then .parked else .ready, since := cyc, pace := g.pace.rest }
      with st := .resident, frame := false, mtxWait := !(tm.savedRecs.isEmpty && tm.savedBanks.isEmpty) }
  (s.team t).groupList.foldl (fun s g => s.tryArrive t g) s

/-! ## Releases (R63) and discards (R62) -/

/-- What a team holds at its end, as R63 counts it. -/
def State.implOf (s : State) (t : Nat) : Nat :=
  let tm := s.team t
  let p := s.pairOf tm.core
  let recs := (p.teamRecs t).map (·.2) ++ tm.savedRecs
  let grants := (((p.teamBanks t).map fun e => e.2.grp) ++ tm.savedBanks.map (·.grp)).eraseDups
  let asleep := ((s.cache.wake.filter fun e => e.2.1 = t).map fun e => e.2.2).eraseDups
  let bars := (tm.groups.filterMap fun e => if e.2.cont then none else e.2.barOff).eraseDups
  let ports := tm.groups.flatMap fun e => (List.range 4).filter fun q => (List.range 32).any fun l => !(e.2.port l q).got.isEmpty
  recs.length + (recs.map fun r => r.binds.length).sum + grants.length + asleep.length + bars.length + ports.length

/-- The releases of a team's resources. -/
def State.releaseTeam (s : State) (t : Nat) : State :=
  let n := s.implOf t
  let core := (s.team t).core
  let s := ((s.updPair (core / 2) fun p => p.release t).endCp t).dropWake t
  let s := if (s.team t).frame then s.updFn (s.team t).fn fun f => { f with used := f.used - 1 } else s
  s.updTeam t fun tm => { tm with impl := tm.impl + n, frame := false, released := true, savedRecs := [], savedBanks := [] }

/-- Weight held by a team's threads: total, and per thread. -/
def Team.weights (tm : Team) : List Nat :=
  tm.groups.flatMap fun e => ((List.range 32).map fun l => (e.2.th l).weight.toNat).filter fun w => w != 0

/-- A discardable team leaves its core and waits to be dispatched again; its weight stays with it (R62). Its releases count with those of
its end (log 169). -/
def State.discardTeam (s : State) (t : Nat) : State :=
  let s := s.releaseTeam t
  s.updTeam t fun tm => { tm with st := .discarded, carry := BitVec.ofNat 64 tm.weights.sum, groups := [], sp := [], lines := [], blockedAt := none,
                                  held := false, faulted := false, entering := false, saveSince := none, forceSave := false, mtxWait := false, released := false,
                                  rgnva := [], rgnctl := [], rgnFilled := [], rgnFill := [], trapvec := 0, sperr := 0, dbgctl := 0, bpaddr := 0 }

/-! ## What the device does by itself between steps -/

/-- Handlers are entered, cooperative saves end, matrix state is reserved again. -/
def State.moveSaves (s : State) : State :=
  s.teams.foldl (fun s e =>
    let s := if (s.team e.1).entering then s.enterHandler e.1 else s
    let s := if s.coopReady e.1 then s.coopEnd e.1 else s
    if (s.team e.1).mtxWait then s.restoreMtx e.1 else s) s

end Sys2Proof.Machine
end

