-- ==== Sys2Proof/Machine/Tasks.lean ====
section
/-! DEFINITION. The dispatcher (R43–R47): cores, their room, the next item to place, new teams (R33, R289, R297), engine batches
(R45), retirement (R58), kills (R419) and pool slices (R361–R369). -/

namespace Sys2Proof.Machine

open Sys2Proof

/-! ## Room on a core (R46, R295, R460) -/

/-- What a team needs: groups, register blocks, scratchpad lines. -/
structure Need where
  groups : Nat
  blocks : Nat
  lines : Nat
  deriving DecidableEq, Repr

/-- What a grid's team needs. -/
def recNeed (g : BitVec 1024) : Need := { groups := recGpt g, blocks := recGpt g * recRblk g, lines := recSpl g }

/-- What a team needs. -/
def Team.need (tm : Team) : Need := { groups := tm.gpt, blocks := tm.gpt * tm.rblk, lines := tm.spl }

/-- Teams resident on a core. -/
def State.teamsOn (s : State) (core : Nat) : List Team := (s.teams.filter fun e => e.2.core = core ∧ e.2.st = .resident).map (·.2)

/-- The split in effect for the next dispatch (R65). -/
def State.splitFor (s : State) (core : Nat) : Nat :=
  if (s.teamsOn core).isEmpty then SMap.get 0 s.part.split core else SMap.get 0 s.part.splitEff core

/-- Free register blocks of a core. -/
def State.freeBlocks (s : State) (core : Nat) : Nat := (if isLedge core then 32 else 128) - ((s.teamsOn core).map fun t => t.need.blocks).sum

/-- Whether a core has room (R46). -/
def State.roomOn (s : State) (core : Nat) (n : Need) : Bool :=
  let ts := s.teamsOn core
  let slots := if isLedge core then 4 else 32
  let lines := if isLedge core then 1024 else 4096 - 512 * s.splitFor core
  decide (n.groups + (ts.map (·.gpt)).sum ≤ slots) && decide (n.blocks ≤ s.freeBlocks core) && decide (n.lines + (ts.map (·.spl)).sum ≤ lines)

/-- Whether a function's slice runs, so that its pool's cores take its work (R362, R363). -/
def State.inSlice (s : State) (fn : Nat) : Bool :=
  match s.poolOf fn with
  | some k => let p : Pool := SMap.get {} s.part.pools k; p.cur = fn && p.endTime.isNone
  | none => false

/-- Cores that take a function's work: the harbour's own on harbour cores once Lighthouse has released them, a function's once the compute dies are up (R26): pairs owned outright; the pool's pairs in its slice; none
during a reset (R353). -/
def State.coresOf (s : State) (fn : Nat) (harbour : Bool) : List Nat :=
  if harbour then [640, 641].filter fun c => s.lh.harbourRun && !s.part.fenced.contains (c - 320)
  else if (s.fn fn).reset.isSome ∨ s.lh.up < 4 then []
  else
    let pairs := s.ownPairs fn ++ (if s.inSlice fn then s.poolPairs fn else [])
    ((List.range 192).filter fun p => pairs.contains p && !s.part.gated.contains p).flatMap fun p => [2 * p, 2 * p + 1]

/-- The core that takes a team: most free blocks, then the lowest number (R46); a reserved core takes only its own item (R47). -/
def State.pickCore (s : State) (cores : List Nat) (id : Nat) (n : Need) : Option Nat :=
  let ok := cores.filter fun c => s.roomOn c n && !(s.sched.reserved.any fun r => r.1 = c && r.2 != id)
  ok.foldl (fun b c => match b with
    | none => some c
    | some d => if s.freeBlocks d < s.freeBlocks c then some c else some d) none

/-! ## The next item (R43, R47) -/

/-- Identifier, function, harbour mode and need of a queue entry. -/
def State.readyItem (s : State) : Ready → Nat × Nat × Bool × Need
  | .grid id => let g := s.grid id; (id, g.fn, g.harbour, recNeed g.img)
  | .team id => let tm := s.team id; (id, tm.fn, tm.harbour, tm.need)

/-- Whether an item waits for replay. -/
def State.itemStuck (s : State) : Ready → Bool
  | .grid id => (s.grid id).stuck
  | .team _ => false

/-- Whether a core takes an item back: a team saved by its handler returns to a core of its function's pool, where the function has one
(R366). -/
def State.takesBack (s : State) (r : Ready) (core : Nat) : Bool :=
  match r with
  | .team id => (s.team id).st != .coop || (s.poolPairs (s.team id).fn).isEmpty || (s.poolPairs (s.team id).fn).contains (core / 2)
  | .grid _ => true

/-- The core for a queue entry now. -/
def State.coreFor (s : State) (r : Ready) : Option Nat :=
  let (id, fn, h, n) := s.readyItem r
  if s.itemStuck r then none else s.pickCore ((s.coresOf fn h).filter (s.takesBack r)) id n

/-- Queue entries, highest priority first and in order of readiness. -/
def State.readyOrder (s : State) : List (Nat × Ready) :=
  (List.range 25).reverse.flatMap fun p => s.sched.queue.filter fun e => e.1 = p

/-- The item to place next and its core. -/
def State.nextItem (s : State) : Option (Ready × Nat) :=
  s.readyOrder.findSome? fun e => (s.coreFor e.2).map fun c => (e.2, c)

/-- Items that fit no core begin their wait (R47). -/
def State.markBlocked (s : State) : State :=
  s.sched.queue.foldl (fun s e => if (s.coreFor e.2).isSome then s else match e.2 with
    | .grid id => s.updGrid id fun g => { g with blockedAt := some (g.blockedAt.getD s.clk.time) }
    | .team id => s.updTeam id fun tm => { tm with blockedAt := some (tm.blockedAt.getD s.clk.time) }) s

/-- Nanoseconds since a time. -/
def State.since (s : State) (t : Word) : Nat := (s.clk.time - t).toNat

/-- When an item began its wait. -/
def State.blockedSince (s : State) : Ready → Option Word
  | .grid id => (s.grid id).blockedAt
  | .team id => (s.team id).blockedAt

/-! ## New teams (R33) -/

/-- A group as a team starts. -/
def newGroup (entry : Addr48) (depth : Nat) (w : SMap Word) (cycle : Nat) : Group :=
  { st := .ready, since := cycle, w := w
    x := (List.range 32).foldl (fun m i => SMap.set 0 m (64 * i) (BitVec.ofNat 64 i)) []
    thr := (List.range 32).map fun i => (i, { pt := .header entry, depth := BitVec.ofNat 4 depth }) }

/-- A team is placed on a core: its groups start under R33, its leader with its weight. -/
def State.placeTeam (s : State) (id core depth weight : Nat) (tm : Team) : State :=
  let sp := s.splitFor core
  let tm := { tm with id := id, core := core, st := .resident }
  let tm := { tm with groups := (List.range tm.gpt).map fun g => (g, newGroup tm.entry depth (tm.w05 g) s.clk.cycle) }
  let tm := if weight = 0 then tm else tm.setGrp 0 ((tm.grp 0).updTh 0 fun th => { th with weight := BitVec.ofNat 64 weight })
  { s.setTeam id tm with part := { s.part with splitEff := SMap.set 0 s.part.splitEff core sp } }

/-- A stream entry of an access descriptor; none where it is malformed (R53). -/
def streamOf (d0 d1 d2 d3 : Nat) : Option Stream :=
  if !bit d0 52 ∧ d0 = 0 ∧ d1 = 0 ∧ d2 = 0 ∧ d3 = 0 then some {}
  else if bf d0 63 53 ≠ 0 ∨ bf d2 63 32 ≠ 0 ∨ 4 ≤ bf d0 50 48 ∨ bf d0 47 0 % 2 ^ bf d0 50 48 ≠ 0 then none
  else some { en := bit d0 52, out := bit d0 51, esz := bf d0 50 48, base := bf d0 47 0, step := s32 (bf d1 63 32), tstride := s32 (bf d1 31 0),
              count := bf d2 31 0, tmstride := s32 (bf d3 63 32), gstride := s32 (bf d3 31 0) }

/-- The four streams of a descriptor; none where one is malformed. -/
def streamsOf (d : List Nat) : Option (SMap Stream) :=
  (List.range 4).foldl (fun a q => match a, streamOf (d.getD (4 * q) 0) (d.getD (4 * q + 1) 0) (d.getD (4 * q + 2) 0) (d.getD (4 * q + 3) 0) with
    | some m, some st => some (SMap.set {} m q st)
    | _, _ => none) (some [])

/-- The access descriptor of a grid at a dispatch: its streams, or the cause of the team's kill, or a wait. -/
def State.readAdesc (s : State) (fn : Nat) (harbour : Bool) (img : BitVec 1024) : Except (Option Nat × State) (SMap Stream × State) :=
  if !bit (tdw img 0) 14 then .ok ([], s)
  else match s.reach fn harbour .load (recAdesc img) 128 with
    | (.ok x, s) =>
      match streamsOf ((List.range 16).map fun i => s.rd (x.key + 8 * i) 8) with
      | some m => .ok (m, s)
      | none => .error (some 0x20, s)
    | (.skip c, s) => .error (some c, s)
    | (.stuck, s) => .error (none, s)
    | (.later, s) => .error (none, s)

/-- The team of linear index `k` of a grid (R31, R33). -/
def Grid.team (g : Grid) (k : Nat) : Team :=
  let d := g.dims.toNat
  let nx := dimX d
  let ny := dimY d
  let coord := k % nx + 2 ^ 16 * (k / nx % ny) + 2 ^ 32 * (k / nx / ny)
  { fn := g.fn, harbour := g.harbour, origin := .grid g.id, root := recRoot g.img, lin := k, coord := BitVec.ofNat 64 coord,
    nteams := g.nteams, gpt := recGpt g.img, rblk := recRblk g.img, spl := recSpl g.img, prio := 0, scls := bf (tdw g.img 0) 16 15,
    dloff := bf (tdw g.img 1) 63 48, idem := bit (tdw g.img 0) 13, discardable := bit (tdw g.img 0) 13, entry := BitVec.ofNat 48 (recEntry g.img),
    args := BitVec.ofNat 64 (recArgs g.img), tag := recTag g.img,
    init := [BitVec.ofNat 64 (recArgs g.img), BitVec.ofNat 64 k, BitVec.ofNat 64 coord, 0, BitVec.ofNat 64 (recGpt g.img), BitVec.ofNat 64 (dimTeams d)] }

/-- The scheduler takes an item off its queue and off its reservation. -/
def State.unqueue (s : State) (r : Ready) (id : Nat) : State :=
  { s with sched := { s.sched with queue := s.sched.queue.filter fun e => e.2 != r, reserved := s.sched.reserved.filter fun e => e.2 != id } }

/-- The next team of a grid is placed (R46). -/
def State.dispatchGrid (s : State) (id core : Nat) : State :=
  let g := s.grid id
  let k := g.next
  let place (s : State) (streams : SMap Stream) (kill : Option Nat) : State :=
    let (t, s) := s.newId
    let tm := g.team k
    let w := if recRoot g.img = 0 then 0 else share (recWeight g.img) g.nteams k
    let s := s.placeTeam t core (s.recDepth g) w { tm with prio := s.effPrio g.fn g.harbour (recPrio g.img), streams := streams, share := BitVec.ofNat 64 w }
    let s := match kill with
      | some c => s.updTeam t fun tm => tm.askKill s.clk.time c 0 0
      | none => s
    let s := s.updGrid id fun g => { g with st := .running, next := k + 1, live := g.live + 1, blockedAt := none }
    let s := if k = 0 then s.setRecState (s.grid id) 3 else s
    let s := { s with sched := { s.sched with reserved := s.sched.reserved.filter fun e => e.2 != id } }
    if k + 1 = g.nteams then s.unqueue (.grid id) id else s
  match s.readAdesc g.fn g.harbour g.img with
  | .ok (m, s) => place s m none
  | .error (some c, s) => place s [] (some c)
  | .error (none, s) => s.updGrid id fun g => { g with stuck := true }

/-- A returning team is placed: a saved one restored, a discarded one from ENTRY (R61, R62, R366). -/
def State.dispatchTeam (s : State) (id core : Nat) : State :=
  let tm := s.team id
  let s := s.unqueue (.team id) id
  if tm.st = .discarded then
    let depth := match s.gridOf id with | some g => s.recDepth g | none => 0
    s.placeTeam id core depth tm.carry.toNat { tm with carry := 0, discardable := tm.idem, blockedAt := none }
  else
    let sp := s.splitFor core
    let s := { s with part := { s.part with splitEff := SMap.set 0 s.part.splitEff core sp } }
    (s.updTeam id fun tm => { tm with core := core, blockedAt := none }).restoreTeam id

/-! ## Engine batches (R45) -/

/-- The core of a batch: lowest of the pairs that the function owns outright, else of its pool; harbour core 640. A power-gated pair is none
(log 206). -/
def State.batchCore (s : State) (g : Grid) : Option Nat :=
  if g.harbour then (if s.lh.harbourRun then some 640 else none)
  else if (s.fn g.fn).reset.isSome then none
  else match (s.ownPairs g.fn).filter fun p => !s.part.gated.contains p with
    | p :: _ => some (2 * p)
    | [] => ((s.poolPairs g.fn).find? fun p => !s.part.gated.contains p).map fun p => 2 * p

/-- The command of a batch. -/
def batchCmd (s : State) (g : Grid) (core qn k : Nat) (img : BitVec 512) : Cmd :=
  let w := if recRoot g.img = 0 then 0 else share (recWeight g.img) g.nteams k
  { qn := qn, core := core, fn := g.fn, harbour := g.harbour, root := recRoot g.img, gridSelf := g.self, scls := bf (tdw g.img 0) 16 15,
    dloff := bf (tdw g.img 1) 63 48, img := img, wfrag := BitVec.ofNat 64 w, batch := true, grid := g.id, id := s.clk.ids }

/-- A command of a batch that is not pushed (R45). -/
def State.failBatchCmd (s : State) (c : Cmd) (cause addr : Nat) (cpl : Bool) : State :=
  let c := { c with failed := true, cause := cause, eaddr := addr, failTime := s.clk.time, akind := if addr = 0 then 0 else 1 }
  s.launch c.fn c.harbour (if cpl then c.endDeeds else [c.record cause c.akind addr 0] ++
    (if c.root = 0 ∨ c.wfrag = 0 then [] else [.ret c.root c.wfrag.toNat true]) ++ [.itemEnd c.grid cause])

/-- The next command of a batch is pushed, or fails, or waits (R45). -/
def State.pushBatch (s : State) (g : Grid) (core : Nat) : State :=
  let k := g.next
  let c0 := batchCmd s g core 0 k 0
  let step (s : State) : State := s.updGrid g.id fun g => { g with next := k + 1, live := g.live + 1 }
  let r := (s.engBytes c0 ((recAdesc g.img + 64 * k) % 2 ^ 48) 64 0).bind fun img s =>
    (s.engBytes c0 ((recArgs g.img + k) % 2 ^ 48) 1 0).bind fun qn s => .ok (img, qn) s
  match r with
  | .wait stuck s => if stuck then s.updGrid g.id fun g => { g with stuck := true } else s
  | .fail cause _ a _ s => (step s).failBatchCmd c0 cause a false
  | .ok (img, qn) s =>
    let c := batchCmd s g core qn k (BitVec.ofNat 512 img)
    if !queueOk core qn then (step s).failBatchCmd c 0x0B 0 true
    else if 64 ≤ s.queued core qn then s
    else (step s).acceptCmd c

/-! ## Ends of teams and grids (R58, R63, R419) -/

/-- Whether the device still acts for a team: held actions, borrows, returns. -/
def State.teamDeeds (s : State) (t : Nat) : Bool :=
  s.sched.chains.any fun c => (match c.owner with | some (t', _, _) => t' = t | none => false) ||
    c.deeds.any fun d => match d with | .held t' _ _ => t' = t | .borrow t' _ _ _ _ => t' = t | _ => false

/-- Whether all of a team's stores have drained (R58). -/
def State.teamDrained (s : State) (t : Nat) : Bool :=
  ((s.team t).groups.all fun e => (List.range 32).all fun l => s.drained t e.1 l) && !(s.stores.any fun f => f.team = t)

/-- Whether a team's resources can be released: its matrix work done, its deeds made. -/
def State.teamIdle (s : State) (t : Nat) : Bool := !s.mtxBusy t && !s.teamDeeds t

/-- Modified lines of every enabled region are written back; none while a page is absent (R72). -/
def State.regionsBack (s : State) (t : Nat) : Option State :=
  let ks := (s.team t).regions
  if ks.any fun k => s.rgnParks t k then none else some (ks.foldl (fun s k => s.rgnWriteBack t k) s)

/-- A team that has released everything goes: its weight returns, its item is told (R58, R289, R297). The root of a microkernel is an address
of its pusher's space. -/
def State.dropTeam (s : State) (t cause : Nat) (errs : List Deed) : State :=
  let tm := s.team t
  let ws := tm.weights ++ (if tm.carry = 0 then [] else [tm.carry.toNat])
  let rets := if tm.root = 0 then [] else ws.map fun w => Deed.ret tm.root w (cause ≠ 0)
  let (fin, s) : List Deed × State := match tm.origin with
    | .grid id => ([.itemEnd id cause], s.updGrid id fun g => { g with impl := g.impl + tm.impl })
    | .lkrun c => ([.cmdEnd c], s.updCmd c fun c => { c with failed := decide (cause ≠ 0), cause := cause, quiet := true })
    | .amsg c => ([.cmdEnd c], s.updCmd c fun c => { c with failed := decide (cause ≠ 0), cause := cause, quiet := true, detail := ws.sum })
    | .firmware => ([], s)
  let far := match tm.origin with
    | .amsg c => (s.cmd c).far != 0
    | _ => false
  let s := { s.unqueue (.team t) t with teams := SMap.del t s.teams }
  let harbour := match tm.origin with
    | .lkrun c => (s.cmd c).harbour
    | _ => tm.harbour
  s.launch tm.fn harbour ((if far then [] else rets) ++ errs ++ fin)

/-- SELF of the record that a team belongs to. -/
def State.teamItem (s : State) (t : Nat) : Nat := ((s.gridOf t).map fun g => g.self).getD 0

/-- A team that has ended or is killed, and is idle: its resources are released, then its stores drain (R58, R63). -/
def State.releaseOnce (s : State) (t : Nat) : State := if (s.team t).released then s else s.releaseTeam t

/-- Steps 1–3 of a kill: the groups halt, transactions abort and their held actions go, outstanding loads are discarded (R419). -/
def State.killStart (s : State) (t : Nat) : State :=
  s.updTeam t fun tm => { tm.mapGroups fun _ g =>
    let g := g.abortTx .again 0xFFFFFFFF
    { g with st := .done, out := [], tx := none } with killed := true }

/-- Steps 5–7: weight, record, end (R419, R420). -/
def State.killEnd (s : State) (t cause : Nat) : State :=
  let tm := s.team t
  s.dropTeam t cause [.err { time := some tm.killTime, cause := cause, skind := 0, snum := tm.core, vf := tm.fn, count := tm.killCount, akind := tm.killKind, addr := tm.killAddr,
                                              item := s.teamItem t, tag := tm.tag, detail := tm.killDetail }]

/-- What a record that retires does (R58): completion, successors, hold, and its parent as memory names it (R39). -/
def Grid.retireDeeds (g : Grid) (parent : Nat) : List Deed :=
  let m := g.img
  let status := if g.failed then 1 else if g.empty then 2 else 0
  let count := if recKind m = 1 then g.dims.toNat else 0
  let hold := if g.nteams = 0 then recWeight m else 1
  (if recCrec m ∧ recRing m ≠ 63 then [.post (recRing m) (complRec (recTag m) status (if g.failed then g.fault else 0) (recCarries m) g.impl count g.self)] else []) ++
  succDeeds m ++ (if recCarries m then [.ret (recRoot m) hold g.failed] else []) ++ (if parent = 0 then [] else [.decCpl parent])

/-- Whether a record can retire: every team or command has ended, and CPLCNT is zero (R32). -/
def State.retires (s : State) (g : Grid) : Bool := recKind g.img != 3 && g.st = .running && g.next = g.nteams && g.live = 0 && s.cplcnt g = 0

/-! ## Slices of a pool (R361–R369) -/

/-- A pool. -/
def State.pool (s : State) (k : Nat) : Pool := SMap.get {} s.part.pools k

/-- Change a pool. -/
def State.updPool (s : State) (k : Nat) (f : Pool → Pool) : State :=
  { s with part := { s.part with pools := SMap.set {} s.part.pools k (f (s.pool k)) } }

/-- Cores of a pool. -/
def State.poolCores (s : State) (k : Nat) : List Nat :=
  ((List.range 192).filter fun p => s.pairOwner p = 256 + k && !s.part.fenced.contains p).flatMap fun p => [2 * p, 2 * p + 1]

/-- Teams resident on a pool's cores. -/
def State.poolTeams (s : State) (k : Nat) : List Nat :=
  (s.teams.filter fun e => e.2.st = .resident ∧ (s.poolCores k).contains e.2.core).map (·.1)

/-- Teams of a function that were saved at a slice end, in the order of their saves. -/
def State.slicedTeams (s : State) (fn : Nat) : List Nat :=
  let l := s.teams.filter fun e => e.2.fn = fn ∧ !e.2.harbour ∧ ((e.2.st = .saved ∧ !e.2.byFault) ∨ e.2.st = .coop) ∧ !(s.sched.queue.any fun q => q.2 = .team e.1)
  (l.mergeSort fun a b => decide (a.2.saveSeq ≤ b.2.saveSeq)).map (·.1)

/-- Teams of a function that were discarded and are not yet queued. -/
def State.discardedTeams (s : State) (fn : Nat) : List Nat :=
  (s.teams.filter fun e => e.2.fn = fn ∧ e.2.st = .discarded ∧ !(s.sched.queue.any fun q => q.2 = .team e.1)).map (·.1)

/-- Whether a member qualifies for a slice: ready work, saved teams or withheld completions (R362). -/
def State.hasWork (s : State) (fn : Nat) : Bool :=
  (s.sched.queue.any fun e => let (_, f, h, _) := s.readyItem e.2; f = fn && !h) || !(s.slicedTeams fn).isEmpty || !(s.discardedTeams fn).isEmpty ||
  (s.teams.any fun e => e.2.fn = fn && e.2.st = .resident && !isLedge e.2.core && !e.2.harbour) ||
  !(s.fn fn).withheld.isEmpty || (s.eng.cmds.any fun c => c.fn = fn && !c.started && decide (c.core < 384)) ||
  (s.sched.grids.any fun g => g.fn = fn && !g.harbour && recKind g.img = 2 && g.st = .running && decide (g.next < g.nteams))

/-- Members in the order in which turns come after the current one. -/
def Pool.turns (p : Pool) : List Nat :=
  match posIn p.members p.cur with
  | some i => p.members.drop (i + 1) ++ p.members.take (i + 1)
  | none => p.members

/-- The next member, with the debts of turns that are skipped paid off (R362, R368). -/
def State.nextMember (s : State) (p : Pool) : Nat → List Nat → Option (Nat × Nat) × State
  | 0, _ => (none, s)
  | _, [] => (none, s)
  | k + 1, m :: t =>
    if !s.hasWork m then s.nextMember p k t
    else
      let d := (s.fn m).debt
      if d < 1000 * p.slicelen then (some (m, 1000 * p.slicelen - d), s.updFn m fun f => { f with debt := 0 })
      else (s.updFn m fun f => { f with debt := d - 1000 * p.slicelen }).nextMember p k (t ++ [m])

/-- Whether a command cannot be pre-empted: a bank-side command or a shelf append that has started and not ended (R299, R353). -/
def Cmd.unstoppable (c : Cmd) : Bool :=
  (c.qn = 4 && cmdCode c.img != 0x4C || c.qn = 6 && cmdCode c.img = 0x61) && c.started && c.st != .done

/-- Bank-side commands and appends of a function under way now (R368). -/
def State.stuckFast (s : State) (fn : Nat) : List Nat := (s.eng.cmds.filter fun c => c.fn = fn && c.unstoppable).map (·.id)

/-- Whether one that ran at a slice end still runs (R368). -/
def State.slackRuns (s : State) (fn : Nat) (e : Slack) : Bool := e.ids.any fun k => (s.stuckFast fn).contains k

/-- Whether one that ran at some slice end of the function still runs (R368). -/
def State.slackBusy (s : State) (fn : Nat) : Bool := (s.fn fn).slacks.any fun e => s.slackRuns fn e

/-- The debt of a slice end at `t`, in nanoseconds (R368); what still runs has run past it so far. -/
def State.sliceDebt (s : State) (p : Pool) (t : Word) : Nat :=
  let v := ((p.vacated.getD s.clk.time) - t).toNat
  let c := v - (s.fn p.cur).budAt.toNat * 1000 / max 1 s.ras.clockMhz
  max c (if s.slackBusy p.cur then s.since t else 0)

/-- The outgoing teams are treated one by one (R363). -/
def State.leaveSlice (s : State) (t : Nat) : State :=
  if (s.team t).discardable then
    (if s.saveReady t then s.discardTeam t else s.updTeam t fun tm => { tm with forceSave := true })
  else if s.noHandler t then s.updTeam t fun tm => { tm with forceSave := true }
  else s.updTeam t fun tm => { tm with entering := true }

/-- Queue entries for teams. -/
def State.queueTeams (s : State) (ts : List Nat) (prio : Nat → Nat) : State :=
  { s with sched := { s.sched with queue := s.sched.queue ++ ts.map fun t => (prio t, .team t) } }

/-- A member's slice starts (R362): SY.HVF of the pool's cores, the teams saved at slice ends before any other work. Its withheld records
come before any other of its rings' (R369). -/
def State.startSlice (s : State) (k m len : Nat) : State :=
  let s := { s with part := { s.part with hvf := (s.poolCores k).foldl (fun h c => SMap.set 0 h c m) s.part.hvf } }
  let s := s.updPool k fun p => { p with cur := m, curlen := len, start := s.clk.time, endTime := none, vacated := none }
  if m = 0 then s
  else
    let s := s.queueTeams (s.slicedTeams m) fun _ => 24
    s.queueTeams (s.discardedTeams m) fun t => (s.team t).prio

/-- Whether a function is descheduled (R369). -/
def State.descheduled (s : State) (fn : Nat) : Bool :=
  match s.poolOf fn with
  | some k => (s.pool k).cur != fn && (s.ownPairs fn).isEmpty
  | none => false

end Sys2Proof.Machine
end

