-- ==== Sys2Proof/Machine/Rings.lean ====
section
/-! DEFINITION. Event rings and MSI-X (R369, R387–R390), the fault ring (R343, R462), and context resets (R353, R443, R444, R449). -/

namespace Sys2Proof.Machine

open Sys2Proof

/-! ## Vectors (R385, R390, R449) -/

/-- Whether a function exists: the physical one always does (R352, R461). -/
def State.exists_ (s : State) (f : Nat) : Bool := f = 0 || (decide (f < 16) && (s.fn f).made)

/-- Send a vector, or set its pending bit when it is masked; none in ERROR. -/
def State.sendVector (s : State) (f v : Nat) : State :=
  let c := s.fn f
  if c.iface = Iface.error then s
  else if c.masked.getLsbD v then s.setFn f { c with msixPend := c.msixPend ||| BitVec.ofNat 64 (2 ^ v) }
  else { s with outbox := s.outbox ++ [.msix f v] }

/-! ## Rings (R387, R388) -/

/-- Where a byte of a ring lies: the function's stage 2 names device or host memory; an address that it does not map is the host's. -/
def State.ringKey (s : State) (f a : Nat) : Nat :=
  match s.stage2 f (f = 0) a with
  | .ok o => match (if o.tgt = 0 then s.resolve o.pa else none) with
    | some k => k
    | none => hostKey a
  | .error _ => hostKey a

/-- The ring-table entry of a ring. -/
def Fn.ringEntry (f : Fn) (n : Nat) : Nat := f.ringTab + 32 * n

/-- RIDX as memory holds it. -/
def State.ridx (s : State) (f n : Nat) : Option (BitVec 32) :=
  (s.hubReach .load ((s.fn f).ringEntry n + 0x14) 4).map fun x => BitVec.ofNat 32 (s.rd x.key 4)

/-- Slots that a record of a ring takes. -/
def slotsOf (n : Nat) : Nat := if n = 63 then 2 else 1

/-- Whether a ring has room for its next record. -/
def State.ringRoom (s : State) (f n : Nat) : Bool :=
  let r := (s.fn f).ring n
  match s.ridx f n with
  | some i => decide ((r.widx - i).toNat + slotsOf n ≤ 2 ^ r.log2n)
  | none => false

/-- The 32 bytes of one slot, with its phase bit. -/
def slotBits (v ph : Nat) : Nat := v % 2 ^ 255 + ph * 2 ^ 255

/-- Write a record into its slots. A completion takes the time of the write. -/
def State.fillSlots (s : State) (f n : Nat) (v : BitVec 512) : State :=
  let r := (s.fn f).ring n
  let w := r.widx.toNat
  let ph := w / 2 ^ r.log2n % 2
  let slot (k : Nat) : Nat := s.ringKey f ((r.base + 32 * ((w + k) % 2 ^ r.log2n)) % 2 ^ 48)
  if n = 63 then
    (s.writeAt (slot 0) 32 (slotBits v.toNat ph)).writeAt (slot 1) 32 (slotBits (v.toNat / 2 ^ 256) ph)
  else s.writeAt (slot 0) 32 (slotBits (v.toNat / 2 ^ 64 % 2 ^ 192 * 2 ^ 64 + s.clk.time.toNat) ph)

/-- WIDX goes on, in the device and in the ring table (R387). -/
def State.countSlots (s : State) (f n : Nat) : State :=
  let w := ((s.fn f).ring n).widx + BitVec.ofNat 32 (slotsOf n)
  let s := s.updFn f fun c => c.updRing n fun r => { r with widx := w }
  (s.hubWrite ((s.fn f).ringEntry n + 0x10) 4 w.toNat).getD s

/-- A written record counts toward the ring's vector; the one that finds none pending starts the timer (R390). -/
def State.coalesce (s : State) (f n : Nat) : State :=
  let r := (s.fn f).ring n
  let t := if r.pend = 0 then some s.clk.time else r.timer
  if max 1 r.ccount ≤ r.pend + 1 then (s.updFn f fun c => c.updRing n fun r => { r with pend := 0, timer := none }).sendVector f r.vec
  else s.updFn f fun c => c.updRing n fun r => { r with pend := r.pend + 1, timer := t }

/-- A writer of a ring, or with no number the oldest withheld record, is done with. -/
def State.popRing (s : State) (f n : Nat) (id : Option Nat) : State :=
  s.updFn f fun c => match id with
    | some k => c.updRing n fun r => { r with wait := r.wait.eraseP fun e => e.1 = k }
    | none => { c with withheld := c.withheld.drop 1 }

/-- An error ring and its backlog are full: a corrected record behind merges into the last of the backlog, in both copies. The harbour copy of
a record whose tenant copy has been written stays as it is (R406). -/
def State.mergeErrs (s : State) (f : Nat) : State :=
  let l := s.ringWriters f 63
  let own := l.take 16 ++ if f = 0 then (l.drop 16).filter fun e => recVf e.2 = 0 || !((s.fn (recVf e.2)).ring 63).en else l.drop 16
  match mergeOf own with
  | none => s
  | some (a, b, n) =>
    let s := s.updFn f fun c => c.updRing 63 fun r => r.merge a b n
    if f = 0 then s else s.updFn 0 fun c => c.updRing 63 fun r => r.merge a b n

/-- The report of a record for a disabled ring (R388, R405). -/
def offRing (f : Nat) (v : BitVec 512) : ErrInfo :=
  { errOf 0x25 with skind := 4, vf := f, item := dwordOf v 3 % 2 ^ 48, tag := dwordOf v 1 / 2 ^ 32 }

/-- A ring whose memory has refused a write is disabled in the device's copy; its records go, but for the harbour's (R388, R448). -/
def State.ringFails (s : State) (f n cause : Nat) : State :=
  let s := s.updFn f fun c => c.updRing n fun r => { r with en := false, wait := if f = 0 ∧ n = 63 then r.wait else [] }
  s.postErr { errOf cause with skind := 6, snum := 16, vf := if n = 63 then 0 else f }

/-- The writer that a ring serves next: while records of the function are withheld from an earlier time, the oldest of those comes before any
other of its completion records (R369). -/
def State.nextWriter (s : State) (f n : Nat) : Option (Option Nat × BitVec 512) :=
  let c := s.fn f
  if n = 63 ∨ s.descheduled f ∨ c.withheld.isEmpty then (s.ringWriters f n).head?.map fun e => (some e.1, e.2)
  else (c.withheld.head?.filter fun w => w.ring = n).map fun w => (none, w.record)

/-- The event-ring engine serves the first writer of a ring (R369, R387–R390, R406). -/
def State.serveRing (s : State) (f n : Nat) : State :=
  let c := s.fn f
  let r := c.ring n
  match s.nextWriter f n with
  | none => s
  | some (id, v) =>
    if !r.en then
      if n = 63 then (if f = 0 then s.mergeErrs f else s.popRing f n id)
      else if s.errHeld f then s
      else (s.popRing f n id).postErr (offRing f v)
    else if n ≠ 63 ∧ s.descheduled f then
      if 256 ≤ c.withheld.length then s
      else (s.popRing f n id).updFn f fun c => { c with withheld := c.withheld ++ [{ ring := n, record := v }] }
    else if s.ext.hostDown ∧ 2 ^ 60 ≤ s.ringKey f r.base then s.ringFails f n 0x6D
    else if s.ringRoom f n then (((s.fillSlots f n v).countSlots f n).coalesce f n).popRing f n id
    else if n = 63 then s.mergeErrs f
    else s

/-! ## Ring tables (R387, R463) -/

/-- A ring as its table entry describes it, and whether it was to be enabled and cannot. -/
def ringOf (d0 d1 d3 : Nat) (r : Ring) : Ring × Bool :=
  let base := bf d0 47 0
  let log2n := bf d1 59 56
  let bad := bit d1 63 && (decide (log2n < 4) || base % (32 * 2 ^ log2n) != 0 || bf d0 63 48 != 0 || bf d1 62 60 != 0 || bf d1 55 54 != 0 || d3 != 0)
  let moved := base != r.base || log2n != r.log2n
  let r := { r with base := base, en := bit d1 63 && !bad, log2n := log2n, vec := bf d1 53 48, ccount := bf d1 47 32, ctime := bf d1 31 0 }
  (if moved then { r with widx := 0, pend := 0, timer := none } else r, bad)

/-- The entries of some rings, read from a table; none where one cannot be read. -/
def State.readRings (s : State) (tab : Nat) : List Nat → Option (List (Nat × Nat × Nat × Nat))
  | [] => some []
  | n :: t => match s.hubReads (tab + 32 * n) 4, s.readRings tab t with
    | some [d0, d1, _, d3], some l => some ((n, d0, d1, d3) :: l)
    | _, _ => none

/-- The device's copies follow entries that were read: how many rings are taken as disabled, and the state; none where an entry's index words
cannot be written, which fails the command (R463). -/
def State.loadRings (s : State) (f : Nat) (l : List (Nat × Nat × Nat × Nat)) : Option (Nat × State) :=
  l.foldl (fun a e => a.bind fun a =>
    let r := (a.2.fn f).ring e.1
    let (q, bad) := ringOf e.2.1 e.2.2.1 e.2.2.2 r
    let s := a.2.updFn f fun c => c.updRing e.1 fun _ => q
    let t := if q.base = r.base ∧ q.log2n = r.log2n then some s else s.hubWrite ((s.fn f).ringEntry e.1 + 0x10) 8 0
    t.map fun s => (a.1 + (if bad then 1 else 0), s)) (some (0, s))

/-! ## The fault ring (R343, R440, R462) -/

/-- The doublewords of a page request (R343). -/
def PageReq.dwords (r : PageReq) (f : Nat) : List Nat :=
  [r.addr % 2 ^ 48, f * 2 ^ 12 + r.stage * 2 ^ 8 + r.kind * 2 ^ 4, r.time.toNat, 0]

/-- The oldest page request goes to the fault ring, where it has room and can be written. -/
def State.writeRequest (s : State) (f : Nat) : State :=
  let c := s.fn f
  match c.backlog, c.fring with
  | r :: rest, some (base, log2n, vec, ven, idx) =>
    match s.hubReach .load (idx + 4) 4 with
    | none => s
    | some x =>
      if 2 ^ log2n ≤ (c.fwidx - BitVec.ofNat 32 (s.rd x.key 4)).toNat then s
      else match s.hubWrites (base + 32 * (c.fwidx.toNat % 2 ^ log2n)) (r.dwords f) with
        | none => s
        | some s1 => match s1.hubWrite idx 4 (c.fwidx + 1).toNat with
          | none => s
          | some s2 =>
            let s2 := s2.updFn f fun c => { c with backlog := rest, fwidx := c.fwidx + 1 }
            if ven then s2.sendVector f vec else s2
  | _, _ => s

/-! ## Context resets (R353, R443, R444) -/

/-- Units of the items of a record that have not begun. -/
def Grid.restWeight (g : Grid) : Nat :=
  if recRoot g.img = 0 ∨ recWeight g.img = 0 then 0
  else ((List.range (g.nteams - g.next)).map fun k => share (recWeight g.img) g.nteams (g.next + k)).sum

/-- The error record of a record that a reset fails. -/
def resetErrRec (g : Grid) : Deed :=
  .err { errOf 0x66 with skind := 4, vf := g.fn, akind := 1, addr := g.self, item := g.self, tag := recTag g.img }

/-- A record with items that have not begun fails: all of it before its first, else the items that are left (R353). -/
def State.failGrid (s : State) (g : Grid) : State :=
  if recKind g.img = 3 then s
  else if g.next = 0 ∧ !(g.st = .running ∧ g.next = g.nteams) then
    let s := s.recWr g 0x7C 4 0
    (s.failReady g.id 0x66).launch g.fn false [resetErrRec g]
  else if g.next < g.nteams then
    let (ds, s) := s.decCplcnt g (g.nteams - g.next)
    let s := s.updGrid g.id fun g => { g with next := g.nteams, failed := true, fault := if g.fault = 0 then 0x66 else g.fault, stuck := false }
    s.launch g.fn false (resetErrRec g :: ds ++ if g.restWeight = 0 then [] else [.ret (recRoot g.img) g.restWeight true])
  else s

/-- What is left of a chain of deeds in a reset: records on their way in fail, actions of killed teams go, the rest stays. -/
def Deed.inReset (fn : Nat) : Deed → List Deed
  | .enqueue g => failDeeds fn g 0x66
  | .keepFailed g => failDeeds fn g 0x20
  | .ready _ => []
  | .held _ _ _ => []
  | .borrow _ _ _ _ _ => []
  | d => [d]

/-- Whether a command is failed by a reset: not started, waiting to be placed, or waiting for replay (R353). -/
def Cmd.resetFails (c : Cmd) (f : Nat) : Bool :=
  c.fn = f && !c.harbour && c.st != .done && c.st != .spawned && (!c.started || c.st = .sent || c.st = .parked)

/-- Withheld records give way to one reset record (R353). -/
def Fn.dropWithheld (c : Fn) : Fn :=
  match c.withheld with
  | [] => c
  | w :: _ => { c with withheld := [{ ring := w.ring, record := (complRec 0 6 0 false 0 0 0).setWidth 512 }] }

/-- Stores of a function's teams that are still on their way are dropped with its packets (R444). -/
def State.doomStores (s : State) (f : Nat) : State :=
  let mine (e : InFlight) : Bool := !e.performed && (s.team e.team).fn = f && !(s.team e.team).harbour && s.hasTeam e.team
  let s' := (s.stores.filter fun e => mine e && e.remote && s.hasGrp e.team e.grp).foldl (fun (s : State) (e : InFlight) =>
    s.updGrp e.team e.grp fun g => g.updTh e.lane fun th => { th with osat := th.osat - 1 }) s
  { s' with stores := s'.stores.filter fun e => !mine e }

/-- Steps 1–4 of a context reset begin (R353, R444); a reset already under way takes the further goals. -/
def State.startReset (s : State) (f : Nat) (r : CtxReset) : State :=
  match (s.fn f).reset with
  | some q => s.updFn f fun c => { c with reset := some { cause := if q.cause = 0 then r.cause else q.cause, toErr := q.toErr || r.toErr, wait := q.wait && r.wait,
                                                          stop := q.stop || r.stop } }
  | none =>
    let s : State := s.updFn f fun c => { c.dropWithheld with reset := some r, timers := [] }
    let s : State := s.doomStores f
    let s : State := { s with teams := s.teams.map fun (e : Nat × Team) => (e.1, if e.2.fn = f ∧ !e.2.harbour then { e.2.askKill s.clk.time 0x66 0 0 with faulted := false } else e.2) }
    let s := (s.eng.cmds.filter fun c => c.resetFails f).foldl (fun s c => s.cmdFail c.id 0x66 0 0 0) s
    let cs := s.sched.chains.map fun (c : Chain) =>
      if c.fn = f ∧ !c.harbour then { c with deeds := c.deeds.flatMap fun d => d.inReset f, stuck := false, owner := none } else c
    let s := { s with sched := { s.sched with chains := cs } }
    (s.sched.grids.filter fun g => g.fn = f && !g.harbour).foldl (fun s g => s.failGrid g)
      { s with sched := { s.sched with queue := s.sched.queue.filter fun e => let (_, fn, h, _) := s.readyItem e.2; !(fn = f && !h) } }

/-- Whether a function's context reset can end: its teams have gone, and nothing that cannot be pre-empted still runs. -/
def State.resetDone (s : State) (f : Nat) (r : CtxReset) : Bool :=
  !(s.teams.any fun e => e.2.fn = f && !e.2.harbour) && (!r.wait || (s.stuckFast f).isEmpty)

/-- An interface enters ERROR: the pending relock is cancelled, one record is written (R449). -/
def State.enterError (s : State) (f : Nat) : State :=
  (s.updFn f fun c => { c with iface := .error, relock := false, lockSess := 0 }).postErr { errOf 0x6F with skind := 7, vf := f }

/-- Whether tenant keys exist: in PROVISIONED and DEBUG_UNLOCKED (R377). -/
def Lh.tenantKeys (l : Lh) : Bool := l.lcs = 2 || l.lcs = 3

/-- Stacks that hold banks of a slice other than 0. -/
def State.stacksOf (s : State) (f : Nat) : List Nat := (List.range 16).filter fun k => s.part.bankSlice.any fun e => e.2 = f && e.1 / 1024 = k

/-- Keys of a slice, generation `n`, go into the key stores of some stacks and into their buddies' (R326, R354); with 0 they are zeroised
there. -/
def Lh.provision (l : Lh) (f n : Nat) (ks : List Nat) : Lh :=
  { l with keys := ks.foldl (fun m k => SMap.set 0 (SMap.set 0 m (keyAt k k f) n) (keyAt (buddy k) k f) n) l.keys }

/-- Fresh keys of a slice in every key store of its stacks and their buddies: every row of it is zero under them, and the shelf key of its
function is another one (R371, R383). Where no tenant key exists there are none to generate (R377). -/
def State.rekey (s : State) (f : Nat) : State :=
  if !s.lh.tenantKeys then s else
  let n := s.lh.nextKey
  let inSlice (k : Nat) : Bool := decide (k < 2 ^ 40) && s.sliceOf (keyBank k) = f
  let mem := s.mem.filter fun e => !inSlice e.1
  let poison := s.ras.poison.filter fun l => !inSlice (l * 64)
  let marked := match s.part.mig with
    | some m => some { m with dirty := m.dirty ++ (((s.mem.filter fun e => inSlice e.1).map fun e => e.1 / 1024).eraseDups.filter fun r => !m.dirty.contains r) }
    | none => none
  { s with mem := mem, ras := { s.ras with poison := poison }, part := { s.part with mig := marked }
           lh := { s.lh.provision f n (s.stacksOf f) with shelfKey := SMap.set 0 s.lh.shelfKey f (n + 1), keyless := s.lh.keyless.filter fun k => k != f, nextKey := n + 2 } }

/-- The end of a context reset (R443, R449): its record; ERROR; or, for STOP_INTERFACE_REQUEST, fresh keys and CONFIG_UNLOCKED (R371). -/
def State.endReset (s : State) (f : Nat) (r : CtxReset) : State :=
  let s := s.updFn f fun c => { c with reset := none }
  let s := if r.cause = 0 then s else s.postErr { errOf r.cause with skind := 4, dom := 1, vf := f }
  let s := if r.toErr then s.enterError f else s
  if r.stop then
    let s := (s.rekey f).updFn f fun c => { c with iface := .unlocked, relock := false, lockSess := 0 }
    { s with outbox := s.outbox ++ [.tdisp f 0x07 0] }
  else s

/-- Resets that have come to their end are ended. -/
def State.settleResets (s : State) : State :=
  s.fns.foldl (fun s e => match (s.fn e.1).reset with
    | some r => if s.resetDone e.1 r then s.endReset e.1 r else s
    | none => s) s

/-- An interface is to enter ERROR once its context has been reset (R449); `cause` is a record of its own, 0 for none. -/
def State.toError (s : State) (f cause : Nat) : State :=
  if f = 0 ∨ !s.exists_ f ∨ (s.fn f).iface = Iface.error then s
  else
    let s := if cause = 0 then s else s.postErr { errOf cause with skind := 6, snum := 16, vf := f }
    s.startReset f { toErr := true }

/-- Whether an interface is CONFIG_LOCKED or RUN. -/
def Fn.isLocked (c : Fn) : Bool := c.iface = Iface.locked || c.iface = Iface.run

/-- The slack watchdog resets a function's context (R443). -/
def State.slackReset (s : State) (f : Nat) : State :=
  let late := (s.stuckFast f).filter fun k => (s.fn f).slacks.any fun e => e.ids.contains k
  let s := late.foldl (fun s id => s.cmdFail id 0x65 0 0 0) s
  (s.updFn f fun c => { c with debt := 0, slacks := [] }).startReset f { cause := 0x65, toErr := true, wait := false }

/-- Overruns of bank-side work that has ended are turned into debt (R368). -/
def State.settleSlack (s : State) : State :=
  s.fns.foldl (fun s e =>
    let ended := (s.fn e.1).slacks.filter fun k => !s.slackRuns e.1 k
    if ended.isEmpty then s
    else s.updFn e.1 fun c => { c with debt := ended.foldl (fun d k => max d (s.since k.time)) c.debt, slacks := c.slacks.filter fun k => !ended.contains k }) s

/-- The time at which the last core of a pool is vacated, which ends the overrun C (R368). -/
def State.settleVacated (s : State) : State :=
  s.part.pools.foldl (fun s e =>
    let p := s.pool e.1
    if p.endTime.isSome ∧ p.vacated.isNone ∧ (s.poolTeams e.1).isEmpty then s.updPool e.1 fun p => { p with vacated := some s.clk.time } else s) s

end Sys2Proof.Machine
end

