-- ==== Sys2Proof/Machine/HostOps.lean ====
section
/-! DEFINITION. The host port, event rings, Longshore links and their faults (R385–R391, R444–R448). -/

namespace Sys2Proof.Machine

open Sys2Proof

/-! ## The enqueue port (R386) -/

/-- Records in a function's ingress queue, those still being written among them. -/
def State.ingress (s : State) (f : Nat) : Nat :=
  (s.sched.grids.filter fun g => g.inQ && g.fn = f).length +
  (s.sched.chains.filter fun c => c.fn = f && !c.harbour && (match c.deeds with
    | .enqueue _ :: _ => true
    | .keepFailed _ :: _ => true
    | _ => false)).length

/-- The report of a refused or posted write to an enqueue page. -/
def State.refuseWrite (s : State) : State := s.postErr { errOf 0x26 with skind := 6, snum := 16 }

/-- A Deferrable Memory Write to an enqueue page is answered: 0 accepted, 1 busy, 2 Unsupported Request. -/
def State.answerEnqueue (s : State) (f len off : Nat) (pasidOk : Bool) (img : BitVec 1024) : State :=
  let c := s.fn f
  let say (s : State) (k : Nat) : State := { s with outbox := s.outbox ++ [.enqueue f k] }
  if 15 < f then s
  else if len ≠ 128 ∨ off % 128 ≠ 0 ∨ (s.exists_ f ∧ !pasidOk) then (say s 2).refuseWrite
  else if !c.made ∨ c.reset.isSome ∨ c.iface = Iface.error ∨ c.iqDepth ≤ s.ingress f then say s 1
  else (say s 0).launch f false [if recBad img true then .keepFailed img else .enqueue img]

/-! ## BAR windows (R385, R391, R449) -/

/-- A doubleword of the MSI-X table: address; data and the mask bit. -/
def Fn.msixRead (c : Fn) (i : Nat) : Word :=
  if i % 2 = 0 then SMap.get 0 c.msix i
  else SMap.get 0 c.msix i + (if c.masked.getLsbD (i / 2) then BitVec.ofNat 64 (2 ^ 32) else 0)

/-- Write a doubleword of the MSI-X table; a vector that is unmasked while it is pending is sent. -/
def State.msixWrite (s : State) (f i : Nat) (v : Word) : State :=
  if i % 2 = 0 then s.updFn f fun c => { c with msix := SMap.set 0 c.msix i v }
  else
    let bit : Word := BitVec.ofNat 64 (2 ^ (i / 2))
    let s := s.updFn f fun c => { c with msix := SMap.set 0 c.msix i (v &&& 0xFFFFFFFF)
                                         masked := if v.getLsbD 32 then c.masked ||| bit else c.masked &&& ~~~ bit }
    if !v.getLsbD 32 ∧ (s.fn f).msixPend.getLsbD (i / 2) then
      (s.updFn f fun c => { c with msixPend := c.msixPend &&& ~~~ bit }).sendVector f (i / 2)
    else s

/-- A doubleword of the physical function's BAR2: peer entries, then admission entries. -/
def State.bar2Read (s : State) (off : Nat) : Word :=
  if off < 0x20000 then SMap.get 0 s.ext.peer (off / 8)
  else match SMap.get none s.ext.admission ((off - 0x20000) / 8) with
    | some (tag, vf) => BitVec.ofNat 64 (2 ^ 63 + vf * 2 ^ 16 + tag)
    | none => 0

/-- Write a doubleword of BAR2. An admission entry of a link that is down enables the link again (R447). -/
def State.bar2Write (s : State) (off : Nat) (v : Word) : State :=
  let i := (off - 0x20000) / 8
  if off < 0x20000 then { s with ext := { s.ext with peer := SMap.set 0 s.ext.peer (off / 8) v } }
  else { s with ext := { s.ext with admission := SMap.set none s.ext.admission i
                                      (if v.getLsbD 63 then some (bf v.toNat 15 0, bf v.toNat 19 16) else none)
                                    linkDown := s.ext.linkDown.filter fun l => l != i / 64 } }

/-- A host request to a BAR window: the answer is Unsupported Request, or a value. -/
def State.barRequest (s : State) (f bar off : Nat) (wr : Bool) (v : Word) : State :=
  let c := s.fn f
  let say (s : State) (ur : Bool) (v : Word) : State := { s with outbox := s.outbox ++ [.bar f ur v] }
  if 15 < f then s
  else if !s.exists_ f ∨ s.lh.spdmOnly then say s true 0
  else if bar = 0 ∧ off < 0x1000 then (if wr then s.refuseWrite else say s false (s.free 4))
  else if bar = 0 ∧ off < 0x1400 then
    (if c.iface = Iface.error then (if wr then s else say s false (-1))
     else if wr then s.msixWrite f ((off - 0x1000) / 8) v
     else say s false (c.msixRead ((off - 0x1000) / 8)))
  else if bar = 0 ∧ off < 0x3000 then
    (if wr then s else say s false (if off / 8 = 0x2000 / 8 then c.msixPend else s.free 4))
  else if bar = 2 ∧ f = 0 ∧ off < 0x22000 then (if wr then s.bar2Write off v else say s false (s.bar2Read off))
  else say s true 0

/-! ## Accesses that leave the package and fail (R444–R448) -/

/-- The remote results of one access become poison. -/
def Group.spoil (g : Group) (sel : Pend → Bool) : Group :=
  { g with out := g.out.map fun p => if p.remote != 0 && p.ready && sel p then { p with poison := true } else p }

/-- The record of a remote access that fails. -/
def State.remoteErr (s : State) (t cause : Nat) : State :=
  s.postErr { errOf cause with snum := (s.team t).core, vf := (s.team t).fn }

/-- A store, RED or atomic on its way leaves SY.OSAT; a value that it was to return comes as poison. Where the request may have been
performed, nature decides whether it was (R446). -/
def State.failStore (s : State) (f : InFlight) (cause : Nat) : State :=
  let done := cause = 0x69 ∧ !f.performed ∧ (s.free (2 ^ 26 + f.id)).getLsbD 0
  let s := if done then s.performStore f else s
  let s := { s with stores := s.stores.filter fun e => e.id != f.id }
  let s := if s.hasGrp f.team f.grp then
      s.updGrp f.team f.grp fun g => (g.updTh f.lane fun th => { th with osat := th.osat - 1 }).spoil fun p => p.lane = f.lane && p.seq = f.seq
    else s
  s.remoteErr f.team cause

/-- The team and group whose result has a number. -/
def State.pendAt (s : State) (op : Nat) : Option (Nat × Nat × Pend) :=
  s.teams.findSome? fun e => e.2.groups.findSome? fun h => (h.2.out.find? fun p => p.id = op).map fun p => (e.1, h.1, p)

/-- A store or a result that a number names fails; `host` tells which side it went to. -/
def State.failRemote (s : State) (op cause : Nat) (host : Bool) : State :=
  match s.stores.find? fun f => f.id = op && f.remote && decide (f.key < 2 ^ 61) = host with
  | some f => s.failStore f cause
  | none => match s.pendAt op with
    | some (t, g, p) =>
      if p.ready ∧ !p.poison ∧ p.remote = (if host then 2 else 1) then (s.updGrp t g fun gr => gr.spoil fun q => q.id = op).remoteErr t cause
      else s
    | none => s

/-- Numbers of the accesses on their way to the host, or to other packages. -/
def State.outside (s : State) (host : Bool) : List Nat :=
  ((s.stores.filter fun f => f.remote && decide (f.key < 2 ^ 61) = host).map (·.id)) ++
  s.teams.flatMap fun e => e.2.groups.flatMap fun h =>
    (h.2.out.filter fun p => p.ready && !p.poison && p.remote = (if host then 2 else 1)).map (·.id)

/-- When the access with a number was issued. -/
def State.issuedAt (s : State) (op : Nat) : Option Word :=
  match s.stores.find? fun f => f.id = op with
  | some f => some f.since
  | none => (s.pendAt op).map fun e => e.2.2.since

/-- The ring in which a record with a number waits. -/
def State.ringOfRec (s : State) (op : Nat) : Option (Nat × Nat) :=
  s.fns.findSome? fun e => e.2.rings.findSome? fun r => if r.2.wait.any fun w => w.1 = op then some (e.1, r.1) else none

/-! ## Longshore (R391, R444, R445) -/

/-- Whether an admission entry of the ingress link has a packet's tag and function. -/
def State.admits (s : State) (link : Nat) (p : LinkPacket) : Bool :=
  s.ext.admission.any fun e => e.1 / 64 = link && e.2 = some (p.tag, p.vf)

/-- Whether a packet asks for something, so that its refusal is answered. -/
def asksFor : LinkKind → Bool
  | .ended _ _ _ => false
  | .nack _ _ => false
  | _ => true

/-- The answer to a packet. -/
def State.reply (s : State) (p : LinkPacket) (ok : Bool) (v : Nat) : State := { s with outbox := s.outbox ++ [.link p.id ok (BitVec.ofNat 64 v)] }

/-- An inbound access to this package's memory: reads, and writes what `op` gives. -/
def State.inbound (s : State) (p : LinkPacket) (n : Nat) (op : Nat → Option Nat) (value : Bool) : State :=
  match s.resolve p.addr with
  | none => (s.reply p false 0x60).postErr { errOf 0x60 with skind := 6, akind := 3, addr := p.addr }
  | some k =>
    if s.sliceOf (keyBank k) ≠ p.vf then s.reply p false 0x05
    else
      let m := s.rd k n
      let bad := s.isPoison k n
      let s := (s.noteRead k n).askChan p.vf p.cls p.stamp k 2000
      let s := match (if bad && value then none else op m) with
        | some v => s.writeAt k n (v % 2 ^ (8 * n))
        | none => s
      s.reply p (!(bad && value)) (if value then m else 0)

/-- The sender of an active message learns that its team has ended (R289). -/
def State.farEnded (s : State) (msg cause units : Nat) : State :=
  match s.eng.cmds.find? fun c => c.id = msg && c.away && c.st = .spawned with
  | none => s
  | some c =>
    (s.updCmd msg fun c => { c with st := .done, failed := decide (cause ≠ 0), cause := cause, quiet := true }).launch c.fn c.harbour
      (if c.root = 0 ∨ units = 0 then [] else [.ret c.root units (decide (cause ≠ 0))])

/-- A message that is refused on its way fails at its sender (R285, R289, R445). -/
def State.failMsg (s : State) (msg cause : Nat) : State :=
  if (s.cmd msg).away ∧ (s.cmd msg).st = .spawned then s.cmdFail msg cause 0 0 0 else s

/-- What an admitted packet does. -/
def State.inPacket (s : State) (p : LinkPacket) : State :=
  match p.kind with
  | .load => s.inbound p p.size (fun _ => none) true
  | .store => s.inbound p p.size (fun _ => some p.data.toNat) false
  | .red op => s.inbound p p.size (fun m => some (amoOp p.size op m p.data.toNat)) false
  | .amo op => s.inbound p p.size (fun m => some (amoOp p.size op m p.data.toNat)) true
  | .cas cmp => s.inbound p p.size (fun m => if m = cmp.toNat % 2 ^ (8 * p.size) then some p.data.toNat else none) true
  | .message img root scls dloff =>
    s.acceptCmd { qn := 3, fn := p.vf, root := root, scls := scls, dloff := dloff, img := img, st := .sent, started := true, far := p.id + 1,
                  wfrag := BitVec.ofNat 64 (if root = 0 then 0 else cmdWfrag img) }
  | .ended msg cause units => s.farEnded msg cause units
  | .nack op cause => (s.failRemote op cause false).failMsg op cause

/-- A flit of a link has passed its check: the count of replays, which is one flit's, begins anew (R447, log 228). -/
def State.flitPassed (s : State) (link : Nat) : State := { s with ext := { s.ext with replays := SMap.set 0 s.ext.replays link 0 } }

/-- A packet that a link has brought is admitted and carried out, or refused. -/
def State.passIn (s : State) (link : Nat) (p : LinkPacket) : State :=
  if !s.admits link p then (if asksFor p.kind then s.reply p false 0x68 else s)
  else if (s.fn p.vf).reset.isSome ∧ asksFor p.kind then s.reply p false 0x67
  else s.inPacket p

/-- A packet arrives on a link. -/
def State.packetIn (s : State) (link : Nat) (p : LinkPacket) : State :=
  if 16 ≤ link ∨ s.ext.linkDown.contains link ∨ s.ext.retrain.contains link then s
  else (s.flitPassed link).passIn link p

/-- The link record of a flit's replays or of a link that is down (R447). -/
def State.linkErr (s : State) (link cause : Nat) : State := s.postErr { errOf cause with skind := 6, snum := link }

/-- A retrain ends: a failed one marks the link down, and the requests queued on it fail. Which requests those are is not given. -/
def State.retrained (s : State) (link : Nat) (ok : Bool) : State :=
  if !s.ext.retrain.contains link then s
  else
    let s := { s with ext := { s.ext with retrain := s.ext.retrain.filter fun l => l != link, replays := SMap.set 0 s.ext.replays link 0 } }
    if ok then s.linkErr link 0x6A
    else
      let s := { s with ext := { s.ext with linkDown := s.ext.linkDown ++ [link] } }
      (((s.outside false) ++ (s.eng.cmds.filter fun c => c.away).map (·.id)).filter fun id => (s.free (2 ^ 27 + id)).getLsbD 0).foldl
        (fun s id => (s.failRemote id 0x6B false).failMsg id 0x6B) (s.linkErr link 0x6B)

/-- ENQUEUE_WRITE (R386). A write to a function’s enqueue page is accepted, answered busy, or refused. -/
def execEnqueueWrite (fn len off : Nat) (pasidOk : Bool) (img : BitVec 1024) : State → Host.Outcome State Fault Refusal :=
  fun s => .next (s.answerEnqueue fn len off pasidOk img)

/-- POSTED_ENQUEUE_WRITE (R386). A posted write to the enqueue page is discarded, with a record for the harbour. -/
def execPostedEnqueueWrite (fn : Nat) : State → Host.Outcome State Fault Refusal :=
  fun _s => .next (if fn < 16 then _s.refuseWrite else _s)

/-- HOST_BAR_REQUEST (R385). A read or write of a function’s window. -/
def execHostBarRequest (fn bar off : Nat) (wr : Bool) (v : BitVec 64) : State → Host.Outcome State Fault Refusal :=
  fun s => .next (s.barRequest fn bar off wr v)

/-- FAULT_RING_WRITE (R462). The oldest page request of a function is written to its fault ring, where there is room. -/
def execFaultRingWrite (fn : Nat) : State → Host.Outcome State Fault Refusal :=
  fun s => .next (s.writeRequest fn)

/-- RING_RECORD_WRITE (R388). The writer at the head of a ring has its record written, withheld or discarded. -/
def execRingRecordWrite (fn ring : Nat) : State → Host.Outcome State Fault Refusal :=
  fun s => .next (s.serveRing fn ring)

/-- COALESCE_TIMER (R390). A ring’s timer has reached CTIME: its vector is sent; while the function is descheduled, its error ring’s alone
(R369). -/
def execCoalesceTimer (fn ring : Nat) : State → Host.Outcome State Fault Refusal :=
  fun s => .next (
    let r := (s.fn fn).ring ring
    match r.timer with
    | some t =>
      if (ring = 63 ∨ !s.descheduled fn) ∧ r.pend ≠ 0 ∧ r.ctime ≠ 0 ∧ r.ctime ≤ s.since t then (s.updFn fn fun c => c.updRing ring fun r => { r with pend := 0, timer := none }).sendVector fn r.vec
      else s
    | none => s)

/-- LONGSHORE_INGRESS (R445). A packet is admitted and carried out, or refused. -/
def execLongshoreIngress (link : Nat) (pkt : LinkPacket) : State → Host.Outcome State Fault Refusal :=
  fun s => .next (s.packetIn link pkt)

/-- REMOTE_ACK_TIMEOUT (R446). An access to another package has had no acknowledgement for 1 ms. -/
def execRemoteAckTimeout (op : Nat) : State → Host.Outcome State Fault Refusal :=
  fun s => .next (match s.issuedAt op with
    | some t => if 1000000 ≤ s.since t then s.failRemote op 0x69 false else s
    | none => s)

/-- FLIT_CHECK_FAILURE (R447). A flit fails its check; after eight replays the link retrains. -/
def execFlitCheckFailure (link : Nat) : State → Host.Outcome State Fault Refusal :=
  fun s => .next (
    let n := SMap.get 0 s.ext.replays link
    if 16 ≤ link ∨ s.ext.linkDown.contains link ∨ s.ext.retrain.contains link then s
    else if n < 8 then { s with ext := { s.ext with replays := SMap.set 0 s.ext.replays link (n + 1) } }
    else { s with ext := { s.ext with retrain := s.ext.retrain ++ [link] } })

/-- LINK_RETRAIN_DONE (R447). A retrain succeeds, or marks the link down. -/
def execLinkRetrainDone (link : Nat) (ok : Bool) : State → Host.Outcome State Fault Refusal :=
  fun s => .next (s.retrained link ok)

/-- HOST_WRITE_ERROR (R448). The host refuses a write, or does not complete a read: the access fails, or the ring is disabled. -/
def execHostWriteError (op : Nat) : State → Host.Outcome State Fault Refusal :=
  fun s => .next (match s.ringOfRec op with
    | some (f, n) => if ((s.fn f).ring n).en ∧ 2 ^ 60 ≤ s.ringKey f ((s.fn f).ring n).base then s.ringFails f n 0x6C else s
    | none => s.failRemote op 0x6C true)

/-- IDE_INTEGRITY_FAILURE (R448). An IDE stream’s keys are zeroised; functions bound to it enter ERROR. -/
def execIdeIntegrityFailure (stream : Nat) : State → Host.Outcome State Fault Refusal :=
  fun s => .next (
    let fs := ((s.lh.ide.filter fun e => e.1 = stream).map fun e => e.2.1).eraseDups
    fs.foldl (fun s f => s.toError f 0x6E) { s with lh := { s.lh with ide := s.lh.ide.filter fun e => e.1 != stream } })

/-- HOST_LINK_DOWN (R448). The host link is down: accesses to the host fail, IDE streams lose their keys, every function enters ERROR. -/
def execHostLinkDown : State → Host.Outcome State Fault Refusal :=
  fun s => .next (
    let s1 := if s.ext.hostDown then s
      else
        let s := { s with ext := { s.ext with hostDown := true }, lh := { s.lh with ide := [] } }
        (List.range 16).foldl (fun s f => s.toError f 0) (s.postErr { errOf 0x6D with skind := 6, snum := 16 })
    (s1.outside true).foldl (fun s id => s.failRemote id 0x6D true) s1)

end Sys2Proof.Machine
end

