-- ==== Sys2Proof/Machine/IntegerOps.lean ====
section
/-! DEFINITION. Integer instructions of format R and the immediate forms (R158–R170): every result is fixed-latency and written to one
register or predicate of each lane of the issue. -/

namespace Sys2Proof.Machine

open Sys2Proof

/-- ADD (R159). Each element is a + b, under SAT clamped. -/
def execAdd (sm : Bool) (d a b : BitVec 6) (u : Bool) (w : BitVec 2) (t g : Bool) : State → Host.Outcome State Fault Refusal :=
  toX (opOf (.add sm d a b u w t g)) d.toNat fun i l =>
    map2 (ewOf w) g (fun x y => fit (ewOf w) t g (x + y)) (i.v 0 l) (i.v 1 l)

/-- SUB (R159). Each element is a − b, under SAT clamped. -/
def execSub (sm : Bool) (d a b : BitVec 6) (u : Bool) (w : BitVec 2) (t g : Bool) : State → Host.Outcome State Fault Refusal :=
  toX (opOf (.sub sm d a b u w t g)) d.toNat fun i l =>
    map2 (ewOf w) g (fun x y => fit (ewOf w) t g (x - y)) (i.v 0 l) (i.v 1 l)

/-- MULL (R159). Each element is the low half of a × b, under SAT clamped. -/
def execMull (sm : Bool) (d a b : BitVec 6) (u : Bool) (w : BitVec 2) (t g : Bool) : State → Host.Outcome State Fault Refusal :=
  toX (opOf (.mull sm d a b u w t g)) d.toNat fun i l =>
    map2 (ewOf w) g (fun x y => fit (ewOf w) t g (x * y)) (i.v 0 l) (i.v 1 l)

/-- MULH (R159). Each element is the high half of a × b. -/
def execMulh (sm : Bool) (d a b : BitVec 6) (u : Bool) (w : BitVec 2) (g : Bool) : State → Host.Outcome State Fault Refusal :=
  toX (opOf (.mulh sm d a b u w g)) d.toNat fun i l =>
    map2 (ewOf w) g (fun x y => wrap (ewOf w) (x * y / (2 : Int) ^ (ewOf w))) (i.v 0 l) (i.v 1 l)

/-- IMAD (R159). Each element is d + a × b, under SAT clamped. -/
def execImad (sm : Bool) (d a b : BitVec 6) (u : Bool) (w : BitVec 2) (t g : Bool) : State → Host.Outcome State Fault Refusal :=
  toX (opOf (.imad sm d a b u w t g)) d.toNat fun i l =>
    map3 (ewOf w) g (fun z x y => fit (ewOf w) t g (z + x * y)) (i.v 2 l) (i.v 0 l) (i.v 1 l)

/-- AND (R159). a AND b. -/
def execAnd (sm : Bool) (d a b : BitVec 6) (u : Bool) : State → Host.Outcome State Fault Refusal :=
  toX (opOf (.and sm d a b u)) d.toNat fun i l => i.v 0 l &&& i.v 1 l

/-- OR (R159). a OR b. -/
def execOr (sm : Bool) (d a b : BitVec 6) (u : Bool) : State → Host.Outcome State Fault Refusal :=
  toX (opOf (.or sm d a b u)) d.toNat fun i l => i.v 0 l ||| i.v 1 l

/-- XOR (R159). a XOR b. -/
def execXor (sm : Bool) (d a b : BitVec 6) (u : Bool) : State → Host.Outcome State Fault Refusal :=
  toX (opOf (.xor sm d a b u)) d.toNat fun i l => i.v 0 l ^^^ i.v 1 l

/-- ANDN (R159). a AND NOT b. -/
def execAndn (sm : Bool) (d a b : BitVec 6) (u : Bool) : State → Host.Outcome State Fault Refusal :=
  toX (opOf (.andn sm d a b u)) d.toNat fun i l => i.v 0 l &&& ~~~ i.v 1 l

/-- SHL (R160). Each element shifted left; a count of the width or more gives 0. -/
def execShl (sm : Bool) (d a b : BitVec 6) (u : Bool) (w : BitVec 2) : State → Host.Outcome State Fault Refusal :=
  toX (opOf (.shl sm d a b u w)) d.toNat fun i l =>
    ofEls (ewOf w) fun e => shlEl (ewOf w) (el (i.v 0 l) (ewOf w) e) (el (i.v 1 l) (ewOf w) e)

/-- SHR (R160). Each element shifted right, natural or signed. -/
def execShr (sm : Bool) (d a b : BitVec 6) (u : Bool) (w : BitVec 2) (g : Bool) : State → Host.Outcome State Fault Refusal :=
  toX (opOf (.shr sm d a b u w g)) d.toNat fun i l =>
    ofEls (ewOf w) fun e => shrEl (ewOf w) g (el (i.v 0 l) (ewOf w) e) (el (i.v 1 l) (ewOf w) e)

/-- ROT (R160). Each element rotated left. -/
def execRot (sm : Bool) (d a b : BitVec 6) (u : Bool) (w : BitVec 2) : State → Host.Outcome State Fault Refusal :=
  toX (opOf (.rot sm d a b u w)) d.toNat fun i l =>
    ofEls (ewOf w) fun e => rotEl (ewOf w) (el (i.v 0 l) (ewOf w) e) (el (i.v 1 l) (ewOf w) e)

/-- MIN (R159). Each element is the smaller. -/
def execMin (sm : Bool) (d a b : BitVec 6) (u : Bool) (w : BitVec 2) (g : Bool) : State → Host.Outcome State Fault Refusal :=
  toX (opOf (.min sm d a b u w g)) d.toNat fun i l =>
    map2 (ewOf w) g (fun x y => wrap (ewOf w) (min x y)) (i.v 0 l) (i.v 1 l)

/-- MAX (R159). Each element is the larger. -/
def execMax (sm : Bool) (d a b : BitVec 6) (u : Bool) (w : BitVec 2) (g : Bool) : State → Host.Outcome State Fault Refusal :=
  toX (opOf (.max sm d a b u w g)) d.toNat fun i l =>
    map2 (ewOf w) g (fun x y => wrap (ewOf w) (max x y)) (i.v 0 l) (i.v 1 l)

/-- ABSD (R159). Each element is the absolute difference. -/
def execAbsd (sm : Bool) (d a b : BitVec 6) (u : Bool) (w : BitVec 2) (g : Bool) : State → Host.Outcome State Fault Refusal :=
  toX (opOf (.absd sm d a b u w g)) d.toNat fun i l =>
    map2 (ewOf w) g (fun x y => wrap (ewOf w) (if x < y then y - x else x - y)) (i.v 0 l) (i.v 1 l)

/-- CMP (R161). The predicate is 1 when the condition holds for every element. -/
def execCmp (sm : Bool) (p : BitVec 3) (a b : BitVec 6) (u : Bool) (w c : BitVec 2) (g : Bool) : State → Host.Outcome State Fault Refusal :=
  toP (opOf (.cmp sm p a b u w c g)) p.toNat fun i l => condAll (ewOf w) g c (i.v 0 l) (i.v 1 l)

/-- SEL (R162). a where the predicate reads 1, else b. -/
def execSel (sm : Bool) (d a b : BitVec 6) (u : Bool) (k : BitVec 3) : State → Host.Outcome State Fault Refusal :=
  toX (opOf (.sel sm d a b u k)) d.toNat fun i l => if i.v 2 l = 1 then i.v 0 l else i.v 1 l

/-- POPC (R163). The number of 1 bits of each element. -/
def execPopc (sm : Bool) (d a : BitVec 6) (w : BitVec 2) : State → Host.Outcome State Fault Refusal :=
  toX (opOf (.popc sm d a w)) d.toNat fun i l => ofEls (ewOf w) fun e => onesOf (el (i.v 0 l) (ewOf w) e) 64

/-- CLZ (R163). The number of 0 bits above the highest 1 bit of each element. -/
def execClz (sm : Bool) (d a : BitVec 6) (w : BitVec 2) : State → Host.Outcome State Fault Refusal :=
  toX (opOf (.clz sm d a w)) d.toNat fun i l => ofEls (ewOf w) fun e => (ewOf w) - widthOf (el (i.v 0 l) (ewOf w) e) 64

/-- BFX (R164). A bit field, sign-extended under SGN. -/
def execBfx (sm : Bool) (d a b : BitVec 6) (u g : Bool) : State → Host.Outcome State Fault Refusal :=
  toX (opOf (.bfx sm d a b u g)) d.toNat fun i l => bfx g (i.v 0 l) (i.v 1 l)

/-- BFI (R164). The field of the destination replaced. -/
def execBfi (sm : Bool) (d a b : BitVec 6) (u : Bool) : State → Host.Outcome State Fault Refusal :=
  toX (opOf (.bfi sm d a b u)) d.toNat fun i l => bfi (i.v 2 l) (i.v 0 l) (i.v 1 l)

/-- DOT4 (R165). Four byte products added to each 32-bit element. -/
def execDot4 (sm : Bool) (d a b : BitVec 6) (u m t g : Bool) : State → Host.Outcome State Fault Refusal :=
  toX (opOf (.dot4 sm d a b u m t g)) d.toNat fun i l =>
    ofEls 32 fun e => dot4El t g m (i.v 2 l) (i.v 0 l) (i.v 1 l) e

/-- MULW (R166). Widened products of one half of the elements. -/
def execMulw (sm : Bool) (d a b : BitVec 6) (u : Bool) (w : BitVec 2) (h g : Bool) : State → Host.Outcome State Fault Refusal :=
  toX (opOf (.mulw sm d a b u w h g)) d.toNat fun i l => mulw (ewOf w) h g (i.v 0 l) (i.v 1 l)

/-- ADDI (R168). a plus the sign-extended immediate. -/
def execAddi (sm : Bool) (d a : BitVec 6) (i : BitVec 12) : State → Host.Outcome State Fault Refusal :=
  toX (opOf (.addi sm d a i)) d.toNat fun ii l => ii.v 0 l + i.signExtend 64

/-- ANDI (R168). a AND the sign-extended immediate. -/
def execAndi (sm : Bool) (d a : BitVec 6) (i : BitVec 12) : State → Host.Outcome State Fault Refusal :=
  toX (opOf (.andi sm d a i)) d.toNat fun ii l => ii.v 0 l &&& i.signExtend 64

/-- ORI (R168). a OR the sign-extended immediate. -/
def execOri (sm : Bool) (d a : BitVec 6) (i : BitVec 12) : State → Host.Outcome State Fault Refusal :=
  toX (opOf (.ori sm d a i)) d.toNat fun ii l => ii.v 0 l ||| i.signExtend 64

/-- XORI (R168). a XOR the sign-extended immediate. -/
def execXori (sm : Bool) (d a : BitVec 6) (i : BitVec 12) : State → Host.Outcome State Fault Refusal :=
  toX (opOf (.xori sm d a i)) d.toNat fun ii l => ii.v 0 l ^^^ i.signExtend 64

/-- SHFI (R169). a shifted or rotated by the immediate count. -/
def execShfi (sm : Bool) (d a : BitVec 6) (k : BitVec 2) (n : BitVec 6) : State → Host.Outcome State Fault Refusal :=
  toX (opOf (.shfi sm d a k n)) d.toNat fun i l => BitVec.ofNat 64 (shiftKind k (i.v 0 l).toNat n.toNat)

/-- MOVI (R170). The sign-extended immediate. -/
def execMovi (sm : Bool) (d : BitVec 6) (i : BitVec 18) : State → Host.Outcome State Fault Refusal :=
  toX (opOf (.movi sm d i)) d.toNat fun _ _ => i.signExtend 64

/-- MOVH (R170). One halfword of the destination replaced. -/
def execMovh (sm : Bool) (d : BitVec 6) (h : BitVec 2) (i : BitVec 16) : State → Host.Outcome State Fault Refusal :=
  toX (opOf (.movh sm d h i)) d.toNat fun ii l => putHalf (ii.v 0 l) h i

/-- LEA (R167). a + b × 2^s. -/
def execLea (sm : Bool) (d a b : BitVec 6) (u : Bool) (k : BitVec 3) : State → Host.Outcome State Fault Refusal :=
  toX (opOf (.lea sm d a b u k)) d.toNat fun i l => i.v 0 l + i.v 1 l <<< k.toNat

end Sys2Proof.Machine
end

