-- ==== Sys2Proof/Machine/LaneOps.lean ====
section
/-! DEFINITION. Cross-lane instructions (R178–R185): every source is read before any destination is written. -/

namespace Sys2Proof.Machine

open Sys2Proof

/-- The operator of LRED and LSCAN over a list of elements, starting from its identity (R182). -/
def combine (w : Nat) (mode : BitVec 2) (sg : Bool) (us : List Nat) : Nat :=
  if mode = 0 then us.foldl (fun a u => (a + u) % 2 ^ w) 0
  else if mode = 1 then
    wrap w (us.foldl (fun a u => min a (val sg w u)) (if sg then 2 ^ (w - 1) - 1 else 2 ^ w - 1 : Int))
  else if mode = 2 then
    wrap w (us.foldl (fun a u => max a (val sg w u)) (if sg then -(2 ^ (w - 1)) else 0 : Int))
  else us.foldl (fun a u => Nat.lor a u) 0

/-- LGET (R180). An element of one lane, extended, repeated or inserted. -/
def execLget (sm : Bool) (d a : BitVec 6) (l : BitVec 5) (sb : BitVec 3) (w m : BitVec 2) : State → Host.Outcome State Fault Refusal :=
  toX (opOf (.lget sm d a l sb w m)) d.toNat fun i t =>
    let x := el (i.far l.toNat) (ewOf w) sb.toNat
    if m = 0 then BitVec.ofNat 64 x
    else if m = 1 then BitVec.ofInt 64 (val true (ewOf w) x)
    else if m = 2 then ofEls (ewOf w) fun _ => x
    else ofEls (ewOf w) fun e => if e = sb.toNat then x else el (i.v 0 t) (ewOf w) e

/-- LSHF (R181). The register of another lane. -/
def execLshf (sm : Bool) (d a : BitVec 6) (k : BitVec 5) (m : BitVec 2) : State → Host.Outcome State Fault Refusal :=
  toX (opOf (.lshf sm d a k m)) d.toNat fun i t => i.far (lshfSrc m.toNat k.toNat t)

/-- LRED (R182). Each element position combined over the lanes of the issue. -/
def execLred (sm : Bool) (d a : BitVec 6) (g : Bool) (w m : BitVec 2) : State → Host.Outcome State Fault Refusal :=
  toX (opOf (.lred sm d a g w m)) d.toNat fun i _ =>
    ofEls (ewOf w) fun e => combine (ewOf w) m g ((lanesOf i.lanes).map fun t => el (i.v 0 t) (ewOf w) e)

/-- LSCAN (R182). Each element position combined over the lanes of the issue up to the lane, or, with EXC, below it. -/
def execLscan (sm : Bool) (d a : BitVec 6) (e g : Bool) (w m : BitVec 2) : State → Host.Outcome State Fault Refusal :=
  toX (opOf (.lscan sm d a e g w m)) d.toNat fun i t =>
    ofEls (ewOf w) fun k =>
      combine (ewOf w) m g (((lanesOf i.lanes).filter fun j => decide (j < t) || (!e && j = t)).map fun j => el (i.v 0 j) (ewOf w) k)

/-- VOTE (R183). A vote over the chosen element of the lanes of the issue. -/
def execVote (sm : Bool) (p : BitVec 3) (a : BitVec 6) (sb : BitVec 3) (w m : BitVec 2) : State → Host.Outcome State Fault Refusal :=
  toP (opOf (.vote sm p a sb w m)) p.toNat fun i t =>
    let yes := (lanesOf i.lanes).filter fun j => el (i.v 0 j) (ewOf w) sb.toNat != 0
    if m = 0 then !yes.isEmpty
    else if m = 1 then yes.length = (lanesOf i.lanes).length
    else if m = 2 then yes.isEmpty || yes.length = (lanesOf i.lanes).length
    else yes.head? = some t

/-- SPRM (R184). The elements of each lane permuted. -/
def execSprm (sm : Bool) (d a : BitVec 6) (sb : BitVec 3) (w m : BitVec 2) : State → Host.Outcome State Fault Refusal :=
  toX (opOf (.sprm sm d a sb w m)) d.toNat fun i t =>
    let n := 64 / ewOf w
    ofEls (ewOf w) fun e => el (i.v 0 t) (ewOf w)
      (if m = 0 then sb.toNat else if m = 1 then n - 1 - e else if m = 2 then (e + sb.toNat) % n else Nat.xor e 1)

/-- PACK (R185). Elements narrowed into one half of the destination; the other half is kept. -/
def execPack (sm : Bool) (d a : BitVec 6) (h : Bool) (w m : BitVec 2) : State → Host.Outcome State Fault Refusal :=
  toX (opOf (.pack sm d a h w m)) d.toNat fun i t =>
    let k := 64 / ewOf w / 2
    let lo := if h then k else 0
    ofEls (ewOf w) fun e =>
      if lo ≤ e ∧ e < lo + k then
        let c := val true (2 * ewOf w) (el (i.v 0 t) (2 * ewOf w) (e - lo))
        fit (ewOf w) (m != 0) (m == 1) c
      else el (i.v 1 t) (ewOf w) e

/-- UNPK (R185). Elements of one half of the source widened. -/
def execUnpk (sm : Bool) (d a : BitVec 6) (h : Bool) (w m : BitVec 2) : State → Host.Outcome State Fault Refusal :=
  toX (opOf (.unpk sm d a h w m)) d.toNat fun i t =>
    let k := 64 / ewOf w / 2
    ofEls (2 * ewOf w) fun e => wrap (2 * ewOf w) (val (m == 1) (ewOf w) (el (i.v 0 t) (ewOf w) ((if h then k else 0) + e)))

end Sys2Proof.Machine
end

