-- ==== Sys2Proof/Machine/Translation.lean ====
section
/-! DEFINITION. Walks for fetches, the host’s translations, replay, and shoot-downs (R61, R333–R347, R441, R442). -/

namespace Sys2Proof.Machine

open Sys2Proof

/-! ## Walks for fetches (R92, R333, R336) -/

/-- The walk for the page at which lanes fetch: the unit keeps the translation, or the lanes meet what the walk ends in. -/
def State.fetchWalk (s : State) (f : Focus) (va : Nat) : State :=
  let i := mkIss {} f s
  match s.check i.rg i.core .fetch false va with
  | .ok x => (s.keep i.rg va x).passed i.t i.g
  | .error (.trap c note) => s.raise i c false (fun _ => BitVec.ofNat 64 va) note.toList
  | .error e => s.meet i.t i.g i.fn [e]

/-- A walk by itself: the unit keeps a translation that succeeds. -/
def State.plainWalk (s : State) (core fn va : Nat) : State :=
  let rg : Regime := { unit := unitOf core, fn := fn, harbour := decide (640 ≤ core) }
  match s.walk rg (va % 2 ^ 48) with
  | .ok x => s.keep rg (va % 2 ^ 48) x
  | .error _ => s

/-! ## Ends of waits (R61, R342, R344) -/

/-- Teams that waited return: those held on their cores go on, saved ones join the ready queue (R61); so do the groups of a harbour core whose
page `page` picks (R438). -/
def State.returnTeams (s : State) (sel : Team → Bool) (fn : Nat) (page : Nat × Nat → Bool) : State :=
  let back := (s.teams.filter fun e => sel e.2 && e.2.st = .saved && e.2.byFault && !(s.sched.queue.any fun q => q.2 = .team e.1)).mergeSort
    fun a b => decide (a.2.saveSeq ≤ b.2.saveSeq)
  let back1 (tm : Team) : Team :=
    if tm.fn = fn then { tm with groups := tm.groups.map fun h => (h.1, match h.2.awaits with
      | some p => if page p then { h.2 with awaits := none } else h.2
      | none => h.2) } else tm
  let teams := s.teams.map fun (e : Nat × Team) => (e.1, back1 (if sel e.2 then { e.2 with held := false, waitPage := none } else e.2))
  State.queueTeams { s with teams := teams } (back.map fun e => e.1) fun t => (s.team t).prio

/-- What waits for replay on behalf of a function is tried again: engine accesses, records, deeds, timers. -/
def State.retryWork (s : State) (f : Nat) : State :=
  let cmds := s.eng.cmds.map fun (c : Cmd) => if c.fn = f ∧ c.st = .parked then { c with st := .queued } else c
  let grids := s.sched.grids.map fun (g : Grid) => if g.fn = f then { g with stuck := false } else g
  let chains := s.sched.chains.map fun (c : Chain) => if c.fn = f then { c with stuck := false } else c
  State.updFn { s with eng := { s.eng with cmds := cmds }, sched := { s.sched with grids := grids, chains := chains } } f fun c =>
    { c with timers := c.timers.map fun (e : TimerEnt) => { e with stuck := false } }

/-- REPLAY of one function (R61, R343, R440). -/
def State.replayFn (s : State) (f : Nat) : State :=
  let s := s.sweepClaims
  let s : State := { s with ext := { s.ext with atsBad := s.ext.atsBad.filter fun e => !(e.1 = f && e.2.2 = 0) } }
  ((s.retryWork f).updFn f fun c => { c with noted := [], heldFault := false }).returnTeams (fun tm => tm.fn = f) f fun _ => true

/-- Accesses parked on one page are tried again: a PRI request has been answered, or a claim has ended in a stay. -/
def State.retryPage (s : State) (f stage base size : Nat) : State :=
  let here (p : Nat × Nat) : Bool := p.1 = stage && decide (base ≤ p.2 * 4096) && decide (p.2 * 4096 < base + size)
  (s.retryWork f).returnTeams (fun tm => tm.fn = f && tm.waitPage.any here) f here

/-! ## ATS and PRI (R341, R342, R441) -/

/-- A request to the host for a page has its end. -/
def State.dropAts (s : State) (id : Nat) : State := { s with ext := { s.ext with ats := s.ext.ats.filter fun r => r.id != id } }

/-- The host refuses a page: every access that waits for it faults (R342). -/
def State.refuseHost (s : State) (r : AtsReq) : State :=
  let s := s.dropAts r.id
  State.retryPage { s with ext := { s.ext with atsBad := s.ext.atsBad ++ (r.who.map fun w => (r.fn, r.page, w)).filter fun e => !s.ext.atsBad.contains e } }
    r.fn 3 (r.page * 4096) 4096

/-- A translation reply: 0 an address; 1 a denial, upon which PRI asks, once for a page; any other an error. -/
def State.atsAnswer (s : State) (r : AtsReq) (reply ha : Nat) : State :=
  if r.pri then s
  else if reply = 0 then
    let s := s.dropAts r.id
    { s with ext := { s.ext with atc := s.ext.atc.filter (fun e => !(e.1 = r.unit && e.2.1 = r.fn && e.2.2.1 = r.page)) ++
                                        [(r.unit, r.fn, r.page, ha % 2 ^ 48 / 4096 * 4096)] } }
  else if reply = 1 then
    if s.ext.ats.any fun q => q.pri && q.fn = r.fn && q.page = r.page then (s.dropAts r.id).awaitPri r.fn r.page r.who
    else
      let ats := s.ext.ats.map fun (q : AtsReq) => if q.id = r.id then { q with pri := true } else q
      { s with ext := { s.ext with ats := ats }, outbox := s.outbox ++ [.pri r.fn r.page] }
  else s.refuseHost r

/-! ## Shoot-downs (R345–R347, R442) -/

/-- Units that acknowledge: pairs, ledge cores, harbour cores. -/
def units : Nat := 322

/-- Whether an address range meets a shoot-down's. -/
def Shoot.meets (h : Shoot) (a n : Nat) : Bool := h.all || (decide (a < h.base + h.len) && decide (h.base < a + n))

/-- Intermediate pages through which a held translation goes: its own, and of a TWIN page the other backing's and the descriptor's. -/
def Tlb.ipas (e : Tlb) : List (Nat × Nat) :=
  (e.ipa, e.size) :: match e.twin with
    | some t => [(t.ipa1, e.size), (t.ipa, 4096)]
    | none => []

/-- Whether a translation is one that a shoot-down removes. -/
def Shoot.removes (h : Shoot) (e : Tlb) : Bool :=
  e.fn = h.fn && ((h.stage % 2 = 1 && h.meets e.va e.size) || (decide (2 ≤ h.stage) && e.ipas.any fun p => h.meets p.1 p.2))

/-- Cores of a unit. -/
def unitCores (u : Nat) : List Nat := if u < 192 then [2 * u, 2 * u + 1] else if u < 320 then [512 + (u - 192)] else [640 + (u - 320)]

/-- Teams resident on a unit's cores. -/
def State.unitTeams (s : State) (u : Nat) : List (Nat × Team) := s.teams.filter fun e => e.2.st = .resident && (unitCores u).contains e.2.core

/-- Whether a unit still has accesses to perform through translations of a function: stores on their way, those that an open transaction
holds, loads and atomics of other packages, queued matrix work (R345). -/
def State.unitBusy (s : State) (u fn : Nat) : Bool :=
  (s.stores.any fun f => !f.performed && (s.unitTeams u).any fun e => e.1 = f.team && e.2.fn = fn) ||
  ((s.unitTeams u).any fun e => e.2.fn = fn && e.2.groups.any fun g =>
    (match g.2.tx with | some x => !x.data.writes.isEmpty || x.frames.any fun f => !f.data.writes.isEmpty | none => false) ||
    g.2.out.any fun p => p.src.isSome) ||
  (decide (u < 192) && (SMap.get {} s.mtx u : PairMtx).queue.any fun e => (s.team e.team).fn = fn)

/-- A binding with a page in a shoot-down's range is stale; of stage 2, any of the function's (R347). -/
def Shoot.stale (h : Shoot) (b : Binding) : Binding :=
  if b.map.any fun l => decide (2 ≤ h.stage) || h.meets l.va 128 then { b with stale := true } else b

/-- Whether a walk-cache entry is one that a unit's die holds for a function. -/
def WalkEnt.gone (w : WalkEnt) (u fn : Nat) : Bool := decide (u < 192) && w.die = u / 48 && w.fn = fn

/-- A unit's entries go, with the ATS replies it has not taken up, and all that its die's walk cache holds for the function; its bindings
become stale (R345). -/
def State.dropUnit (s : State) (h : Shoot) (u : Nat) : State :=
  let s := { s with cache := { s.cache with tlb := s.cache.tlb.filter fun e => !(e.unit = u && h.removes e)
                                            walks := s.cache.walks.filter fun w => !w.gone u h.fn }
                    ext := { s.ext with atc := s.ext.atc.filter fun e => !(e.1 = u && e.2.1 = h.fn) } }
  if u < 192 then s.updPair u fun p => { p with recs := p.recs.map fun (r : Nat × Option ObRec) =>
      (r.1, r.2.map fun (o : ObRec) => if (s.team o.team).fn = h.fn then { o with binds := o.binds.map h.stale } else o) }
  else s

/-- Every unit's translations that a shoot-down names go, and the walk caches' entries of its function. -/
def State.dropHeld (s : State) (h : Shoot) : State :=
  { s with cache := { s.cache with tlb := s.cache.tlb.filter fun e => !h.removes e, walks := s.cache.walks.filter fun w => w.fn != h.fn }
           ext := { s.ext with atc := s.ext.atc.filter fun e => e.2.1 != h.fn } }

/-- A shoot-down has one more acknowledgement. -/
def State.acked (s : State) (cmd u : Nat) : State :=
  { s with part := { s.part with shoots := s.part.shoots.map fun (h : Shoot) => if h.cmd = cmd then { h with acked := h.acked ++ [u] } else h } }

/-- A unit acknowledges. -/
def State.ackShoot (s : State) (cmd u : Nat) : State :=
  match s.part.shoots.find? fun h => h.cmd = cmd with
  | none => s
  | some h => if units ≤ u ∨ h.acked.contains u ∨ s.unitBusy u h.fn then s else (s.dropUnit h u).acked cmd u

/-- A unit that has not acknowledged within 100 µs is fenced, its teams killed; once they have gone it counts as having acknowledged. -/
def State.fenceUnit (s : State) (cmd u : Nat) : State :=
  match s.part.shoots.find? fun h => h.cmd = cmd with
  | none => s
  | some h =>
    if units ≤ u ∨ h.acked.contains u ∨ s.since h.since < 100000 then s
    else
      let s := if s.part.fenced.contains u then s
        else
          let ts := (s.unitTeams u).map (·.1)
          let owner := if u < 192 then s.pairOwner u else 0
          { s with part := { s.part with fenced := s.part.fenced ++ [u] }
                   teams := s.teams.map fun (e : Nat × Team) => (e.1, if ts.contains e.1 then { e.2.askKill s.clk.time 0x64 0 0 with faulted := false } else e.2)
          }.postErr { errOf 0x64 with skind := 4, vf := if owner < 16 then owner else 0, detail := u }
      if !(s.unitTeams u).isEmpty then s
      else { s with cache := { s.cache with tlb := s.cache.tlb.filter fun e => e.unit != u, walks := s.cache.walks.filter fun w => !w.gone u h.fn }
                    ext := { s.ext with atc := s.ext.atc.filter fun e => e.1 != u } }.acked cmd u

/-- Whether a shoot-down is complete: every unit has acknowledged, every pin in the range has been released (R345). -/
def State.shootDone (s : State) (h : Shoot) : Bool :=
  (List.range units).all (fun u => h.acked.contains u) &&
  !(s.eng.cmds.any fun c => c.fn = h.fn && c.pins.any fun p => (h.stage % 2 = 1 && h.meets (p.1 * 4096) 4096) || (decide (2 ≤ h.stage) && h.meets (p.2 * 4096) 4096))

/-- A shoot-down ends: claims whose pages have been remapped end, and stays whose leaf is another (R344); the device's own accesses, which no
unit makes, forget the host's answers. -/
def State.endShoot (s : State) (h : Shoot) : State :=
  let same (p : Nat × Nat × Nat × Nat) : Bool := match s.stage2 p.1 (p.1 = 0) p.2.1 with
    | .ok o => s.stays p.1 o p.2.1
    | .error _ => false
  State.sweepClaims { s with
    part := { s.part with shoots := s.part.shoots.filter fun g => g.cmd != h.cmd, stay := s.part.stay.filter same }
    ext := { s.ext with atc := s.ext.atc.filter fun e => !(e.1 = 1000 && e.2.1 = h.fn)
                        atsBad := s.ext.atsBad.filter fun e => !(e.1 = h.fn && e.2.2 = 0) } }

/-- PAGE_WALK (R333). The walk for a page; a fetch that waits for it meets its faults. -/
def execPageWalk (core fn va kind : Nat) : State → Host.Outcome State Fault Refusal :=
  fun s => .next (match s.focus with
    | some f =>
      let tm := s.team f.team
      if kind = 2 ∧ tm.core = core ∧ tm.fn = fn ∧ (((tm.grp f.grp).th (lowLane f.lanes)).pt.addr.toNat = va) then s.fetchWalk f va else s
    | none => if coreExists core ∧ fn < 16 then s.plainWalk core fn va else s)

/-- ATS_REPLY (R341). The host’s translation of a page arrives, or its denial. -/
def execAtsReply (req reply ha : Nat) : State → Host.Outcome State Fault Refusal :=
  fun s => .next (match s.ext.ats.find? fun r => r.id = req with
    | some r => s.atsAnswer r reply ha
    | none => s)

/-- ATS_TIMEOUT (R441). A translation has not come within 10 ms. -/
def execAtsTimeout (req : Nat) : State → Host.Outcome State Fault Refusal :=
  fun s => .next (match s.ext.ats.find? fun r => r.id = req with
    | some r => if !r.pri ∧ 10000000 ≤ s.since r.since then s.refuseHost r else s
    | none => s)

/-- PRI_RESPONSE (R342). The host has answered a page request: 0 success, any other a failure. -/
def execPriResponse (req code : Nat) : State → Host.Outcome State Fault Refusal :=
  fun s => .next (match s.ext.ats.find? fun r => r.id = req with
    | some r => if !r.pri then s else if code = 0 then (s.dropAts req).retryPage r.fn 3 (r.page * 4096) 4096 else s.refuseHost r
    | none => s)

/-- SHOOTDOWN_ACK (R345). A unit has removed its entries. -/
def execShootdownAck (cmd unit : Nat) : State → Host.Outcome State Fault Refusal :=
  fun s => .next (s.ackShoot cmd unit)

/-- SHOOTDOWN_TIMEOUT (R442). A unit has not acknowledged within 100 µs. -/
def execShootdownTimeout (cmd unit : Nat) : State → Host.Outcome State Fault Refusal :=
  fun s => .next (s.fenceUnit cmd unit)

end Sys2Proof.Machine
end

