-- ==== Sys2Proof/Machine/PartOps.lean ====
section
/-! DEFINITION. Part commands (R348–R373, R461–R463), the slack watchdog (R443) and the sluice (R360). -/

namespace Sys2Proof.Machine

open Sys2Proof

/-! ## One command at a time (R348–R350) -/

/-- How a command of the manager comes out: done with a DETAIL; refused with a PST and a DETAIL, and nothing changed; or not yet. -/
inductive PartRes where
  | done (detail : Nat) (s : State)
  | fail (pst detail : Nat)
  | wait (s : State)

/-- A step that carries out the part, mig or lh command of a queue and code; RESULT is checked before it begins. Where it cannot be written at the
end, the command ends with PST 1 and what this step would have changed stays as it was (R463, log 207). -/
def part (qn code : Nat) (f : Cmd → State → PartRes) (s : State) : Host.Outcome State Fault Refusal :=
  .next (match s.cmdFor s.item qn code with
  | none => s
  | some c =>
    if !s.partTurn c then s
    else if !c.started && !s.resultOk c.img then s.partEnd c.id 1 0
    else match f c s with
      | .done d u => if u.resultOk c.img then u.partEnd c.id 0 d else (if c.started then u else s).partEnd c.id 1 0
      | .fail p d => s.partEnd c.id p d
      | .wait s => s.updCmd c.id fun c => { c with started := true })

/-- Whether a command's FLAGS and its doublewords 0x10–0x30 have no bit outside the masks. -/
def okBits (m : BitVec 512) (flags : Nat) (masks : List Nat) : Bool :=
  Nat.lor (cmdFlags m) flags = flags && (List.range 5).all fun k => Nat.lor (cdw m (2 + k)) (masks.getD k 0) = masks.getD k 0

/-- Masks of 32, 48 and 64 bits. -/
def m32 : Nat := 2 ^ 32 - 1
def m48 : Nat := 2 ^ 48 - 1
def m64 : Nat := 2 ^ 64 - 1

/-- The first refusal whose condition holds. -/
def refusal : List (Bool × Nat) → Option Nat
  | [] => none
  | (b, p) :: t => if b then some p else refusal t

/-- A command that none of the conditions refuses. -/
def checked (l : List (Bool × Nat)) (k : Unit → PartRes) : PartRes :=
  match refusal l with
  | some p => .fail p 0
  | none => k ()

/-! ## Locks (R372, R373) -/

/-- RELOCK and COMMIT of a command that takes them. -/
def relockFlags : Nat := 3

/-- Whether a command on the configuration of some functions is locked out. -/
def State.lockedOut (s : State) (m : BitVec 512) (fs : List Nat) : Bool :=
  let rel := bit (cmdFlags m) 0
  (rel && !(fs.any fun f => (s.fn f).relock)) || fs.any fun f => (s.fn f).isLocked && !(rel && (s.fn f).relock)

/-- COMMIT of an admitted relock: the pending mark goes, the report version rises, the TSM is told (R373). -/
def State.commitRelock (s : State) (m : BitVec 512) (fs : List Nat) : State :=
  if bit (cmdFlags m) 0 && bit (cmdFlags m) 1 then
    fs.eraseDups.foldl (fun s f =>
      let c := s.fn f
      if c.relock then { s.setFn f { c with relock := false, repver := (c.repver + 1) % 2 ^ 32 } with outbox := s.outbox ++ [.tdisp f 0x0B (c.repver + 1)] } else s) s
  else s

/-! ## Owners and pairs (R351, PAIRS) -/

/-- An owner field: a function, or 256 + pool; none where it is malformed. -/
def ownerOf (d : Nat) : Option Nat := if bit d 8 then (if bit d 3 then none else some (256 + bf d 2 0)) else some (bf d 3 0)

/-- Whether the function or pool of an owner field exists. -/
def State.ownerExists (s : State) (o : Nat) : Bool := if o < 256 then s.exists_ o else (s.pool (o - 256)).en

/-- The functions whose locks an owner brings. -/
def ownerFns (o : Nat) : List Nat := if o < 16 then [o] else []

/-- The pairs that three doublewords name. -/
def pairMask (m : BitVec 512) : List Nat := (List.range 192).filter fun p => bit (cdw m (3 + p / 64)) (p % 64)

/-- Whether a pair is idle: no team resident on its cores. -/
def State.pairIdle (s : State) (p : Nat) : Bool := (s.teamsOn (2 * p)).isEmpty && (s.teamsOn (2 * p + 1)).isEmpty

/-- A pair passes to an owner: it takes the MESH default, and no item waits for its cores any more (R358). -/
def State.givePair (s : State) (o p : Nat) : State :=
  if s.pairOwner p = o then s
  else { s with part := { s.part with owner := SMap.set 0 s.part.owner p o, ports := SMap.set 0 s.part.ports p 0 }
                sched := { s.sched with reserved := s.sched.reserved.filter fun r => r.1 / 2 != p } }

/-- PAIRS. -/
def pairsWork (c : Cmd) (s : State) : PartRes :=
  let m := c.img
  let ps := pairMask m
  match ownerOf (cdw m 2) with
  | none => .fail 1 0
  | some o =>
    let fs := ownerFns o ++ ps.flatMap fun p => ownerFns (s.pairOwner p)
    checked [(!okBits m relockFlags [0x10F, m64, m64, m64], 1), (!s.ownerExists o, 6), (s.lockedOut m fs, 5),
            (o ≠ 0 && ps.any fun p => s.pairOwner p ≠ 0 && s.pairOwner p ≠ o, 2),
            (ps.any fun p => s.part.fenced.contains p || !s.pairIdle p, 3)] fun _ =>
      .done 0 ((ps.foldl (fun s p => s.givePair o p) s).commitRelock m fs)

/-! ## Functions (R352, R353, R461) -/

/-- Bands, ingress depth, roots and frames within their ranges, addresses aligned as VFCREATE and PFCONF give them. -/
def vfRanges (m : BitVec 512) : Bool :=
  let d := cdw m 2
  decide (bf d 12 8 ≤ bf d 20 16) && decide (bf d 20 16 ≤ 21) && decide (16 ≤ bf d 42 32) && decide (bf d 42 32 ≤ 1024) &&
  cdw m 3 % 8 = 0 && cdw m 4 % 4096 = 0 && cdw m 5 % 2 ^ 20 = 0

/-- What VFCREATE and PFCONF set, the rings that they read, and the function's shelf key, where the lifecycle has tenant keys (R377). -/
def State.setFunction (s : State) (f : Nat) (m : BitVec 512) (l : List (Nat × Nat × Nat × Nat)) : Option (Nat × State) :=
  let d := cdw m 2
  let s := s.updFn f fun c => { c with made := true, bandLo := bf d 12 8, bandHi := bf d 20 16, iqDepth := bf d 42 32, ringTab := cdw m 3,
                                       s2root := if f = 0 ∧ cdw m 4 = 0 then c.s2root else some (cdw m 4), frames := cdw m 5, nframes := cdw m 6 }
  let n := s.lh.nextKey
  (s.loadRings f l).map fun (bad, s) => (bad, { s with lh := { s.lh with shelfKey := SMap.set 0 s.lh.shelfKey f (if s.lh.tenantKeys then n else 0), nextKey := n + 1 } })

/-- Masks of the doublewords of VFCREATE, but for VF. -/
def vfMasks (vf : Nat) : List Nat := [vf + 0x1F * 2 ^ 8 + 0x1F * 2 ^ 16 + 0x7FF * 2 ^ 32, m48, m48, m48, 0xFFFF]

/-- VFCREATE. No tenant is made in MANUFACTURE or RMA (R377). -/
def vfcreateWork (c : Cmd) (s : State) : PartRes :=
  let m := c.img
  let f := bf (cdw m 2) 3 0
  checked [(!okBits m 0 (vfMasks 0xF) || f = 0 || !vfRanges m, 1), ((s.fn f).made, 6), (s.lh.lcs = 1 || s.lh.lcs = 4, 9)] fun _ =>
    match (s.readRings (cdw m 3) (List.range 64)).bind fun l => (s.setFn f {}).setFunction f m l with
    | none => .fail 1 0
    | some (n, s) => .done (min n 255) s

/-- PFCONF, once after package reset. -/
def pfconfWork (c : Cmd) (s : State) : PartRes :=
  let m := c.img
  checked [(!okBits m 0 (vfMasks 0) || !vfRanges m, 1), ((s.fn 0).made, 6)] fun _ =>
    match (s.readRings (cdw m 3) (List.range 64)).bind fun l => s.setFunction 0 m l with
    | none => .fail 1 0
    | some (n, s) => .done (min n 255) s

/-- Whether a function still has pairs, banks, ledge cores or enabled entries. -/
def State.holdsUnits (s : State) (f : Nat) : Bool :=
  (s.part.owner.any fun e => e.2 = f) || (s.part.bankSlice.any fun e => e.2 = f) || (s.part.ledgeSlice.any fun e => e.2 = f) ||
  s.part.art.any fun e => e.2.en && e.2.slice = f

/-- A function is gone (R353). -/
def State.destroyFn (s : State) (f : Nat) : State :=
  { s with fns := SMap.del f s.fns, lh := { s.lh with shelfKey := SMap.set 0 s.lh.shelfKey f 0 } }

/-- VFRESET: it ends when the context has been reset; a keyless slice is rekeyed (R383). -/
def vfresetWork (c : Cmd) (s : State) : PartRes :=
  let m := c.img
  let f := bf (cdw m 2) 3 0
  let destroy := bit (cdw m 2) 8
  if c.pos = 0 then
    checked [(!okBits m 0 [0x10F] || (f = 0 && destroy), 1), (!s.exists_ f, 6), (destroy && (s.fn f).isLocked, 5), (destroy && s.holdsUnits f, 3)] fun _ =>
      .wait (notePos c.id 1 (s.startReset f { cause := 0x66, toErr := (s.fn f).isLocked }))
  else if (s.fn f).reset.isSome then .wait s
  else if destroy then .done 0 (s.destroyFn f)
  else .done 0 (if s.lh.keyless.contains f then s.rekey f else s)

/-- RINGLOAD. -/
def ringloadWork (c : Cmd) (s : State) : PartRes :=
  let m := c.img
  let f := bf (cdw m 2) 3 0
  checked [(!okBits m 0 [0x13F0F], 1), (!(s.fn f).made, 6)] fun _ =>
    match (s.readRings (s.fn f).ringTab (if bit (cdw m 2) 16 then List.range 64 else [bf (cdw m 2) 13 8])).bind fun l => s.loadRings f l with
    | none => .fail 1 0
    | some (n, s) => .done (min n 255) s

/-- FRING. -/
def fringWork (c : Cmd) (s : State) : PartRes :=
  let m := c.img
  let f := bf (cdw m 2) 3 0
  let log2n := bf (cdw m 4) 3 0
  checked [(!okBits m 0 [0xF, m48, 0xF + 0x3F * 2 ^ 48 + 2 ^ 63, m48] || decide (log2n < 4 ∨ 12 < log2n) || cdw m 3 % (32 * 2 ^ log2n) != 0 || cdw m 5 % 8 != 0, 1),
          (!s.exists_ f, 6), ((s.hubReach .store (cdw m 3) 32).isNone || (s.hubReach .rw (cdw m 5) 8).isNone, 1)] fun _ =>
    match s.hubWrite (cdw m 5) 8 0 with
    | none => .fail 1 0
    | some s => .done 0 (s.updFn f fun c => { c with fring := some (cdw m 3, log2n, bf (cdw m 4) 53 48, bit (cdw m 4) 63, cdw m 5), fwidx := 0 })

/-! ## Slices (R354) -/

/-- Banks of a bank-position, channel and stack mask (R315). -/
def ArtEntry.banks (e : ArtEntry) : List Nat :=
  e.stacks.flatMap fun k => e.chans.flatMap fun c => e.positions.map fun b => 1024 * k + 32 * c + b

/-- Whether an entry names a bank. -/
def ArtEntry.names (e : ArtEntry) (b : Nat) : Bool :=
  bit e.d2.toNat (b / 1024) && bit e.d2.toNat (32 + b / 32 % 32) && bit e.d3.toNat (b % 32) && decide (b < 16384)

/-- Every data row of some banks is zero (R301, R354). -/
def State.zeroBanks (s : State) (bs : List Nat) : State :=
  let gone (k : Nat) : Bool := decide (k < 2 ^ 40) && bs.contains (keyBank k)
  let mem := s.mem.filter fun e => !gone e.1
  let poison := s.ras.poison.filter fun l => !gone (64 * l)
  { s with mem := mem, ras := { s.ras with poison := poison } }

/-- The key stores of a stack and of its buddy hold a slice's keys exactly while the slice has banks of the stack: they are generated with the
first and zeroised with the last (R354). Those of slice 0 are permanent; a keyless slice waits for its fresh ones (R378, R383). -/
def State.settleKeys (s : State) (f : Nat) : State :=
  if f = 0 then s
  else
    let ks := s.stacksOf f
    let held (k : Nat) : Bool := SMap.get 0 s.lh.keys (keyAt k k f) != 0
    let l := s.lh.provision f 0 ((List.range 16).filter fun k => held k && !ks.contains k)
    let new := if l.keyless.contains f || !l.tenantKeys then [] else ks.filter fun k => !held k
    if new.isEmpty then { s with lh := l } else { s with lh := { l.provision f l.nextKey new with nextKey := l.nextKey + 1 } }

/-- Ledge cores that two doublewords name. -/
def ledgeMask (m : BitVec 512) : List Nat := (List.range 128).filterMap fun k => if bit (cdw m (5 + k / 64)) (k % 64) then some (512 + k) else none

/-- Whether a ledge core has a team or a command, to be placed on it or pushed by it. -/
def State.ledgeBusy (s : State) (core : Nat) : Bool :=
  !(s.teamsOn core).isEmpty || s.eng.cmds.any fun c => (c.qn = 4 && cmdCode c.img = 0x4C && c.st = .sent && c.pos = core) || (c.core = core && c.st != .done)

/-- SLICEMAP. -/
def slicemapWork (c : Cmd) (s : State) : PartRes :=
  let m := c.img
  let n := bf (cdw m 2) 3 0
  let bs := (({ d2 := BitVec.ofNat 64 (cdw m 3), d3 := BitVec.ofNat 64 (cdw m 4) } : ArtEntry).banks).filter fun b => s.sliceOf b ≠ n
  let ls := (ledgeMask m).filter fun k => SMap.get 0 s.part.ledgeSlice k ≠ n
  let from_ := (bs.map s.sliceOf ++ ls.map fun k => SMap.get 0 s.part.ledgeSlice k).eraseDups
  let fs := n :: from_
  checked [(!okBits m relockFlags [0xF, m32 * 2 ^ 32 + 0xFFFF, m32, m64, m64], 1), (n ≠ 0 && (s.lh.lcs = 1 || s.lh.lcs = 4), 9), (s.lockedOut m fs, 5),
          (n ≠ 0 && from_.any fun k => k ≠ 0, 2), (bs.any fun b => s.part.art.any fun e => e.2.en && e.2.names b, 4),
          (ls.any fun k => s.ledgeBusy k || s.part.fenced.contains (k - 320), 3)] fun _ =>
    let s := if n = 0 then s else s.zeroBanks bs
    let s := { s with part := { s.part with bankSlice := bs.foldl (fun t b => SMap.set 0 t b n) s.part.bankSlice
                                            ledgeSlice := ls.foldl (fun t k => SMap.set 0 t k n) s.part.ledgeSlice } }
    .done 0 ((fs.foldl (fun s f => s.settleKeys f) s).commitRelock m fs)

/-! ## The address range table (R316) -/

/-- The image of an entry in a command's doublewords 0x18–0x30. -/
def imageOf (m : BitVec 512) : ArtEntry :=
  { d0 := BitVec.ofNat 64 (cdw m 3), d1 := BitVec.ofNat 64 (cdw m 4), d2 := BitVec.ofNat 64 (cdw m 5), d3 := BitVec.ofNat 64 (cdw m 6) }

/-- Masks of a command that carries an entry and its image. -/
def imageMasks : List Nat := [0xF, (m32 * 2 ^ 16) + 0x8F0F, m48, m32 * 2 ^ 32 + 0xFFFF, m32]

/-- Data rows that an entry uses in each of its banks. -/
def ArtEntry.rows (e : ArtEntry) : Nat := (e.limit - e.base) / (e.stacks.length * e.chans.length * e.positions.length * 1024)

/-- Whether two entries name a common bank with overlapping rows. -/
def ArtEntry.shares (a b : ArtEntry) : Bool :=
  (a.banks.any fun k => b.names k) && decide (a.rowbase < b.rowbase + b.rows) && decide (b.rowbase < a.rowbase + a.rows)

/-- Whether an enabled image may stand as entry `n` (R316); `overlap`: its range is tested too. -/
def State.artFits (s : State) (n : Nat) (e : ArtEntry) (overlap : Bool) : Bool :=
  let u := e.stacks.length * e.chans.length * e.positions.length
  let span := e.limit - e.base
  let others := (s.part.art.filter fun o => o.1 != n && o.2.en).map (·.2)
  decide (e.base < e.limit) && decide (u ≠ 0) && span % (u * 65536) = 0 && decide (e.rowbase + span / (u * 1024) ≤ 61440) &&
  !(overlap && others.any fun o => decide (e.base < o.limit) && decide (o.base < e.limit)) &&
  !(others.any fun o => e.shares o) && e.banks.all fun b => s.sliceOf b = e.slice

/-- ARTW. -/
def artwWork (c : Cmd) (s : State) : PartRes :=
  let m := c.img
  let n := bf (cdw m 2) 3 0
  let e := imageOf m
  let old := s.artEntry n
  let fs := [old.slice, e.slice]
  let cleared : ArtEntry := { old with d0 := old.d0 &&& ~~~ 0x8000 }
  checked [(!okBits m relockFlags imageMasks || decide (8 < e.gr) || e.rowbase % 64 != 0, 1), (s.lockedOut m fs, 5),
          (old.en && e != old && e != cleared, 4), (e.en && !s.artFits n e true, 4)] fun _ =>
    .done 0 (({ s with part := { s.part with art := SMap.set {} s.part.art n e } } : State).commitRelock m fs)

/-! ## Stitch plans (R355–R358) -/

/-- A plan's fields. -/
structure Plan where
  shape : Nat
  die : Nat
  rows : Nat
  cols : Nat
  row0 : Nat
  col0 : Nat
  ports : List Nat

/-- A plan as read; none where it is malformed (R356). -/
def planOf (d : List Nat) : Option Plan :=
  let h := d.headD 0
  let bytes := (List.range 48).map fun i => d.getD (1 + i / 8) 0 / 256 ^ (i % 8) % 256
  let p : Plan := { shape := bf h 42 40, die := bf h 33 32, rows := bf h 27 24, cols := bf h 19 16, row0 := bf h 10 8, col0 := bf h 2 0, ports := bytes }
  let bad := bf h 63 43 != 0 || bf h 39 34 != 0 || bf h 31 28 != 0 || bf h 23 20 != 0 || bf h 15 11 != 0 || bf h 7 3 != 0 || d.getD 7 0 != 0 ||
    decide (4 ≤ p.shape ∧ p.shape ≤ 6) || p.rows = 0 || decide (6 < p.rows) || p.cols = 0 || decide (8 < p.cols) ||
    (if p.shape = 7 then (bytes.take (p.rows * p.cols)).any (fun b => [0, 1, 2, 3].any fun k => b / 4 ^ k % 4 = 3) || (bytes.drop (p.rows * p.cols)).any (fun b => b != 0)
     else bytes.any fun b => b != 0)
  if bad then none else some p

/-- Whether a shape links a tile to the one below it; to the one right of it. -/
def Plan.down (p : Plan) (r c : Nat) : Bool :=
  if p.shape = 2 then c = 0 || (r % 2 = 0 && c + 1 = p.cols) || (r % 2 = 1 && c = 1) else true
def Plan.right (p : Plan) (r c : Nat) : Bool :=
  if p.shape = 2 then r = 0 || c != 0 || r + 1 = p.rows else if p.shape = 3 then r = 0 else true

/-- A port of a tile: direction 0 N, 1 E, 2 S, 3 W; 0 MESH, 1 WRAP, 2 OPEN (R357). -/
def Plan.port (p : Plan) (r c k : Nat) : Nat :=
  if p.shape = 7 then p.ports.getD (r * p.cols + c) 0 / 4 ^ k % 4
  else
    let wrap (n : Nat) : Nat := if p.shape = 1 ∧ 3 ≤ n then 1 else 2
    let link (b : Bool) : Nat := if b then 0 else 2
    if k = 0 then (if r = 0 then wrap p.rows else link (p.down (r - 1) c))
    else if k = 1 then (if c + 1 = p.cols then wrap p.cols else link (p.right r c))
    else if k = 2 then (if r + 1 = p.rows then wrap p.rows else link (p.down r c))
    else if c = 0 then wrap p.cols else link (p.right r (c - 1))

/-- The tile on the other side of a port: within the region, or at the opposite edge for a WRAP port; none where there is none. -/
def Plan.across (p : Plan) (r c k : Nat) : Option (Nat × Nat) :=
  let edge := (k = 0 && r = 0) || (k = 1 && c + 1 = p.cols) || (k = 2 && r + 1 = p.rows) || (k = 3 && c = 0)
  if p.port r c k = 2 then none
  else if p.port r c k = 1 then
    (if !edge then none else if k = 0 then some (p.rows - 1, c) else if k = 1 then some (r, 0) else if k = 2 then some (0, c) else some (r, p.cols - 1))
  else if edge then none
  else if k = 0 then some (r - 1, c) else if k = 1 then some (r, c + 1) else if k = 2 then some (r + 1, c) else some (r, c - 1)

/-- Tiles of a region, row by row. -/
def Plan.tiles (p : Plan) : List (Nat × Nat) := (List.range p.rows).flatMap fun r => (List.range p.cols).map fun c => (r, c)

/-- The pair of a tile (R355). -/
def Plan.pair (p : Plan) (t : Nat × Nat) : Nat := 48 * p.die + 8 * (p.row0 + t.1) + p.col0 + t.2

/-- Tiles that a tile's enabled links reach. -/
def Plan.linked (p : Plan) (t : Nat × Nat) : List (Nat × Nat) :=
  [0, 1, 2, 3].filterMap fun k => match p.across t.1 t.2 k with
    | some u => if p.port u.1 u.2 ((k + 2) % 4) = p.port t.1 t.2 k then some u else none
    | none => none

/-- Tiles reached from some tiles in a number of rounds. -/
def Plan.reach (p : Plan) : Nat → List (Nat × Nat) → List (Nat × Nat)
  | 0, l => l
  | n + 1, l => p.reach n (l ++ ((l.flatMap p.linked).eraseDups.filter fun t => !l.contains t))

/-- The checks of R358 on one plan, but for its owner. -/
def Plan.sound (p : Plan) : Bool :=
  decide (p.row0 + p.rows ≤ 6) && decide (p.col0 + p.cols ≤ 8) &&
  (p.shape != 2 || (p.rows % 2 = 0 && decide (2 ≤ p.cols))) &&
  (p.shape != 7 || p.tiles.all fun t => [0, 1, 2, 3].all fun k =>
    p.port t.1 t.2 k = 2 ||
    match p.across t.1 t.2 k with
    | some u => p.port t.1 t.2 k = 0 || p.port u.1 u.2 ((k + 2) % 4) = 1
    | none => false) &&
  (p.reach 48 [(0, 0)]).length = p.rows * p.cols

/-- Whether two regions meet. -/
def Plan.meets (a b : Plan) : Bool :=
  a.die = b.die && decide (a.row0 < b.row0 + b.rows) && decide (b.row0 < a.row0 + a.rows) && decide (a.col0 < b.col0 + b.cols) && decide (b.col0 < a.col0 + a.cols)

/-- Whether no plan of a list meets a later one. -/
def apart : List Plan → Bool
  | [] => true
  | p :: t => t.all (fun q => !p.meets q) && apart t

/-- Plans of a command; none where one cannot be read or is malformed. -/
def State.readPlans (s : State) (a : Nat) : Nat → Option (List Plan)
  | 0 => some []
  | n + 1 => match (s.hubReads a 8).bind planOf, s.readPlans (a + 64) n with
    | some p, some l => some (p :: l)
    | _, _ => none

/-- Whether a pair has a collective command in flight. -/
def State.collBusy (s : State) (p : Nat) : Bool := s.eng.cmds.any fun c => c.qn = 2 && c.core / 2 = p && c.st != .done

/-- A plan's ports are set. -/
def State.applyPlan (s : State) (p : Plan) : State :=
  { s with part := { s.part with ports := p.tiles.foldl (fun m t =>
      SMap.set 0 m (p.pair t) (p.port t.1 t.2 0 + 4 * p.port t.1 t.2 1 + 16 * p.port t.1 t.2 2 + 64 * p.port t.1 t.2 3)) s.part.ports } }

/-- STITCH. -/
def stitchWork (c : Cmd) (s : State) : PartRes :=
  let m := c.img
  match ownerOf (cdw m 3), s.readPlans (cdw m 2) (bf (cdw m 3) 18 16 + 1) with
  | some o, some ps =>
    let pairs := ps.flatMap fun p => p.tiles.map p.pair
    checked [(!okBits m relockFlags [m48, 0x7010F] || cdw m 2 % 64 != 0 || decide (3 < bf (cdw m 3) 18 16), 1), (!s.ownerExists o, 6), (s.lockedOut m (ownerFns o), 5),
            (ps.any (fun p => decide (6 < p.row0 + p.rows ∨ 8 < p.col0 + p.cols)), 4), (pairs.any fun p => s.pairOwner p ≠ o || s.part.fenced.contains p, 2),
            (!(ps.all Plan.sound && apart ps), 4), (pairs.any fun p => !s.pairIdle p || s.collBusy p, 3)] fun _ =>
      .done 0 ((ps.foldl (fun s p => s.applyPlan p) s).commitRelock m (ownerFns o))
  | _, _ => .fail 1 0

/-! ## The sluice and pools (R359–R361) -/

/-- SLUICE. -/
def sluiceWork (c : Cmd) (s : State) : PartRes :=
  let m := c.img
  let f := bf (cdw m 2) 3 0
  checked [(!okBits m 0 [0xF, m64, m64, m32], 1), (!s.exists_ f, 6)] fun _ =>
    let a := bf (cdw m 3) 63 32
    let b := bf (cdw m 4) 63 32
    .done 0 (s.updFn f fun c => { c with mburst := a, mrate := bf (cdw m 3) 31 0, lburst := b, lrate := bf (cdw m 4) 31 0, debtmax := cdw m 5,
                                         mbal := ((1000 * a : Nat) : Int), lbal := ((1000 * b : Nat) : Int), sluiceT := s.clk.time })

/-- Members of a list of nibbles, up to the first zero. -/
def membersOf (d : Nat) : List Nat := ((List.range 16).map fun i => d / 16 ^ i % 16).takeWhile fun f => f != 0

/-- POOL. -/
def poolWork (c : Cmd) (s : State) : PartRes :=
  let m := c.img
  let k := bf (cdw m 2) 2 0
  let en := bit (cdw m 2) 8
  let p := s.pool k
  let ms := if en then membersOf (cdw m 4) else []
  let now := p.next.getD p.members
  let moved := (ms.filter fun f => !now.contains f) ++ now.filter fun f => !ms.contains f
  let len := cdw m 3
  let bud := bf (cdw m 5) 31 0
  let ovr := bf (cdw m 5) 63 32
  checked [(!okBits m 0 [0x107, m32, m64, m64] || (en && (decide (len < 100 ∨ 100000 < len ∨ bud < 1000 ∨ 1000000 < bud ∨ ovr < 100 ∨ 100000 < ovr) ||
            decide (ms.eraseDups.length ≠ ms.length))), 1),
          (ms.any fun f => !s.exists_ f, 6), (moved.any fun f => (s.fn f).isLocked, 5), (!en && s.part.owner.any fun e => e.2 = 256 + k, 3)] fun _ =>
    let s := ms.foldl (fun s f => s.updFn f fun c => { c with prebud := BitVec.ofNat 64 bud }) s
    .done 0 (s.updPool k fun p =>
      if en then { p with en := true, slicelen := len, budget := bud, ovrlim := ovr, members := if p.cur = 0 then ms else p.members,
                          next := if p.cur = 0 then none else some ms }
      else {})

/-! ## Translation, near-bank pools, the shelf (ROOTS to SHELFLOG) -/

/-- A shoot-down begins. -/
def State.beginShoot (s : State) (h : Shoot) : State := { s with part := { s.part with shoots := s.part.shoots ++ [h] } }

/-- ROOTS: in one step the root is written and every translation of the function at the stage goes; the shoot-down is complete as a SHOOT is
(R345, log 180). -/
def rootsWork (c : Cmd) (s : State) : PartRes :=
  let m := c.img
  let f := bf (cdw m 2) 3 0
  let stage := bf (cdw m 2) 9 8
  match s.part.shoots.find? fun h => h.cmd = c.id with
  | some h => if s.shootDone h then .done 0 (s.endShoot h) else .wait s
  | none => checked [(!okBits m (if stage = 2 then relockFlags else 0) [0x30F, m48] || (stage != 1 && stage != 2) || cdw m 3 % 4096 != 0, 1), (!s.exists_ f, 6),
          (stage = 2 && s.lockedOut m [f], 5)] fun _ =>
    let h : Shoot := { cmd := c.id, fn := f, stage := stage, all := true, since := s.clk.time }
    .wait ((((s.updFn f fun c => if stage = 1 then { c with s1root := some (cdw m 3) } else { c with s2root := some (cdw m 3) }).dropHeld h).beginShoot
      h).commitRelock m [f])

/-- SHOOT: it ends when every unit has acknowledged and every pin has gone (R345). -/
def shootWork (c : Cmd) (s : State) : PartRes :=
  let m := c.img
  let f := bf (cdw m 2) 3 0
  let all := bit (cdw m 2) 16
  match s.part.shoots.find? fun h => h.cmd = c.id with
  | some h => if s.shootDone h then .done 0 (s.endShoot h) else .wait s
  | none =>
    checked [(!okBits m 0 [0x1030F, m48, m48] || bf (cdw m 2) 9 8 = 0 || (!all && (cdw m 3 % 4096 != 0 || cdw m 4 % 4096 != 0)), 1), (!s.exists_ f, 6)] fun _ =>
      .wait (s.beginShoot { cmd := c.id, fn := f, stage := bf (cdw m 2) 9 8, all := all, base := cdw m 3, len := cdw m 4, since := s.clk.time })

/-- REPLAY. -/
def replayWork (c : Cmd) (s : State) : PartRes :=
  let m := c.img
  let f := bf (cdw m 2) 3 0
  let every := bit (cdw m 2) 8
  checked [(!okBits m 0 [0x10F], 1), (!every && !s.exists_ f, 6)] fun _ =>
    .done 0 (if every then ((List.range 16).filter s.exists_).foldl (fun s f => s.replayFn f) s else s.replayFn f)

/-- Whether every page of a range of intermediate addresses resolves through an entry of its slice. -/
def State.poolResolves (s : State) (slice base len : Nat) : Bool :=
  (List.range (len / 4096)).all fun i => match s.stage2 slice (slice = 0) (base + 4096 * i) with
    | .ok o => o.tgt = 0 && (match s.artFind o.pa with | some n => (s.artEntry n).slice = slice | none => false)
    | .error _ => false

/-- NBPOOL. -/
def nbpoolWork (c : Cmd) (s : State) : PartRes :=
  let m := c.img
  let n := bf (cdw m 2) 3 0
  checked [(!okBits m relockFlags [0xF, m48, m48] || cdw m 3 % 65536 != 0 || cdw m 4 % 65536 != 0, 1), (s.lockedOut m [n], 5),
          (s.part.allocs.any fun a => a.slice = n, 3), (decide (2 ^ 48 < cdw m 3 + cdw m 4) || !s.poolResolves n (cdw m 3) (cdw m 4), 4)] fun _ =>
    .done 0 (({ s with part := { s.part with nbpool := SMap.set (0, 0) s.part.nbpool n (cdw m 3, cdw m 4) } } : State).commitRelock m [n])

/-- Pages of one shelf module (R327). -/
def shelfPages : Nat := 805306368

/-- SHELFLOG: the work of its three types. -/
def shelflogWork (type : Nat) (c : Cmd) (s : State) : PartRes :=
  let m := c.img
  let f := bf (cdw m 2) 3 0
  let a := cdw m 3
  let n := cdw m 4
  let g := s.fn f
  let range := if type = 0 then decide (a % 2 ^ 38 + n ≤ shelfPages) else if type = 1 then true else decide (g.logStart ≤ a) && decide (a ≤ g.logHead)
  checked [(!okBits m (if type = 2 then 0 else relockFlags) [0x30F, 2 ^ 40 - 1, 2 ^ 40 - 1], 1), (!s.exists_ f, 6), (!range, 1), (type != 2 && s.lockedOut m [f], 5),
          (type = 0 && decide (g.logHead ≠ g.logStart), 3)] fun _ =>
    if type = 0 then .done 0 ((s.setFn f { g with logBase := a, logLen := n, logHead := a, logStart := a }).commitRelock m [f])
    else if type = 1 then .done 0 ((s.setFn f { g with quota := n }).commitRelock m [f])
    else .done 0 { s.setFn f { g with logStart := a } with ras := { s.ras with shelf := s.ras.shelf.filter fun e => !(decide (g.logStart ≤ e.1) && decide (e.1 < a)) } }

/-- A SHELFLOG of one of its types comes to its turn. -/
def shelflog (type : Nat) (s : State) : Host.Outcome State Fault Refusal :=
  match s.eng.cmds.find? fun c => c.id = s.item with
  | some c => if bf (cdw c.img 2) 9 8 = type ∨ (type = 0 ∧ bf (cdw c.img 2) 9 8 = 3) then
      part 8 0x8C (if bf (cdw c.img 2) 9 8 = 3 then fun _ _ => .fail 1 0 else shelflogWork type) s
    else .next s
  | none => .next s

/-! ## Queues, counters, claims, splits, limits, reads (FAQ to READ) -/

/-- FAQ (R330). -/
def faqWork (c : Cmd) (s : State) : PartRes :=
  let m := c.img
  checked [(!okBits m 0 [m48, 0x1FFFF, m48] || cdw m 2 % 16 != 0 || !([1024, 2048, 4096, 8192, 16384, 32768, 65536].contains (cdw m 3)) || cdw m 4 % 8 != 0, 1),
          ((s.hubReach .store (cdw m 2) 16).isNone || (s.hubReach .rw (cdw m 4) 8).isNone, 1)] fun _ =>
    match s.hubWrite (cdw m 4) 8 0 with
    | none => .fail 1 0
    | some s => .done 0 { s with part := { s.part with faq := some (cdw m 2, cdw m 3, cdw m 4), faqW := 0 } }

/-- Misses of a function and class, over all requesters; the sum saturates like its terms (R321, log 177). -/
def State.missSum (s : State) (k : Nat) : Nat :=
  min ((s.part.misses.filter fun e => e.1 % 64 = k).foldl (fun a e => a + e.2) 0) (2 ^ 32 - 1)

/-- QUERY (R321). -/
def queryWork (c : Cmd) (s : State) : PartRes :=
  let m := c.img
  let a := cdw m 2 % 2 ^ 48
  let words := (List.range 32).map fun i => s.missSum (2 * i) + 2 ^ 32 * s.missSum (2 * i + 1)
  checked [(!okBits m 0 [2 ^ 49 - 1] || a % 8 != 0, 1)] fun _ =>
    match s.hubWrites a words with
    | none => .fail 1 0
    | some s => .done 0 (if bit (cdw m 2) 48 then { s with part := { s.part with misses := [] } } else s)

/-- CLAIM (R344). DETAIL 0 recorded, 1 stay, 2 pending. -/
def claimWork (c : Cmd) (s : State) : PartRes :=
  let m := c.img
  let f := bf (cdw m 2) 3 0
  let s := s.sweepClaims
  let (b, z, e) := s.leafPage f (cdw m 3)
  let mine := s.part.claims.find? fun c => c.on f b z
  checked [(!okBits m 0 [0x10F, m48], 1), (!s.exists_ f, 6), (mine.isNone && decide (4096 ≤ s.part.claims.length), 3)] fun _ =>
    match mine with
    | none => .done 0 { s with part := { s.part with claims := s.part.claims ++ [{ fn := f, base := b, size := z, e := e, host := true }] } }
    | some d => if d.host then .done 2 s else .done 1 ((s.stayPut f b z e).retryPage f 2 b z)

/-- CLAIM with CANCEL: the host's claim goes. -/
def claimCancelWork (c : Cmd) (s : State) : PartRes :=
  let m := c.img
  let f := bf (cdw m 2) 3 0
  checked [(!okBits m 0 [0x10F, m48], 1), (!s.exists_ f, 6)] fun _ =>
    .done 0 { s with part := { s.part with claims := s.part.claims.filter fun c => !(c.on f (cdw m 3 / 4096 * 4096) 4096 && c.host) } }

/-- CLAIM of one of its two kinds comes to its turn. -/
def claimOf (cancel : Bool) (f : Cmd → State → PartRes) (s : State) : Host.Outcome State Fault Refusal :=
  match s.eng.cmds.find? fun c => c.id = s.item with
  | some c => if bit (cdw c.img 2) 8 = cancel then part 8 0x8F f s else .next s
  | none => .next s

/-- SRAMSPLIT (R65). -/
def sramsplitWork (c : Cmd) (s : State) : PartRes :=
  let m := c.img
  let v := cdw m 2
  checked [(!okBits m 0 [0xF, m64, m64, m64] || decide (8 < v), 1)] fun _ =>
    .done 0 { s with part := { s.part with split := (pairMask m).foldl (fun t p => SMap.set 0 (SMap.set 0 t (2 * p) v) (2 * p + 1) v) s.part.split } }

/-- LIMITS (R28). -/
def limitsWork (c : Cmd) (s : State) : PartRes :=
  let w := cdw c.img 2
  checked [(!okBits c.img 0 [0xFFFF] || decide (w < 1600 ∨ 3200 < w) || w % 50 != 0, 1)] fun _ => .done 0 { s with ras := { s.ras with limitW := w } }

/-- A number whose nibbles are a list. -/
def ofNibbles : List Nat → Nat
  | [] => 0
  | f :: t => f % 16 + 16 * ofNibbles t

/-- The pool record (R370). -/
def Pool.record (p : Pool) : List Nat :=
  [p.slicelen * 2 ^ 32 + (if p.en then 256 else 0) + p.cur % 16, ofNibbles (p.next.getD p.members), p.ovrlim * 2 ^ 32 + p.budget, p.curlen / 1000 * 2 ^ 32]

/-- READ of one KIND. -/
def readWork (words : Nat → Option (List Nat)) (c : Cmd) (s : State) : PartRes :=
  let m := c.img
  checked [(!okBits m 0 [m48, 0xF03] || cdw m 2 % 32 != 0, 1)] fun _ =>
    match (words (bf (cdw m 3) 11 8)).bind fun l => s.hubWrites (cdw m 2) l with
    | none => .fail 1 0
    | some s => .done 0 s

/-- READ of a KIND comes to its turn; those of no KIND are refused beside the first. -/
def readOf (kind : Nat) (words : State → Nat → Option (List Nat)) (s : State) : Host.Outcome State Fault Refusal :=
  match s.eng.cmds.find? fun c => c.id = s.item with
  | some c =>
    let k := bf (cdw c.img 3) 1 0
    if k = kind then part 8 0x92 (readWork (words s)) s
    else if kind = 1 ∧ k ≠ 2 then part 8 0x92 (fun _ _ => .fail 1 0) s
    else .next s
  | none => .next s

/-- Doublewords of a table entry. -/
def ArtEntry.dwords (e : ArtEntry) : List Nat := [e.d0.toNat, e.d1.toNat, e.d2.toNat, e.d3.toNat]

/-- SLACK_WATCHDOG (R443). Bank-side work past its slice end has exceeded OVRLIM: the context is reset. -/
def execSlackWatchdog (fn : Nat) : State → Host.Outcome State Fault Refusal :=
  fun s => .next (
    if (s.fn fn).slacks.any fun e => s.slackRuns fn e && decide (1000 * e.lim < s.since e.time) then s.slackReset fn else s)

/-- SLUICE_TOKEN_REFILL (R360). The buckets of a function gain what their rates give, up to their bursts. -/
def execSluiceTokenRefill (fn : Nat) : State → Host.Outcome State Fault Refusal :=
  fun s => .next (if s.exists_ fn then s.updFn fn fun c =>
      let d := s.since c.sluiceT
      { c with mbal := min ((1000 * c.mburst : Nat) : Int) (c.mbal + ((c.mrate * d : Nat) : Int))
               lbal := min ((1000 * c.lburst : Nat) : Int) (c.lbal + ((c.lrate * d : Nat) : Int)), sluiceT := s.clk.time }
    else s)

/-- VFCREATE (R352). Creates a function, reads its ring table, and gives it a shelf key. -/
def execVfcreate : State → Host.Outcome State Fault Refusal :=
  part 8 0x80 vfcreateWork

/-- VFRESET (R353). Resets a function’s context; with DESTROY the function goes. -/
def execVfreset : State → Host.Outcome State Fault Refusal :=
  part 8 0x81 vfresetWork

/-- PAIRS (R351). Idle pairs pass to an owner. -/
def execPairs : State → Host.Outcome State Fault Refusal :=
  part 8 0x82 pairsWork

/-- SLICEMAP (R354). Banks and ledge cores pass to a slice; joining banks read zero. -/
def execSlicemap : State → Host.Outcome State Fault Refusal :=
  part 8 0x83 slicemapWork

/-- ARTW (R316). An entry of the address range table is written. -/
def execArtw : State → Host.Outcome State Fault Refusal :=
  part 8 0x84 artwWork

/-- STITCH (R358). Plans set the ports of the stitched plane. -/
def execStitch : State → Host.Outcome State Fault Refusal :=
  part 8 0x85 stitchWork

/-- SLUICE (R360). The buckets of a function are set, and start full. -/
def execSluice : State → Host.Outcome State Fault Refusal :=
  part 8 0x86 sluiceWork

/-- POOL (R361). A pool is set up or disabled. -/
def execPool : State → Host.Outcome State Fault Refusal :=
  part 8 0x87 poolWork

/-- ROOTS (R332). A root is written, and the function’s translations go in the same step. -/
def execRoots : State → Host.Outcome State Fault Refusal :=
  part 8 0x88 rootsWork

/-- SHOOT (R345). A shoot-down, until every unit has acknowledged. -/
def execShoot : State → Host.Outcome State Fault Refusal :=
  part 8 0x89 shootWork

/-- REPLAY (R61). Parked accesses are tried again, saved teams return. -/
def execReplay : State → Host.Outcome State Fault Refusal :=
  part 8 0x8A replayWork

/-- NBPOOL (R351). A slice’s near-bank pool is set. -/
def execNbpool : State → Host.Outcome State Fault Refusal :=
  part 8 0x8B nbpoolWork

/-- SHELFLOG_SET_LOG (R329). An empty log is placed. -/
def execShelflogSetLog : State → Host.Outcome State Fault Refusal :=
  shelflog 0

/-- SHELFLOG_SET_QUOTA (R329). A quota is set. -/
def execShelflogSetQuota : State → Host.Outcome State Fault Refusal :=
  shelflog 1

/-- SHELFLOG_TRIM (R329). A log is trimmed from its start. -/
def execShelflogTrim : State → Host.Outcome State Fault Refusal :=
  shelflog 2

/-- FAQ (R330). The fault-address queue is set up. -/
def execFaq : State → Host.Outcome State Fault Refusal :=
  part 8 0x8D faqWork

/-- QUERY (R321). The miss counters are written out. -/
def execQuery : State → Host.Outcome State Fault Refusal :=
  part 8 0x8E queryWork

/-- CLAIM (R344). A host claim on a page. -/
def execClaim : State → Host.Outcome State Fault Refusal :=
  claimOf false claimWork

/-- CLAIM_CANCEL (R344). A host claim is cancelled. -/
def execClaimCancel : State → Host.Outcome State Fault Refusal :=
  claimOf true claimCancelWork

/-- SRAMSPLIT (R351). SY.SRAMSPLIT of the cores of some pairs. -/
def execSramsplit : State → Host.Outcome State Fault Refusal :=
  part 8 0x90 sramsplitWork

/-- LIMITS (R28). The package power limit. -/
def execLimits : State → Host.Outcome State Fault Refusal :=
  part 8 0x91 limitsWork

/-- READ_POOL_RECORD (R370). A pool record is written out. -/
def execReadPoolRecord : State → Host.Outcome State Fault Refusal :=
  readOf 1 fun s k => if k < 8 then some (s.pool k).record else none

/-- READ_ENTRY_IMAGE (R351). An entry image is written out. -/
def execReadEntryImage : State → Host.Outcome State Fault Refusal :=
  readOf 2 fun s k => some (s.artEntry k).dwords

/-- RINGLOAD (R387). Ring-table entries are read again. -/
def execRingload : State → Host.Outcome State Fault Refusal :=
  part 8 0x93 ringloadWork

/-- PFCONF (R461). The physical function’s tenant context is configured, once. -/
def execPfconf : State → Host.Outcome State Fault Refusal :=
  part 8 0x94 pfconfWork

/-- FRING (R462). A function’s fault ring is set up. -/
def execFring : State → Host.Outcome State Fault Refusal :=
  part 8 0x95 fringWork

end Sys2Proof.Machine
end

