-- ==== Sys2Proof/Machine/Lighthouse.lean ====
section
/-! DEFINITION. Lighthouse: its commands, SPDM, TDISP (R371–R384, R449–R451), power, and package reset (R26–R29). -/

namespace Sys2Proof.Machine

open Sys2Proof

/-! ## Measurements (R380) -/

/-- The indices that are defined. -/
def measDefined (i : Nat) : Bool := decide ((1 ≤ i ∧ i ≤ 19) ∨ (29 ≤ i ∧ i ≤ 31))

/-- An index is extended with an event. -/
def Lh.extend (l : Lh) (i : Nat) (ev : List Byte) : Lh :=
  let m : BitVec 384 := SMap.get 0 l.meas i
  { l with meas := SMap.set 0 l.meas i (Config.sha384 (bytesOf 48 m.toNat ++ ev)), ext := SMap.set 0 l.ext i (SMap.get 0 l.ext i + 1) }

/-- A value cut into doublewords. -/
def dwordsIn (n v : Nat) : List Nat := (List.range n).map fun i => v / 2 ^ (64 * i) % 2 ^ 64

/-! ## Lh commands (R375, R381, R382) -/

/-- LHFUSE. -/
def lhfuseWork (c : Cmd) (s : State) : PartRes :=
  let m := c.img
  checked [(!okBits m 0 [m48] || cdw m 2 % 64 != 0, 1)] fun _ =>
    match s.hubWrites (cdw m 2) (dwordsIn 2 Config.devid.toNat ++ [s.lh.fuseLcs] ++ dwordsIn 6 Config.dbgKeyHash.toNat ++ List.replicate 7 0) with
    | none => .fail 1 0
    | some s => .done 0 s

/-- LHNONCE: 32 random bytes. -/
def lhnonceWork (c : Cmd) (s : State) : PartRes :=
  let m := c.img
  let n : BitVec 256 := s.free 11 ++ s.free 12 ++ s.free 13 ++ s.free 14
  checked [(!okBits m 0 [m48] || cdw m 2 % 32 != 0, 1)] fun _ =>
    match s.hubWrites (cdw m 2) (dwordsIn 4 n.toNat) with
    | none => .fail 1 0
    | some s => .done 0 { s with lh := { s.lh with nonce := some (n, s.clk.time) } }

/-- LHMEAS. -/
def lhmeasWork (c : Cmd) (s : State) : PartRes :=
  let m := c.img
  let i := cdw m 3
  checked [(!okBits m 0 [m48, 0xFF] || cdw m 2 % 64 != 0 || i = 0 || decide (31 < i), 1)] fun _ =>
    match s.hubWrites (cdw m 2) ([i + SMap.get 0 s.lh.ext i % 2 ^ 16 * 2 ^ 16] ++ dwordsIn 6 (SMap.get 0 s.lh.meas i : BitVec 384).toNat ++ [0]) with
    | none => .fail 1 0
    | some s => .done 0 s

/-- LHBAD: read, add, remove (R331). -/
def lhbadReadWork (c : Cmd) (s : State) : PartRes :=
  let m := c.img
  checked [(!okBits m 0 [3, m48] || cdw m 3 % 8 != 0, 1)] fun _ =>
    match s.hubWrites (cdw m 3) (s.lh.bad.length :: s.lh.bad.map BitVec.toNat) with
    | none => .fail 1 0
    | some s => .done 0 s
def lhbadAddWork (c : Cmd) (s : State) : PartRes :=
  let e : BitVec 36 := BitVec.ofNat 36 (cdw c.img 3)
  checked [(!okBits c.img 0 [3, 2 ^ 36 - 1], 1), (!s.lh.bad.contains e && decide (8192 ≤ s.lh.bad.length), 3)] fun _ =>
    .done 0 { s with lh := { s.lh with bad := if s.lh.bad.contains e then s.lh.bad else s.lh.bad ++ [e] } }
def lhbadRemoveWork (c : Cmd) (s : State) : PartRes :=
  checked [(!okBits c.img 0 [3, 2 ^ 36 - 1], 1)] fun _ =>
    .done 0 { s with lh := { s.lh with bad := s.lh.bad.filter fun e => e != BitVec.ofNat 36 (cdw c.img 3) } }

/-- An LHBAD of one of its kinds comes to its turn; those of no kind are refused beside the first. -/
def lhbad (kind : Nat) (f : Cmd → State → PartRes) (s : State) : Host.Outcome State Fault Refusal :=
  match s.eng.cmds.find? fun c => c.id = s.item with
  | some c =>
    let k := cdw c.img 2 % 4
    if k = kind then part 10 0xA4 f s
    else if kind = 0 ∧ k = 3 then part 10 0xA4 (fun _ _ => .fail 1 0) s
    else .next s
  | none => .next s

/-- Bytes of a token. -/
def tokenBytes (d : List Nat) : List Byte := d.flatMap (bytesOf 8)

/-- Keys of slices 1–15, of the shelf and of IDE are zeroised, and locked interfaces begin to enter ERROR (step 3 of R381). -/
def State.zeroiseTenants (s : State) : State :=
  let lh := { s.lh with keys := s.lh.keys.filter fun e => e.1 % 16 = 0, keyless := (List.range 15).map (· + 1), shelfKey := [], ide := [] }
  ((List.range 16).filter fun f => (s.fn f).isLocked).foldl (fun s f => s.toError f 0) { s with lh := lh }

/-- Step 4 of an unlock: index 30 is extended, and the lifecycle moves. DECOMMISSIONED loses the identity key (R378). -/
def Lh.moveOn (l : Lh) (level : Nat) (nonce : List Byte) : Lh :=
  let l := l.extend 30 (bytesOf 1 1 ++ bytesOf 1 level ++ nonce ++ bytesOf 48 Config.dbgKeyHash.toNat)
  { l with lcs := if level ≤ 2 then 3 else if level = 3 then 4 else 5
           fuseLcs := if level ≤ 2 then l.fuseLcs else if level = 3 then 4 else 5, idKey := l.idKey && decide (level < 4) }

/-- Steps 3–5 of an unlock, each complete before the next begins: step 3 ends once no interface is locked or on its way to ERROR. -/
def unlockWork (c : Cmd) (level : Nat) (nonce : List Byte) (s : State) : PartRes :=
  if c.pos = 1 then
    (if (List.range 16).any fun f => (s.fn f).reset.isSome || (s.fn f).isLocked then .wait s
     else .wait (notePos c.id 2 { s with lh := s.lh.moveOn level nonce }))
  else .done 0 { s with lh := { s.lh with debugLevel := level, unlocking := none } }

/-- LHUNLOCK. The lifecycle that steps 1 and 2 know is the fused one. -/
def lhunlockWork (c : Cmd) (s : State) : PartRes :=
  let m := c.img
  match (if c.pos = 0 then none else s.lh.unlocking) with
  | some (level, nonce) => unlockWork c level nonce s
  | none =>
  checked [(decide (16 ≤ s.lh.failed), 9), (!okBits m 0 [m48] || cdw m 2 % 64 != 0, 1)] fun _ =>
    match s.hubReads (cdw m 2) 32 with
    | none => .fail 1 0
    | some d =>
      let b := tokenBytes d
      let level := d.headD 0
      let key := (b.drop 0x30).take 0x60
      let nonce := (b.drop 0x10).take 0x20
      let num (o : Nat) : BitVec 384 := BitVec.ofNat 384 (memRead ((b.zipIdx.map fun e => (e.2, e.1)).filter fun e => e.2 != 0) o 48)
      let hash := Config.sha384 (bytesOf 16 Config.devid.toNat ++ bytesOf 1 s.lh.fuseLcs ++ nonce ++ bytesOf 1 level)
      let fresh := match s.lh.nonce with
        | some (n, t) => decide (s.since t < 60000000000) && nonce = bytesOf 32 n.toNat
        | none => false
      checked [(level = 0 || decide (4 < level) || d.getD 1 0 != 0 || d.getD 30 0 != 0 || d.getD 31 0 != 0, 1),
              (s.lh.fuseLcs = 5 || (level < 4 && s.lh.fuseLcs != 2), 9), (!fresh, 8),
              (Config.sha384 (4 :: key) != Config.dbgKeyHash || !Config.ecdsaValid hash (num 0x30) (num 0x60) (num 0x90) (num 0xC0), 7)] fun _ =>
        .wait (notePos c.id 1 { s.zeroiseTenants with lh := { s.zeroiseTenants.lh with nonce := none, unlocking := some (level, nonce) } })

/-! ## SPDM (R379, R380, R450) -/

/-- A response of Lighthouse. -/
def State.spdm (s : State) (code : Nat) (data : List (BitVec 384)) : State := { s with outbox := s.outbox ++ [.spdm code data] }

/-- ERROR InvalidRequest and ERROR UnexpectedRequest. -/
def State.spdmInvalid (s : State) : State := s.spdm 0x7F [1]
def State.spdmUnexpected (s : State) : State := s.spdm 0x7F [4]

/-- A request that must be well formed and in order. -/
def State.spdmAsk (s : State) (wf inOrder : Bool) (answer : State → State) : State :=
  if !wf then s.spdmInvalid else if !inOrder then s.spdmUnexpected else answer s

/-- A step of the negotiation. -/
def State.negotiate (s : State) (from_ dest : SpdmPhase) (wf : Bool) (code : Nat) (data : List (BitVec 384)) : State :=
  s.spdmAsk wf (decide (s.lh.spdm = from_)) fun s => ({ s with lh := { s.lh with spdm := dest } } : State).spdm code data

/-- Whether negotiation has ended. -/
def State.negotiated (s : State) : Bool := decide (s.lh.spdm = .algs)

/-- The certificate chain of slot 0: Stolmar's root, the certificate that names DEVID, the alias certificate whose key derives from
index 1. -/
def State.chain (s : State) : List (BitVec 384) :=
  [Config.spdmData 1 0, Config.devid.setWidth 384, Config.spdmData 2 (SMap.get 0 s.lh.meas 1 : BitVec 384).toNat]

/-- A signature by the alias key over what a response holds; what signs once the identity key is lost, the manual does not say (log 215). -/
def State.signature (s : State) (data : List (BitVec 384)) : List (BitVec 384) :=
  let h := Config.sha384 (data.flatMap fun d => bytesOf 48 d.toNat)
  [Config.spdmData (if s.lh.idKey then 3 else 5) (h.toNat + 2 ^ 384 * (s.chain.getD 2 0).toNat), Config.spdmData (if s.lh.idKey then 4 else 6) (h.toNat + 2 ^ 384 * (s.chain.getD 2 0).toNat)]

/-- The indices that a measurement response can show: two where the start-up has stopped after step 1 in DECOMMISSIONED (R384). -/
def State.measShown (s : State) : List Nat := (List.range 32).filter fun i => measDefined i && (s.lh.fuseLcs != 5 || s.lh.up != 1 || i = 1 || i = 29)

/-- The blocks of a measurement response: none where the request names an index that is not reported. -/
def State.measBlocks (s : State) (op : Nat) : Option (List (BitVec 384)) :=
  if op = 0 then some [BitVec.ofNat 384 s.measShown.length]
  else if op = 0xFF then some (s.measShown.map fun i => SMap.get 0 s.lh.meas i)
  else if s.measShown.contains op then some [SMap.get 0 s.lh.meas op]
  else none

/-- Whether a session stands, and is established. -/
def State.session (s : State) (n : Nat) (est : Bool) : Bool := s.lh.sessions.contains (n, est)

/-- A session ends: its IDE keys are zeroised, interfaces locked under it enter ERROR (R449, R450). -/
def State.dropSession (s : State) (n : Nat) : State :=
  let lh := { s.lh with sessions := s.lh.sessions.filter fun e => e.1 != n, ide := s.lh.ide.filter fun e => e.2.2 != n }
  ((List.range 16).filter fun f => (s.fn f).isLocked && (s.fn f).lockSess = n).foldl (fun s f => s.toError f 0) { s with lh := lh }

/-! ## TDISP (R371, R373, R374, R449) -/

/-- A TDISP response of an interface. -/
def State.tdisp (s : State) (f code v : Nat) : State := { s with outbox := s.outbox ++ [.tdisp f code v] }

/-- Whether a function is an interface: each virtual function is one. -/
def State.isIface (s : State) (f : Nat) : Bool := f != 0 && s.exists_ f

/-- A TDISP request that is answered with an ERROR response where its condition fails. -/
def State.tdispAsk (s : State) (f : Nat) (ok : Bool) (answer : State → State) : State :=
  if s.isIface f && ok then answer s else s.tdisp f 0x7F 0

/-- Codes of the interface states. -/
def ifaceCode : Iface → Nat
  | .unlocked => 0
  | .locked => 1
  | .run => 2
  | .error => 3

/-- A mask of the numbers below `n` that satisfy a test. -/
def maskNat (n : Nat) (f : Nat → Bool) : Nat := ((List.range n).filter f).foldl (fun m i => m + 2 ^ i) 0

/-- The vendor part of the interface report, but for its hash (R374). -/
def State.reportFields (s : State) (f : Nat) : List Nat :=
  [(s.fn f).repver, f, (match s.poolOf f with
    | some k => 2 ^ 192 + k
    | none => maskNat 192 fun p => s.pairOwner p = f), maskNat 16384 fun b => s.sliceOf b = f, maskNat 128 fun k => SMap.get 0 s.part.ledgeSlice (512 + k) = f] ++
  ((List.range 16).filter fun i => (s.artEntry i).slice = f).flatMap fun i => (s.artEntry i).dwords

/-! ## Power and reset (R26–R29, R384) -/

/-- One step of the arithmetic clock down. -/
def State.clockDown (s : State) : State := { s with ras := { s.ras with clockMhz := max 700 (s.ras.clockMhz - 100) } }

/-- The junction limit of a die: 95 degrees for the memory stacks, numbered from 16 here, else 105. -/
def junctionLimit (die : Nat) : Nat := if 16 ≤ die ∧ die < 32 then 95 else 105

/-- What Lighthouse holds after step 1 of R26: fuses and the bad-page list stay, the lifecycle is the fused one, indices 1 and 29 are measured,
and only SPDM is answered. -/
def Lh.boot (l : Lh) (imageOk : Bool) : Lh :=
  let l0 : Lh := { fuseLcs := l.fuseLcs, lcs := l.fuseLcs, bad := l.bad, nextKey := l.nextKey, nextSess := l.nextSess, debugLevel := if l.fuseLcs = 1 then 2 else 0,
                   spdmOnly := true, up := 1, imageOk := imageOk, idKey := l.fuseLcs != 5 }
  (l0.extend 1 (Config.measured 1)).extend 29 (bytesOf 1 l.fuseLcs ++ bytesOf 48 Config.dbgKeyHash.toNat)

/-- What lies outside the package, and the shelf's pages, outlast a reset. -/
def outlasts (k : Nat) : Bool := decide (2 ^ 60 ≤ k)

/-- The harbour firmware starts on the two harbour cores: its image and its range entry stand, and a team of one group begins on each core.
DESIGN CHOICE: the manual gives no image, entry or resources (log 8). -/
def State.startFirmware (s : State) : State :=
  let e : ArtEntry := { d0 := Config.bootRange 0, d1 := Config.bootRange 1, d2 := Config.bootRange 2, d3 := Config.bootRange 3 }
  let s := { s with mem := Config.bootImage.foldl (fun m b => SMap.set 0 m (b.1 % 2 ^ 40) b.2) s.mem, part := { s.part with art := SMap.set {} s.part.art 0 e } }
  [640, 641].foldl (fun s core =>
    let (id, s) := s.newId
    s.placeTeam id core 0 0 { harbour := true, origin := .firmware, nteams := 1, gpt := 1, rblk := 8, prio := 23, entry := Config.bootEntry core,
                              init := [0, 0, 0, 0, 1, 1] }) s

/-- The next step of the start-up (R26, R380, R384): each begins once the one before it is done. Step 1 is the last in DECOMMISSIONED; step 2
stops with an image that does not verify. Step 3 gives slice 0 its keys in every key store; step 5, the functions, is the firmware's VFCREATE. -/
def State.bootOn (s : State) : State :=
  let l := s.lh
  let measure (l : Lh) (is : List Nat) : Lh := is.foldl (fun l i => l.extend i (Config.measured i)) l
  if l.up = 1 ∧ l.fuseLcs ≠ 5 then
    let l := measure l [2]
    if l.imageOk then ({ s with lh := { l with up := 2, harbourRun := true, spdmOnly := false } } : State).startFirmware
    else { s with lh := { l with up := 0 } }
  else if l.up = 2 then { s with lh := { (measure l ((List.range 16).map (· + 4))).provision 0 l.nextKey (List.range 16) with nextKey := l.nextKey + 1, up := 3 } }
  else if l.up = 3 then { s with lh := { measure l [3, 31] with up := 4 } }
  else if l.up = 4 then { s with lh := { l with up := 5 } }
  else s

/-- Package reset, and step 1 of the start-up of R26; the others follow between the steps. -/
def State.packageReset (s : State) (imageOk : Bool) : State :=
  let r : State := State.reset
  { r with clk := { r.clk with ids := s.clk.ids, fresh := s.clk.fresh, seq := s.clk.seq }, mem := s.mem.filter fun e => outlasts e.1
           ras := { r.ras with shelf := s.ras.shelf, shelfLost := s.ras.shelfLost }, lh := s.lh.boot imageOk, inbox := s.inbox, outbox := s.outbox }

/-- Whether a pair can be gated: no team on it, its matrix unit at rest. -/
def State.pairRests (s : State) (p : Nat) : Bool := s.pairIdle p && (SMap.get {} s.mtx p : PairMtx).queue.isEmpty

/-- PACKAGE_RESET (R26). The package comes up anew; fuses, the bad-page list and the shelf’s pages outlast it. -/
def execPackageReset (imageOk : Bool) : State → Host.Outcome State Fault Refusal :=
  fun s => .next (s.packageReset imageOk)

/-- POWER_CLOCK_DOWN (R28). The average power exceeds the limit: the arithmetic clock goes down one step, to no less than 700 MHz. -/
def execPowerClockDown (avg : Nat) : State → Host.Outcome State Fault Refusal :=
  fun s => .next (if s.ras.limitW < avg then s.clockDown else s)

/-- POWER_CLOCK_UP (R28). The average is at least 5 % below the limit: the clock goes up one step per millisecond. -/
def execPowerClockUp (avg : Nat) : State → Host.Outcome State Fault Refusal :=
  fun s => .next (if 100 * avg ≤ 95 * s.ras.limitW ∧ s.ras.clockMhz < 1400 ∧ 1000000 ≤ s.since s.ras.lastUp
    then { s with ras := { s.ras with clockMhz := s.ras.clockMhz + 100, lastUp := s.clk.time } } else s)

/-- DIE_JUNCTION_LIMIT (R29). A die nears its junction limit: the clock goes down one step. -/
def execDieJunctionLimit (die temp : Nat) : State → Host.Outcome State Fault Refusal :=
  fun s => .next (if Config.junctionNear die ≤ temp ∨ junctionLimit die ≤ temp then s.clockDown else s)

/-- POWER_GATING (R29). An idle pair is gated, and holds no translations; or it is powered again. -/
def execPowerGating (pair : Nat) (gate : Bool) : State → Host.Outcome State Fault Refusal :=
  fun s => .next (
    if 192 ≤ pair then s
    else if !gate then { s with part := { s.part with gated := s.part.gated.filter fun p => p != pair } }
    else if s.part.gated.contains pair || !s.pairRests pair then s
    else { s with part := { s.part with gated := s.part.gated ++ [pair] }, cache := { s.cache with tlb := s.cache.tlb.filter fun e => e.unit != pair }
                  sched := { s.sched with reserved := s.sched.reserved.filter fun r => r.1 / 2 != pair } })

/-- GET_VERSION (R379). The versions that the responder supports; negotiation begins anew. -/
def execGetVersion : State → Host.Outcome State Fault Refusal :=
  fun s => .next (({ s with lh := { s.lh with spdm := .version } } : State).spdm 0x04 [0x1300])

/-- GET_CAPABILITIES (R379). The responder’s capabilities. -/
def execGetCapabilities (wf : Bool) : State → Host.Outcome State Fault Refusal :=
  fun s => .next (s.negotiate .version .caps wf 0x61 [Config.spdmData 0 0])

/-- NEGOTIATE_ALGORITHMS (R379). Exactly ECDSA P-384, SHA-384, secp384r1 and AES-256-GCM. -/
def execNegotiateAlgorithms (wf : Bool) : State → Host.Outcome State Fault Refusal :=
  fun s => .next (s.negotiate .caps .algs wf 0x63 [0x80, 0x02, 0x10, 0x02])

/-- GET_DIGESTS (R379). The digest of slot 0. -/
def execGetDigests (wf : Bool) : State → Host.Outcome State Fault Refusal :=
  fun s => .next (s.spdmAsk wf s.negotiated fun s => s.spdm 0x01 [Config.sha384 (s.chain.flatMap fun d => bytesOf 48 d.toNat)])

/-- GET_CERTIFICATE (R379). The certificate chain of slot 0. -/
def execGetCertificate (slot : Nat) (wf : Bool) : State → Host.Outcome State Fault Refusal :=
  fun s => .next (s.spdmAsk (wf && slot = 0) s.negotiated fun s => s.spdm 0x02 s.chain)

/-- CHALLENGE (R379). A signed answer to a challenge. -/
def execChallenge (slot : Nat) (wf : Bool) : State → Host.Outcome State Fault Refusal :=
  fun s => .next (s.spdmAsk (wf && slot = 0) s.negotiated fun s =>
    let d := [Config.sha384 (s.chain.flatMap fun d => bytesOf 48 d.toNat), (s.free 11).setWidth 384]
    s.spdm 0x03 (d ++ s.signature d))

/-- GET_MEASUREMENTS (R380). The number of indices, all of them, or one; answered at any time. -/
def execGetMeasurements (op : Nat) (signed wf : Bool) : State → Host.Outcome State Fault Refusal :=
  fun s => .next (match (if wf then s.measBlocks op else none) with
    | none => s.spdmInvalid
    | some d => s.spdm 0x60 (d ++ if signed then s.signature d else []))

/-- KEY_EXCHANGE (R379). A session begins. -/
def execKeyExchange (wf : Bool) : State → Host.Outcome State Fault Refusal :=
  fun s => .next (s.spdmAsk wf s.negotiated fun s =>
    let n := s.lh.nextSess
    ({ s with lh := { s.lh with sessions := s.lh.sessions ++ [(n, false)], nextSess := n + 1 } } : State).spdm 0x64 [BitVec.ofNat 384 n, (s.free 11).setWidth 384])

/-- FINISH (R379). A session is established. -/
def execFinish (sess : Nat) (wf : Bool) : State → Host.Outcome State Fault Refusal :=
  fun s => .next (s.spdmAsk wf (s.session sess false) fun s =>
    ({ s with lh := { s.lh with sessions := s.lh.sessions.map fun e => if e.1 = sess then (sess, true) else e } } : State).spdm 0x65 [])

/-- END_SESSION (R450). A session ends, its IDE keys with it. -/
def execEndSession (sess : Nat) (wf : Bool) : State → Host.Outcome State Fault Refusal :=
  fun s => .next (s.spdmAsk wf (s.session sess true) fun s => (s.dropSession sess).spdm 0x6C [])

/-- SECURED_MESSAGE_FAILURE (R450). A message of a session fails decryption: the session ends at once, with a record. -/
def execSecuredMessageFailure (sess : Nat) : State → Host.Outcome State Fault Refusal :=
  fun s => .next (
    if s.session sess true || s.session sess false then (s.dropSession sess).postErr { errOf 0x70 with skind := 7 } else s)

/-- IDE_KM (R379). Keys of an IDE stream are established in a session. -/
def execIdeKm (sess stream fn : Nat) : State → Host.Outcome State Fault Refusal :=
  fun s => .next (s.spdmAsk (decide (fn < 16)) (s.session sess true) fun s =>
    ({ s with lh := { s.lh with ide := s.lh.ide.filter (fun e => e.1 != stream) ++ [(stream, fn, sess)] } } : State).spdm 0x7E [])

/-- LOCK_INTERFACE_REQUEST (R371). CONFIG_UNLOCKED goes to CONFIG_LOCKED. -/
def execLockInterfaceRequest (fn sess : Nat) : State → Host.Outcome State Fault Refusal :=
  fun s => .next (s.tdispAsk fn ((s.fn fn).iface = .unlocked) fun s =>
    (s.updFn fn fun c => { c with iface := .locked, lockSess := sess }).tdisp fn 0x03 0)

/-- START_INTERFACE_REQUEST (R371). CONFIG_LOCKED goes to RUN. -/
def execStartInterfaceRequest (fn : Nat) : State → Host.Outcome State Fault Refusal :=
  fun s => .next (s.tdispAsk fn ((s.fn fn).iface = .locked) fun s => (s.updFn fn fun c => { c with iface := .run }).tdisp fn 0x06 0)

/-- STOP_INTERFACE_REQUEST (R371). The context is reset; at its end come fresh keys, zeroed rows and CONFIG_UNLOCKED. -/
def execStopInterfaceRequest (fn : Nat) : State → Host.Outcome State Fault Refusal :=
  fun s => .next (s.tdispAsk fn true fun s => s.startReset fn { stop := true })

/-- GET_DEVICE_INTERFACE_STATE (R449). The state of an interface. -/
def execGetDeviceInterfaceState (fn : Nat) : State → Host.Outcome State Fault Refusal :=
  fun s => .next (s.tdispAsk fn true fun s => s.tdisp fn 0x05 (ifaceCode (s.fn fn).iface))

/-- RELOCK_REQUEST (R373). A relock is pending for an interface in RUN. -/
def execRelockRequest (fn : Nat) : State → Host.Outcome State Fault Refusal :=
  fun s => .next (s.tdispAsk fn ((s.fn fn).iface = .run) fun s => s.updFn fn fun c => { c with relock := true })

/-- GET_DEVICE_INTERFACE_REPORT (R373). The vendor part of the report, with the hash of its fields. -/
def execGetDeviceInterfaceReport (fn : Nat) : State → Host.Outcome State Fault Refusal :=
  fun s => .next (s.tdispAsk fn (s.fn fn).isLocked fun s =>
    let l := s.reportFields fn
    { s with outbox := s.outbox ++ [.report fn (l ++ [(Config.sha384 (l.flatMap (bytesOf 2048))).toNat])] })

/-- NONCE_EXPIRY (R375). A nonce that is 60 s old is valid no more. -/
def execNonceExpiry : State → Host.Outcome State Fault Refusal :=
  fun s => .next (match s.lh.nonce with
    | some (_, t) => if 60000000000 ≤ s.since t then { s with lh := { s.lh with nonce := none } } else s
    | none => s)

/-- LHFUSE (R375). The fuses are written out. -/
def execLhfuse : State → Host.Outcome State Fault Refusal :=
  part 10 0xA0 lhfuseWork

/-- LHNONCE (R375). A fresh nonce. -/
def execLhnonce : State → Host.Outcome State Fault Refusal :=
  part 10 0xA1 lhnonceWork

/-- LHUNLOCK (R381). A token is checked; if it is good, keys go, index 30 is extended, and the debug port opens. -/
def execLhunlock : State → Host.Outcome State Fault Refusal :=
  part 10 0xA2 lhunlockWork

/-- LHMEAS (R375). A measurement is written out. -/
def execLhmeas : State → Host.Outcome State Fault Refusal :=
  part 10 0xA3 lhmeasWork

/-- LHBAD_READ (R331). The bad-page list is written out. -/
def execLhbadRead : State → Host.Outcome State Fault Refusal :=
  lhbad 0 lhbadReadWork

/-- LHBAD_ADD (R331). A page joins the list. -/
def execLhbadAdd : State → Host.Outcome State Fault Refusal :=
  lhbad 1 lhbadAddWork

/-- LHBAD_REMOVE (R331). A page leaves the list. -/
def execLhbadRemove : State → Host.Outcome State Fault Refusal :=
  lhbad 2 lhbadRemoveWork

/-- MANUFACTURING_FLOW (R377). MANUFACTURE goes to PROVISIONED, in the fuse. -/
def execManufacturingFlow : State → Host.Outcome State Fault Refusal :=
  fun s => .next (if s.lh.fuseLcs = 1 then { s with lh := { s.lh with fuseLcs := 2, lcs := 2 } } else s)

end Sys2Proof.Machine
end

