-- ==== Sys2Proof/Machine/NearOps.lean ====
section
/-! DEFINITION. The bank-side units, the ledge allocator, microkernels and the embedding walker (R292–R313, R434). -/

namespace Sys2Proof.Machine

open Sys2Proof

/-! ## Rows (R301, R302) -/

/-- Whether the stack of a memory key is lost (R433). -/
def State.onLost (s : State) (key : Nat) : Bool := s.ras.lost.contains (keyBank key / 1024)

/-- Reach a byte of a bank of the pusher's slice for a bank-side unit or the walker: its memory key and the range entry's granule
(R292, R313). -/
def State.bankReach (s : State) (c : Cmd) (acc : Acc) (va index : Nat) (bar : Xl → Bool) : Work (Nat × Nat) :=
  (s.engReach c acc va index bar).bind fun x s =>
    match s.artFind x.pa with
    | none => .fail (if x.kind = 0 then 0x05 else 0x23) 1 va index s
    | some e =>
      if x.kind ≠ 0 ∨ s.sliceOf (keyBank x.key) ≠ c.fn then .fail 0x23 1 va index s
      else .ok (x.key, 2 ^ (8 + (s.artEntry e).gr)) s

/-- Reach row `i` of the operand in a doubleword: the memory key of its first byte. -/
def State.rowReach (s : State) (c : Cmd) (acc : Acc) (dst : Bool) (dw i : Nat) : Work Nat :=
  let va := (cmdAddr c.img dw + 1024 * i) % 2 ^ 48
  (s.bankReach c acc va i fun x => dst && !x.nbw).bind fun k s =>
    if k.2 < 1024 then .fail 0x24 1 va i s
    else if s.onLost k.1 then .fail 0x4B 1 va i s
    else .ok k.1 s

/-- Whether two rows share their bank and their subarray of 512 rows (R294). -/
def coLocated (a b : Nat) : Bool := a / 2 ^ 19 = b / 2 ^ 19

/-- The result of a row command on the rows that it reads. -/
def rowResult (m : BitVec 512) (v : List (BitVec 8192)) : BitVec 8192 :=
  let a := v.getD 0 0
  let b := v.getD 1 0
  let c := v.getD 2 0
  if cmdCode m = 0x40 then a
  else if cmdCode m = 0x42 then 0
  else match cmdFlags m % 8 with
    | 0 => a &&& b
    | 1 => a ||| b
    | 2 => a ^^^ b
    | 3 => ~~~a
    | _ => (a &&& b) ||| (a &&& c) ||| (b &&& c)

/-- Read row `i` of a source whose row must share the destination's bank and subarray. -/
def State.rowSrc (s : State) (c : Cmd) (dw i d : Nat) : Work (BitVec 8192) :=
  let va := (cmdAddr c.img dw + 1024 * i) % 2 ^ 48
  (s.rowReach c .load false dw i).bind fun k s =>
    if !coLocated k d then .fail 0x24 1 va i s
    else if s.isPoison k 1024 then .fail 0x08 1 va i (s.noteRead k 1024)
    else .ok (BitVec.ofNat 8192 (s.rd k 1024)) (s.noteRead k 1024)

/-- The harbour firmware has rewritten a row: its count of corrected errors begins anew (R425, log 230). -/
def State.rowRewritten (s : State) (c : Cmd) (d : Nat) : State :=
  if c.harbour then { s with ras := { s.ras with ce := SMap.set 0 s.ras.ce (d / 1024) 0 } } else s

/-- One row of ROWCOPY, ROWOP or ROWZERO: the write is one event, behind every read (R299, R301). -/
def rowStep (c : Cmd) (i : Nat) (s : State) : Work Unit :=
  (s.rowReach c .store true 3 i).bind fun d s =>
    ((rowSrcs c.img).foldl (fun (w : Work (List (BitVec 8192))) dw => w.bind fun l s => (s.rowSrc c dw i d).bind fun v s => .ok (l ++ [v]) s)
      (.ok [] s)).bind fun l s => .ok () ((s.rowRewritten c d).perform none d 1024 (rowResult c.img l).toNat)

/-- A row's count of corrected errors rises; at 8 it is reported and starts again (R425). -/
def State.corrected (s : State) (line : Nat) : State :=
  let row := lineRow line
  let n := SMap.get 0 s.ras.ce row + 1
  if n < 8 then { s with ras := { s.ras with ce := SMap.set 0 s.ras.ce row n } }
  else ({ s with ras := { s.ras with ce := SMap.set 0 s.ras.ce row 0 } }.lineErr 0x40 0 line).faqPut 0 line

/-- What a scrub of a row finds is nature's: for each of its 16 lines, nothing, a corrected error, an uncorrectable one, or a tag that
does not match (R303, R426, R427, R434). -/
def State.scrubRow (s : State) (key : Nat) : State :=
  (List.range 16).foldl (fun s i =>
    let l := key / 64 + i
    let f := (s.free (2 ^ 24 + i)).toNat
    if f % 4 = 1 then s.corrected l
    else if f % 4 = 2 then s.rebuildLine l (bit f 2) (bit f 3)
    else if f % 4 = 3 then s.tagMismatch l
    else s) (s.noteRead key 1024)

/-- One row of SCRUB. -/
def scrubStep (c : Cmd) (i : Nat) (s : State) : Work Unit :=
  (s.rowReach c .load false 3 i).bind fun d s => if s.stripeBusy (d / 64) then .wait false s else .ok () (s.scrubRow d)

/-- Whether an earlier row command of the thread has still to do a row in the bank of this command's row: a thread's commands reach each bank
in the order of their acceptance (R298). -/
def State.bankBehind (s : State) (c : Cmd) (i : Nat) : Bool :=
  let bank (d : Cmd) (j : Nat) : Option Nat := match s.translate d.regime ((cmdAddr d.img 3 + 1024 * j) % 2 ^ 48) with
    | .ok x => some (keyBank x.key)
    | .error _ => none
  match bank c i with
  | none => false
  | some k => (s.before c.id).any fun d => d.sameThread c && d.st != .done && decide (0x40 ≤ cmdCode d.img ∧ cmdCode d.img ≤ 0x43) && !cmdBad 4 d.img &&
      ((List.range (cdw d.img 4)).drop d.pos).any fun j => bank d j = some k

/-- A row command, one row to a step in ascending order. A row on a lost stack fails by itself; any other failure stops the command
there; the lowest failed row is reported (R302, R433, R434). -/
def rowWork (f : Cmd → Nat → State → Work Unit) (c : Cmd) (s : State) : Work Unit :=
  let n := cdw c.img 4
  let i := c.pos
  let next (s : State) : Work Unit :=
    if i + 1 < n then .wait false (notePos c.id (i + 1) s)
    else
      let d := s.cmd c.id
      if d.cause = 0 then .ok () s else .fail d.cause d.akind d.eaddr d.detail s
  if s.bankBehind c i then .wait false s
  else match f c i s with
  | .ok _ s => next s
  | .wait b s => .wait b s
  | .fail cause ak a k s =>
    if c.cause ≠ 0 then (if cause = 0x4B then next s else .fail c.cause c.akind c.eaddr c.detail s)
    else if cause = 0x4B then next (s.updCmd c.id fun c => { c with cause := cause, akind := ak, eaddr := a, detail := k })
    else .fail cause ak a k s

/-! ## The ledge allocator (R304–R306) -/

/-- The memory key of an intermediate address of a slice's function; none outside the slice's banks, or where its 1 KB are spread over several
banks (R305). -/
def State.poolKey (s : State) (slice ia : Nat) : Option Nat :=
  match s.stage2 slice false ia with
  | .ok o => if o.tgt ≠ 0 then none else match s.artFind o.pa with
    | some e =>
      let k := (s.artEntry e).resolve o.pa
      if s.sliceOf (keyBank k) = slice ∧ 2 ≤ (s.artEntry e).gr then some k else none
    | none => none
  | .error _ => none

/-- The rows of a tensor at an intermediate address; none where one of them has no place. -/
def State.tensorRows (s : State) (slice base n : Nat) : Option (List Nat) :=
  (List.range n).foldr (fun i a => match a, s.poolKey slice (base + 1024 * i) with
    | some l, some k => if k % 1024 = 0 then some (k :: l) else none
    | _, _ => none) (some [])

/-- Bases at which a tensor of `n` rows lies in the pool and meets no live grant of the slice. -/
def State.poolBases (s : State) (slice n : Nat) : List Nat :=
  match SMap.get (0, 0) s.part.nbpool slice with
  | (base, len) =>
    ((List.range (len / 65536)).map fun i => base + 65536 * i).filter fun b =>
      decide (b + 1024 * n ≤ base + len) &&
      !(s.part.allocs.any fun a => a.slice = slice && a.bases.any fun c => decide (b < c + 1024 * a.nrows) && decide (c < b + 1024 * n))

/-- Choose `k` further tensors, disjoint and row by row co-located with the first. -/
def pickTensors (n : Nat) (cands : List (Nat × List Nat)) : Nat → List (Nat × List Nat) → Option (List (Nat × List Nat))
  | 0, got => some got
  | k + 1, got => (cands.filter fun c =>
      (got.all fun g => decide (c.1 + 1024 * n ≤ g.1) || decide (g.1 + 1024 * n ≤ c.1)) &&
      (match got.head? with
        | some g => (g.2.zip c.2).all fun p => coLocated p.1 p.2
        | none => true)).findSome? fun c => pickTensors n cands k (got ++ [c])

/-- A grant: which of the places that serve is taken, and its number, are not given. -/
def State.grantRows (s : State) (slice n nt : Nat) : Option (Nat × List (Nat × List Nat)) :=
  let cands := (s.poolBases slice n).filterMap fun b => (s.tensorRows slice b n).map fun r => (b, r)
  let from_ := if cands.isEmpty then 0 else (s.free 9).toNat % cands.length
  let ids := (List.range 65536).map fun i => (i + (s.free 10).toNat) % 65536
  match pickTensors n (cands.drop from_ ++ cands.take from_) nt [],
        ids.find? fun i => !(s.part.allocs.any fun a => a.slice = slice && a.id = i) with
  | some l, some i => some (i, l)
  | _, _ => none

/-- Rows written as zero (R301). -/
def State.zeroRows (s : State) (l : List Nat) : State := l.foldl (fun s k => s.writeAt k 1024 0) s

/-- Write a command's result as ordinary stores of doublewords to a page already reached. -/
def State.engDwords (s : State) (c : Cmd) (x : Xl) (l : List Nat) : State :=
  l.zipIdx.foldl (fun s e => s.engStore c { x with key := x.key + 8 * e.2 } 8 e.1) s

/-- Whether the ledge allocator has an earlier command of the slice to serve (R304). -/
def State.allocBehind (s : State) (c : Cmd) : Bool :=
  (s.before c.id).any fun d => d.qn = 4 && d.fn = c.fn && (cmdCode d.img = 0x48 || cmdCode d.img = 0x49) && !cmdBad 4 d.img && d.st != .done

/-- ALLOC. -/
def allocWork (c : Cmd) (s : State) : Work Unit :=
  let n := (bf (cdw c.img 4) 31 0 + 63) / 64 * 64
  let nt := bf (cdw c.img 4) 35 32
  if s.allocBehind c then .wait false s
  else (s.engReach c .store (cmdAddr c.img 2) 0 fun x => x.coh = 2).bind fun x s =>
    if (SMap.get (0, 0) s.part.nbpool c.fn).2 = 0 then .ok () (s.engDwords c x [2 * 2 ^ 8, 0, 0, 0, 0, 0, 0, 0])
    else match s.grantRows c.fn n nt with
      | none => .ok () (s.engDwords c x [1 * 2 ^ 8, 0, 0, 0, 0, 0, 0, 0])
      | some (id, l) =>
        let s := s.zeroRows (l.flatMap (·.2))
        let a : Alloc := { slice := c.fn, id := id, bases := l.map fun e => e.1, nrows := n }
        let s : State := { s with part := { s.part with allocs := s.part.allocs ++ [a] } }
        let b (i : Nat) : Nat := (l.getD i (0, [])).1
        .ok () (s.engDwords c x [n * 2 ^ 32 + nt * 2 ^ 16, id, b 0, b 1, b 2, b 3, 0, 0])

/-- Whether an earlier row command of the slice, not yet ended, names one of some rows (R306). -/
def State.rowsNamed (s : State) (c : Cmd) (rows : List Nat) : Bool :=
  (s.before c.id).any fun b => b.qn = 4 && b.fn = c.fn && decide (0x40 ≤ cmdCode b.img ∧ cmdCode b.img ≤ 0x43) && !cmdBad 4 b.img && b.st != .done &&
    (3 :: rowSrcs b.img).any fun dw => (List.range (cdw b.img 4)).any fun i =>
      match s.translate b.regime ((cmdAddr b.img dw + 1024 * i) % 2 ^ 48) with
      | .ok x => rows.contains x.key
      | .error _ => false

/-- FREE: a number that is not live fails; the rows are zeroed once no earlier command names them. -/
def freeWork (c : Cmd) (s : State) : Work Unit :=
  if s.allocBehind c then .wait false s
  else match s.part.allocs.find? fun a => a.slice = c.fn && a.id = cdw c.img 2 with
  | none => .fail 0x20 0 0 0 s
  | some a =>
    let rows := a.bases.flatMap fun b => ((s.tensorRows c.fn b a.nrows).getD [])
    if s.rowsNamed c rows then .wait false s
    else
      let s := s.zeroRows rows
      .ok () ({ s with part := { s.part with allocs := s.part.allocs.filter fun e => !(e.slice = c.fn && e.id = a.id) } } : State)

/-! ## Microkernels (R297, R307) -/

/-- Ledge cores of a slice that can take a team: those of a lost stack cannot (R433). -/
def State.ledgeCores (s : State) (slice : Nat) : List Nat :=
  (List.range 128).filterMap fun k => if SMap.get 0 s.part.ledgeSlice (512 + k) = slice ∧ !s.ras.lost.contains (k / 8) ∧ !s.part.fenced.contains (192 + k) then some (512 + k) else none

/-- The ledge core that an LKRUN names, or the one with the most free blocks. -/
def State.lkrunCore (s : State) (c : Cmd) : Option Nat :=
  let l := s.ledgeCores c.fn
  if lkAny c.img then l.foldl (fun b k => match b with
    | none => some k
    | some d => if s.freeBlocks d < s.freeBlocks k then some k else some d) none
  else if l.contains (lkCore c.img) then some (lkCore c.img) else none

/-! ## The walker (R308–R310) -/

/-- A lookup record's fields (R309). -/
structure Lookup where
  idx : Nat
  nidx : Nat
  ntrows : Nat
  tbase : Nat
  tstride : Nat
  rowlen : Nat
  wlist : Nat
  out : Nat
  qscale : Nat
  efmt : Nat
  pool : Nat
  ofmt : Nat

/-- Bytes of an element of a table. -/
def Lookup.esz (r : Lookup) : Nat := [4, 2, 2, 1, 1].getD r.efmt 1

/-- A record as read; none where it is malformed. -/
def lookupOf (d : List Nat) : Option Lookup :=
  let g (i : Nat) : Nat := d.getD i 0
  let r : Lookup :=
    { idx := bf (g 0) 47 0, nidx := bf (g 1) 63 32, ntrows := bf (g 1) 31 0, tbase := bf (g 2) 47 0, tstride := bf (g 3) 63 32,
      rowlen := bf (g 3) 10 0, wlist := bf (g 4) 47 0, out := bf (g 5) 47 0, qscale := bf (g 6) 63 32, efmt := bf (g 6) 10 8, pool := bf (g 6) 5 4, ofmt := bf (g 6) 1 0 }
  let bad := ([0, 2, 4, 5].any fun i => bf (g i) 63 48 != 0) || bf (g 3) 31 11 != 0 || bf (g 6) 31 11 != 0 || bf (g 6) 7 6 != 0 || bf (g 6) 3 2 != 0 || g 7 != 0 ||
    decide (4 < r.efmt) || decide (1 < r.ofmt) || (r.ofmt = 1 && r.efmt != 1 && r.efmt != 2) || r.rowlen = 0 || decide (1024 < r.rowlen * r.esz) ||
    r.tstride % 64 != 0 || decide (2 ^ 20 < r.nidx) || r.idx % 4 != 0 || (r.pool = 3 && r.wlist % 4 != 0) || (r.pool != 3 && g 4 != 0) || (r.efmt != 4 && r.qscale != 0)
  if bad then none else some r

/-- An element of a table row as F32 (R310). -/
def Lookup.elem (r : Lookup) (q : Nat) : Nat :=
  if r.efmt = 4 then f32.round .rne (FV.mul (f32.decode r.qscale) (FV.ofInteger (val true 8 q)))
  else f32.round .rne (([f32, f16, bf16, e4m3].getD r.efmt f32).decode q)

/-- A sum rounded to F32, with +0 for an exact zero. -/
def sum32 (a b : FV) : Nat := f32.round .rne (plusZero (FV.add false a b))

/-- What one bank makes of an element: its listed rows' values in list order, each with its weight (R310). -/
def Lookup.part (r : Lookup) (l : List (Nat × Nat)) : Nat :=
  match l with
  | [] => 0
  | (x, w) :: t =>
    if r.pool = 2 then t.foldl (fun a e => fminBits f32 true false a e.1) x
    else if r.pool = 3 then ((x, w) :: t).foldl (fun a e => sum32 (f32.decode a) (FV.mul (f32.decode e.2) (f32.decode e.1))) 0
    else ((x, w) :: t).foldl (fun a e => sum32 (f32.decode a) (f32.decode e.1)) 0

/-- The combiners' result from the banks' parts in ascending bank number (R310). -/
def Lookup.combine (r : Lookup) (parts : List Nat) : Nat :=
  let v := match parts with
    | [] => 0
    | p :: t => if r.pool = 2 then t.foldl (fun a e => fminBits f32 true false a e) p
      else (p :: t).foldl (fun a e => sum32 (f32.decode a) (f32.decode e)) 0
  let v := if r.pool = 1 ∧ 0 < r.nidx then
      f32.round .rne ((divSpecial (f32.decode v) (FV.ofInteger r.nidx)).getD (rDiv (f32.decode v) (FV.ofInteger r.nidx)))
    else v
  if r.ofmt = 0 then v else ([f32, f16, bf16].getD r.efmt f32).round .rne (f32.decode v)

/-- Read 32-bit entries of a list. -/
def State.engWords (s : State) (c : Cmd) (a n index : Nat) : Work (List Nat) :=
  (List.range n).foldl (fun (w : Work (List Nat)) j => w.bind fun l s => (s.engLoad c ((a + 4 * j) % 2 ^ 48) 4 index).bind fun v s => .ok (l ++ [v]) s) (.ok [] s)

/-- Read a table row: its bank and its elements as F32. -/
def State.tableRow (s : State) (c : Cmd) (r : Lookup) (v index : Nat) : Work (Nat × List Nat) :=
  let va := (r.tbase + v * r.tstride) % 2 ^ 48
  let n := r.rowlen * r.esz
  if r.ntrows ≤ v then .fail 0x20 1 va index s
  else (s.bankReach c .load va index fun _ => false).bind fun k s =>
    if k.2 < k.1 % k.2 + n ∨ 1024 < k.1 % 1024 + n then .fail 0x24 1 va index s
    else if s.onLost k.1 then .fail 0x4B 1 va index s
    else if s.isPoison k.1 n then .fail 0x08 1 va index (s.noteRead k.1 n)
    else .ok (keyBank k.1, (List.range r.rowlen).map fun e => r.elem (s.rd (k.1 + r.esz * e) r.esz)) (s.noteRead k.1 n)

/-- One lookup record: its output is written only when all of it can be made (R308–R310). -/
def walkRec (c : Cmd) (k : Nat) (s : State) : Work Unit :=
  let a := (cmdAddr c.img 2 + 64 * k) % 2 ^ 48
  ((List.range 8).foldl (fun (w : Work (List Nat)) j => w.bind fun l s => (s.engLoad c ((a + 8 * j) % 2 ^ 48) 8 k).bind fun v s => .ok (l ++ [v]) s) (.ok [] s)).bind fun d s =>
    match lookupOf d with
    | none => .fail 0x20 1 a k s
    | some r =>
      (s.engWords c r.idx r.nidx k).bind fun ids s =>
      (if r.pool = 3 then s.engWords c r.wlist r.nidx k else .ok [] s).bind fun ws s =>
      (ids.foldl (fun (w : Work (List (Nat × List Nat))) v => w.bind fun l s => (s.tableRow c r v k).bind fun e s => .ok (l ++ [e]) s) (.ok [] s)).bind fun rows s =>
        let listed := rows.zipIdx
        let banks := (List.range 16384).filter fun h => rows.any fun e => e.1 = h
        let osz := if r.ofmt = 0 then 4 else r.esz
        let out := (List.range r.rowlen).map fun e => r.combine (banks.map fun h =>
          r.part ((listed.filter fun p => p.1.1 = h).map fun p => (p.1.2.getD e 0, ws.getD p.2 0)))
        let v := out.zipIdx.foldl (fun n e => n + e.1 * 256 ^ (osz * e.2)) 0
        let pieces := cutAt 128 r.out (r.rowlen * osz)
        (pieces.foldl (fun (w : Work Unit) p => w.bind fun _ s => (s.engDst c (p.1 % 2 ^ 48) k).bind fun _ s => .ok () s) (.ok () s)).bind fun _ s =>
          pieces.foldl (fun (w : Work Unit) p => w.bind fun _ s => s.engWrite c false (p.1 % 2 ^ 48) p.2 (v / 256 ^ (p.1 - r.out) % 256 ^ p.2) k) (.ok () s)

/-- Output pages of the records of a WALK, as far as the records can be read when it starts (R83). -/
def State.walkPages (s : State) (c : Cmd) : List Nat :=
  ((List.range (cdw c.img 3)).flatMap fun k =>
    match s.translate c.regime ((cmdAddr c.img 2 + 64 * k) % 2 ^ 48) with
    | .error _ => []
    | .ok x => match lookupOf ((List.range 8).map fun j => s.rd (x.key + 8 * j) 8) with
      | none => []
      | some r => (cutAt 4096 r.out (r.rowlen * (if r.ofmt = 0 then 4 else r.esz))).map fun p => p.1 % 2 ^ 48 / 4096 * 4096).eraseDups

/-- WALK, one record to a step; every record that fails keeps its own cause (R308). -/
def walkWork (c : Cmd) (s : State) : Work Unit :=
  let k := c.pos
  let s := if k = 0 then s.captureAll c (s.walkPages c) else s
  let next (s : State) : Work Unit :=
    if k + 1 < cdw c.img 3 then .wait false (notePos c.id (k + 1) s)
    else match (s.cmd c.id).errs with
      | [] => .ok () s
      | (cause, a, i, _) :: _ => .fail cause 1 a i s
  match walkRec c k s with
  | .ok _ s => next s
  | .wait b s => .wait b s
  | .fail cause _ _ _ s => next (s.updCmd c.id fun c => { c with errs := c.errs ++ [(cause, (cmdAddr c.img 2 + 64 * k) % 2 ^ 48, k, s.clk.time)] })

/-- ROWCOPY (R301). Co-located rows are copied inside their banks. -/
def execRowcopy : State → Host.Outcome State Fault Refusal :=
  fun s => engine s.item 4 0x40 (rowWork rowStep) s

/-- ROWOP (R301). A logical operation over co-located rows. -/
def execRowop : State → Host.Outcome State Fault Refusal :=
  fun s => engine s.item 4 0x41 (rowWork rowStep) s

/-- ROWZERO (R301). Rows are written as zero. -/
def execRowzero : State → Host.Outcome State Fault Refusal :=
  fun s => engine s.item 4 0x42 (rowWork rowStep) s

/-- SCRUB (R303). Rows are checked; what is corrected or rebuilt is rewritten, the rest poisoned. -/
def execScrub : State → Host.Outcome State Fault Refusal :=
  fun s => engine s.item 4 0x43 (rowWork scrubStep) s

/-- ALLOC (R305). The ledge allocator grants co-located rows, or says that it has none. -/
def execAlloc : State → Host.Outcome State Fault Refusal :=
  fun s => engine s.item 4 0x48 allocWork s

/-- FREE (R306). Rows of a live grant are zeroed and go back to the pool. -/
def execFree : State → Host.Outcome State Fault Refusal :=
  fun s => engine s.item 4 0x49 freeWork s

/-- LKRUN (R297). A microkernel goes to its ledge core, where it waits for room. -/
def execLkrun : State → Host.Outcome State Fault Refusal :=
  fun s => .next (match s.cmdFor s.item 4 0x4C with
    | none => s
    | some c => match s.lkrunCore c with
      | none => s.cmdFail c.id 0x23 0 0 0
      | some core => s.updCmd c.id fun c => { c with st := .sent, started := true, pos := core })

/-- WALK (R308). The walker pools table rows, record by record. -/
def execWalk : State → Host.Outcome State Fault Refusal :=
  fun s => engine s.item 5 0x50 walkWork s

end Sys2Proof.Machine
end

