-- ==== Sys2Proof/Machine/MemorySystem.lean ====
section
/-! DEFINITION. Channels, parity, losses of stacks, and the shelf (R314, R318–R329, R423–R434). -/

namespace Sys2Proof.Machine

open Sys2Proof

/-! ## Channels (R318–R321) -/

/-- Whether stamp `a` precedes stamp `b` (R319). -/
def precedes (a b : Nat) : Bool :=
  let d := (b + 2 ^ 16 - a) % 2 ^ 16
  decide (0 < d ∧ d < 2 ^ 15)

/-- The present time as a stamp. -/
def State.nowStamp (s : State) : Nat := s.clk.time.toNat / 64 % 2 ^ 16

/-- Whether a request comes before another by class, stamp, function and arrival (R320). -/
def ChanReq.first (a b : ChanReq) : Bool :=
  if a.cls ≠ b.cls then decide (a.cls < b.cls)
  else if precedes a.stamp b.stamp then true
  else if precedes b.stamp a.stamp then false
  else if a.fn ≠ b.fn then decide (a.fn < b.fn)
  else decide (a.seq < b.seq)

/-- The first of some requests. -/
def firstReq (before : ChanReq → ChanReq → Bool) : List ChanReq → Option ChanReq
  | [] => none
  | a :: t => match firstReq before t with
    | none => some a
    | some b => if before b a then some b else some a

/-- The request that a channel serves among those that the DRAM's timing allows, and whether the guard chose it. -/
def State.pickReq (s : State) (chan : Nat) (l : List ChanReq) : Option (ChanReq × Bool) :=
  let old := l.filter fun r => decide (8000 ≤ s.since r.arrived)
  match (if SMap.get 0 s.ras.guard chan = 0 then firstReq (fun a b => decide (a.seq < b.seq)) old else none) with
  | some r => some (r, true)
  | none => (firstReq ChanReq.first l).map fun r => (r, false)

/-- A service of a channel; one past its stamp counts as missed (R321). -/
def State.serveChannel (s : State) (chan : Nat) : State :=
  match s.pickReq chan (s.ras.chans.filter fun r => r.chan = chan && (s.free (2 ^ 29 + r.seq)).getLsbD 0) with
  | none => s
  | some (r, guarded) =>
    let g := if guarded then 3 else SMap.get 0 s.ras.guard chan - 1
    let s := { s with ras := { s.ras with chans := s.ras.chans.filter fun q => q.seq != r.seq, guard := SMap.set 0 s.ras.guard chan g } }
    if precedes r.stamp s.nowStamp then
      let k := 64 * r.req + 4 * r.fn + r.cls
      { s with part := { s.part with misses := SMap.set 0 s.part.misses k (min (SMap.get 0 s.part.misses k + 1) (2 ^ 32 - 1)) } }
    else s

/-! ## Errors of the stacks (R425–R428, R433, R434) -/

/-- Whether a row of a bank holds parity (R322). -/
def parityRow (bank row : Nat) : Bool := row / 4096 = bank / 1024

/-- A parity row that had failed is written again; a data row of its stripe that proves uncorrectable meanwhile is poisoned (R428). -/
def State.parityRebuilt (s : State) (bank row : Nat) : State :=
  let key := bank * 2 ^ 16 + row
  let s := { s with ras := { s.ras with parityBad := s.ras.parityBad.filter fun r => r != key } }
  let s := (List.range 16).foldl (fun s k =>
    let f := (s.free (2 ^ 25 + k)).toNat
    if k ≠ bank / 1024 ∧ !s.ras.lost.contains k ∧ f % 2 = 1 then
      let l := (((k * 1024 + bank % 1024) * 2 ^ 16 + row) * 16) + f / 2 % 16
      ((s.setPoison (l * 64) 64).lineErr 0x42 1 l).faqPut 1 l
    else s) s
  (s.lineErr 0x52 0 (key * 16)).faqPut 3 (key * 16)

/-- Slices that hold banks of a stack. -/
def State.slicesOn (s : State) (stack : Nat) : List Nat :=
  ((List.range 1024).map fun b => s.sliceOf (1024 * stack + b)).eraseDups

/-- A second stack is lost: every interface is in ERROR, and each enabled ring has its reset record (R410, R433). -/
def State.fatalStop (s : State) (stack : Nat) : State :=
  let s := s.postErr { errOf 0x4A with skind := 2, snum := stack }
  let s := s.fns.foldl (fun s e => if e.1 = 0 ∨ !e.2.made then s else s.updFn e.1 fun c => { c with iface := .error, relock := false }) s
  let s := s.fns.foldl (fun s e => e.2.rings.foldl (fun s r =>
    if r.2.en ∧ r.1 ≠ 63 ∧ s.ringRoom e.1 r.1 then (s.fillSlots e.1 r.1 ((complRec 0 6 0 false 0 0 0).setWidth 512)).countSlots e.1 r.1 else s) s) s
  let s := s.serveRing 0 63
  { s with ras := { s.ras with fatal := true } }

/-- A microkernel that waits for a ledge core of a lost stack fails, or goes to another (R433). -/
def State.moveLkrun (s : State) (c : Cmd) : State :=
  if lkAny c.img then s.updCmd c.id fun c => { c with st := .queued, started := false } else s.cmdFail c.id 0x23 0 0 0

/-- A stack is lost: the device goes on in low-water mode. -/
def State.loseStack (s : State) (k : Nat) : State :=
  let s := { s with ras := { s.ras with lost := s.ras.lost ++ [k] } }
  let s := (s.slicesOn k).foldl (fun s sl => s.postErr { errOf 0x49 with skind := 2, snum := k, slice := sl, vf := sl }) s
  let teams := s.teams.map fun (e : Nat × Team) =>
      (e.1, if e.2.st = .resident ∧ 512 ≤ e.2.core ∧ e.2.core < 640 ∧ (e.2.core - 512) / 8 = k then e.2.askKill s.clk.time 0x49 0 0 else e.2)
  let s := (s.ras.deltas.filter fun d => d.row / 2 ^ 26 = k).foldl (fun s d => s.dropDelta d.id) { s with teams := teams }
  (s.eng.cmds.filter fun c => c.qn = 4 && cmdCode c.img = 0x4C && c.st = .sent && decide ((c.pos - 512) / 8 = k)).foldl (fun s c => s.moveLkrun c) s

/-! ## Damage in SRAMs and caches (R424) -/

/-- Whether a line lies in a data row of a stack that stands. -/
def State.dataLine (s : State) (l : Nat) : Bool :=
  decide (l < 2 ^ 34) && (dataRow (lineBank l / 1024) (lineRow l % 2 ^ 16)).isSome && !s.ras.lost.contains (lineBank l / 1024)

/-- Whether a source of records exists, by SKIND and SNUM (R404): cores and their engines, L2 slices, base dies, the hub die. -/
def unitExists (skind snum : Nat) : Bool :=
  if skind = 0 ∨ skind = 3 then coreExists snum else if skind = 1 then decide (snum < 192) else if skind = 2 then decide (snum < 16) else skind = 4 && snum = 0

/-- A correction in a unit's SRAMs; every 256th is recorded (R424, log 224). -/
def State.sramFixed (s : State) (skind snum : Nat) : State :=
  let n := SMap.get 0 s.ras.sram (4096 * skind + snum) + 1
  let s := { s with ras := { s.ras with sram := SMap.set 0 s.ras.sram (4096 * skind + snum) (n % 256) } }
  if n < 256 then s else s.postErr { errOf 0x44 with skind := skind, snum := snum }

/-- The record of an uncorrectable line of a cache; a line of the stacks concerns the slice that holds it. -/
def State.cacheErr (s : State) (cause skind snum line : Nat) : State :=
  let slice := if line < 2 ^ 33 then s.sliceOf (keyBank (line * 128)) else 0
  s.postErr { errOf cause with skind := skind, snum := snum, slice := slice, vf := slice, akind := if line < 2 ^ 33 then 3 else 0,
                               addr := if line < 2 ^ 33 then s.addrOfKey (line * 128) else 0 }

/-- An uncorrectable line of L1: a clean one is dropped and fetched again, a dirty one is poisoned where it stands. -/
def State.l1Damage (s : State) (core line : Nat) : State :=
  match s.l1 core line with
  | none => s
  | some c => if c.dirty then (s.l1Put { c with poison := true }).cacheErr 0x46 0 core line else (s.l1Drop core line).cacheErr 0x45 0 core line

/-- An uncorrectable line of L2 or of a memory-side cache, whose contents stand in memory (log 225). -/
def State.cacheDamage (s : State) (skind snum line : Nat) (dirty : Bool) : State :=
  if dirty then (s.setPoison (line * 128) 128).cacheErr 0x46 skind snum line else s.cacheErr 0x45 skind snum line

/-- The record of an uncorrectable error in what a team holds. -/
def State.teamErr (s : State) (t cause akind addr : Nat) : State :=
  s.postErr { errOf cause with snum := (s.team t).core, vf := (s.team t).fn, akind := akind, addr := addr }

/-- An uncorrectable line of a scratchpad window is poisoned. -/
def State.windowDamage (s : State) (t line : Nat) : State :=
  if s.hasTeam t && (s.team t).st = .resident && decide (line < (s.team t).spl) then
    (s.updTeam t fun tm => tm.updLine line fun l => { l with poison := true }).teamErr t 0x46 4 (128 * line)
  else s

/-- An uncorrectable binding is poisoned. -/
def State.tileDamage (s : State) (pair record i : Nat) : State :=
  match SMap.get none (SMap.get {} s.mtx pair : PairMtx).recs record with
  | none => s
  | some r => match r.binds[i]? with
    | none => s
    | some b =>
      if b.st = 2 then
        (s.updPair pair fun p => p.setRec record (some { r with binds := r.binds.set i { b with poison := true } })).teamErr r.team 0x46 0 0
      else s

/-- A group whose entry of the wake table is uncorrectable wakes (R91). -/
def State.wakeDamage (s : State) (t g : Nat) : State :=
  if s.hasGrp t g && (s.cache.wake.any fun e => e.2 = (t, g)) then
    State.teamErr { s.updGrp t g fun gr => gr.wake s.clk.cycle with cache := { s.cache with wake := s.cache.wake.filter fun e => e.2 != (t, g) } } t 0x47 0 0
  else s

/-! ## The shelf (R314, R327–R329, R434) -/

/-- What keeps a function from reading a shelf page (R328, R383, R434). -/
def State.shelfFault (s : State) (fn page : Nat) : Option Nat :=
  if 2 ^ 40 ≤ page ∨ 805306368 ≤ page % 2 ^ 38 then some 0x4F
  else if s.ras.shelfLost.contains (page / 2 ^ 38) then some 0x50
  else match SMap.get none s.ras.shelf page with
    | none => some 0x4F
    | some (owner, gen) =>
      if owner ≠ fn then some 0x4F else if gen = 0 ∨ gen ≠ SMap.get 0 s.lh.shelfKey fn then some 0x4D else none

/-- SHELF.READ, one page to a step. -/
def shelfReadWork (c : Cmd) (s : State) : Work Unit :=
  let m := c.img
  let n := cdw m 4
  let dst (k : Nat) : Nat := (cmdAddr m 3 + 4096 * k) % 2 ^ 48
  let s := if c.pos = 0 then s.captureAll c ((List.range n).map dst) else s
  Work.unlessRejected c ((List.range n).map dst) s <| eachUnit (notePos c.id) (fun k s =>
    let page := cdw m 2 + k
    match s.shelfFault c.fn page with
    | some e => .fail e 5 page k s
    | none => (List.range 32).foldl (fun (w : Work Unit) j => w.bind fun _ s =>
        s.engWrite c false (dst k + 128 * j) 128 (s.rd (shelfKeyOf page (128 * j)) 128) k) (.ok () s)) c.pos ((List.range n).drop c.pos)

/-- Pages that a function's log can still take (R329). -/
def Fn.logRoom (f : Fn) : Nat := min (f.logBase + f.logLen - f.logHead) (f.quota - (f.logHead - f.logStart))

/-- SHELF.APPEND: the pages are assigned, then copied one to a step, then the first one's number is stored. -/
def shelfAppendWork (c : Cmd) (s : State) : Work Unit :=
  let m := c.img
  let n := cdw m 3
  let f := s.fn c.fn
  if c.pos = 0 then
    if f.logLen ≠ 0 ∧ s.ras.shelfLost.contains (f.logBase / 2 ^ 38) then .fail 0x50 5 f.logHead 0 s
    else if f.logRoom < n then .fail 0x4E 5 f.logHead 0 s
    else if SMap.get 0 s.lh.shelfKey c.fn = 0 then .fail 0x4D 5 f.logHead 0 s
    else .wait false ((s.setFn c.fn { f with logHead := f.logHead + n }).updCmd c.id fun c => { c with spn := f.logHead, pos := 1 })
  else if s.ras.shelfLost.contains (c.spn / 2 ^ 38) then .fail 0x50 5 c.spn 0 s
  else if c.pos ≤ n then
    let k := c.pos - 1
    (s.engBytes c ((cmdAddr m 2 + 4096 * k) % 2 ^ 48) 4096 k).bind fun v s =>
      .wait false (notePos c.id (c.pos + 1) (s.perform none (shelfKeyOf (c.spn + k) 0) 4096 v))
  else (s.engReach c .store (cmdAddr m 4) 0).bind fun x s => .ok () (s.engStore c x 8 c.spn)

/-- CHANNEL_COMMAND_ISSUE (R320). The channel’s scheduler serves one of the requests that its timing allows. -/
def execChannelCommandIssue (chan : Nat) : State → Host.Outcome State Fault Refusal :=
  fun s => .next (s.serveChannel chan)

/-- RECONSTRUCTING_READ (R424–R427). A check code finds a damage: a line of the stacks that is uncorrectable is rebuilt from its stripe, or poisoned,
once every delta of the stripe has been applied; any other damage has its consequence at once. -/
def execReconstructingRead (found : Damage) : State → Host.Outcome State Fault Refusal :=
  fun s => .next (match found with
    | .line l => if s.dataLine l && !s.stripeBusy l then s.rebuildLine l ((s.free 5).getLsbD 0) ((s.free 5).getLsbD 1) else s
    | .fixedLine l => if l < 2 ^ 34 ∧ !s.ras.lost.contains (lineBank l / 1024) then s.corrected l else s
    | .tagLine l => if s.dataLine l && !s.keylessLine l then s.tagMismatch l else s
    | .fixed skind snum => if unitExists skind snum then s.sramFixed skind snum else s
    | .l1Line core line => s.l1Damage core line
    | .cacheLine skind snum line dirty => if (skind = 1 ∨ skind = 2) ∧ unitExists skind snum ∧ line < 2 ^ 33 then s.cacheDamage skind snum line dirty else s
    | .window team line => s.windowDamage team line
    | .tile pair record i => s.tileDamage pair record i
    | .wake team grp => s.wakeDamage team grp)

/-- PARITY_ROW_REBUILD (R428). A parity row is found uncorrectable; or one found so is written again. -/
def execParityRowRebuild (bank row : Nat) : State → Host.Outcome State Fault Refusal :=
  fun s => .next (
    if 16384 ≤ bank ∨ 65536 ≤ row ∨ !parityRow bank row ∨ s.ras.lost.contains (bank / 1024) then s
    else if s.ras.parityBad.contains (bank * 2 ^ 16 + row) then s.parityRebuilt bank row
    else { s with ras := { s.ras with parityBad := s.ras.parityBad ++ [bank * 2 ^ 16 + row] } })

/-- PATROL_SCRUB (R434). The patrol checks one row. -/
def execPatrolScrub (bank row : Nat) : State → Host.Outcome State Fault Refusal :=
  fun s => .next (
    if 16384 ≤ bank ∨ 65536 ≤ row ∨ s.ras.lost.contains (bank / 1024) ∨ s.keylessLine (bank * 2 ^ 20) then s
    else if parityRow bank row then
      (if (s.free 5).getLsbD 0 ∧ !s.ras.parityBad.contains (bank * 2 ^ 16 + row) then { s with ras := { s.ras with parityBad := s.ras.parityBad ++ [bank * 2 ^ 16 + row] } } else s)
    else
      let s := s.askChan 0 3 (s.stampNow 0) (bankKey bank row 0) 2000
      if s.stripeBusy (bankKey bank row 0 / 64) then s else s.scrubRow (bankKey bank row 0))

/-- STACK_LOSS (R433). A stack is lost: low-water mode, or, with a second one, the end. -/
def execStackLoss (stack : Nat) : State → Host.Outcome State Fault Refusal :=
  fun s => .next (
    if 16 ≤ stack ∨ s.ras.lost.contains stack then s
    else if s.ras.lost.isEmpty then s.loseStack stack
    else s.fatalStop stack)

/-- SHELF_MODULE_LOSS (R434). A shelf module is lost. -/
def execShelfModuleLoss (modl : Nat) : State → Host.Outcome State Fault Refusal :=
  fun s => .next (
    if 4 ≤ modl ∨ s.ras.shelfLost.contains modl then s
    else { s with ras := { s.ras with shelfLost := s.ras.shelfLost ++ [modl] } }.postErr { errOf 0x50 with skind := 5 })

/-- SHELF_READ (R328). Pages of the shelf are written to memory in ascending order. -/
def execShelfRead : State → Host.Outcome State Fault Refusal :=
  fun s => engine s.item 6 0x60 shelfReadWork s

/-- SHELF_APPEND (R329). Pages are appended to the function’s log. -/
def execShelfAppend : State → Host.Outcome State Fault Refusal :=
  fun s => engine s.item 6 0x61 shelfAppendWork s

end Sys2Proof.Machine
end

