-- ==== Sys2Proof/Machine/Migration.lean ====
section
/-! DEFINITION. Live migration of a slice (R435, R455–R458). -/

namespace Sys2Proof.Machine

open Sys2Proof

/-- The migration of an entry that a command names (R455). -/
def State.migOf (s : State) (m : BitVec 512) : Option Mig :=
  match s.part.mig with
  | some g => if g.entry = bf (cdw m 2) 3 0 then some g else none
  | none => none

/-- MBEGIN. -/
def mbeginWork (c : Cmd) (s : State) : PartRes :=
  let m := c.img
  let n := bf (cdw m 2) 3 0
  let e := imageOf m
  let old := s.artEntry n
  checked [(!okBits m 0 imageMasks, 1), (s.part.mig.isSome, 3), (!old.en, 6),
          (e.base != old.base || e.limit != old.limit || e.slice != old.slice || e.gr != old.gr || e.rowbase != old.rowbase || !e.en || decide (e.gr < 2), 1),
          (!s.artFits n e false || (e.banks.any fun b => old.names b) || (s.part.art.any fun o => o.1 != n && o.2.en && e.banks.any fun b => o.2.names b), 4)] fun _ =>
    .done 0 { s with part := { s.part with mig := some { entry := n, image := e, old := old } } }

/-- Change the active migration. -/
def State.updMig (s : State) (f : Mig → Mig) : State := { s with part := { s.part with mig := s.part.mig.map f } }

/-- Copy unit `u` of an entry's range to where the staged image has it (R456, R435): whether the copy is poisoned, and the state.
Whether the row proves uncorrectable and cannot be rebuilt, nature decides: then it is reported, and an entry of the fault-address queue names
it (R330, R435). A row of a keyless slice is not copied (R378). -/
def State.copyUnit (s : State) (g : Mig) (u : Nat) : Bool × State :=
  let a := g.old.base + 1024 * u
  let src := (s.artEntry g.entry).resolve a
  let dst := g.image.resolve a
  if src = dst then (false, s)
  else if s.keylessLine (src / 64) then (true, s.noteRead src 1024)
  else
    let lost := (s.free (2 ^ 30 + u)).getLsbD 0
    let s := s.noteRead src 1024
    let bad := (List.range 16).filter fun j => lost || s.badLine (src / 64 + j)
    let s := (s.perform none dst 1024 (s.rd src 1024)).updMig fun g => { g with dirty := g.dirty.filter fun r => r != src / 1024 }
    let s := bad.foldl (fun s j => s.setPoison (dst + 64 * j) 64) s
    let bank := keyBank src
    (!bad.isEmpty, if lost then (s.postErr { errOf 0x51 with skind := 2, snum := bank / 1024, slice := g.old.slice, vf := g.old.slice, akind := 3, addr := a, detail := bank }).faqPut 1 (src / 64) else s)

/-- Copy units one after another: how many copies are poisoned, and the state. -/
def State.copyUnits (s : State) (g : Mig) (l : List Nat) : Nat × State :=
  l.foldl (fun r u => let (b, s) := r.2.copyUnit g u; (r.1 + (if b then 1 else 0), s)) (0, s)

/-- Units whose rows are dirty, in ascending order. -/
def Mig.dirtyUnits (g : Mig) : List Nat :=
  (g.dirty.filterMap fun r => if g.old.names (r / 2 ^ 16) then (g.old.addrOf (r * 1024)).map fun a => (a - g.old.base) / 1024 else none).mergeSort fun a b => decide (a ≤ b)

/-- The command has counted one more unit. -/
def countUnit (id : Nat) (bad : Bool) (k : Nat) (s : State) : State :=
  s.updCmd id fun c => { c with pos := k, detail := c.detail + (if bad then 1 else 0) }

/-- DETAIL of a command that counts poisoned units. -/
def State.poisonedUnits (s : State) (id : Nat) : Nat := min (s.cmd id).detail 255

/-- MCOPY, one unit to a step. -/
def mcopyWork (c : Cmd) (s : State) : PartRes :=
  checked [(!c.started && !okBits c.img 0 [0xF], 1), ((s.migOf c.img).isNone, 6)] fun _ =>
    match s.migOf c.img with
    | none => .fail 6 0
    | some g =>
      if (g.old.limit - g.old.base) / 1024 ≤ c.pos then .done (s.poisonedUnits c.id) s
      else let (b, s) := s.copyUnit g c.pos; .wait (countUnit c.id b (c.pos + 1) s)

/-- MDIRTY: the units dirty at its start, one to a step. -/
def mdirtyWork (c : Cmd) (s : State) : PartRes :=
  checked [(!c.started && !okBits c.img 0 [0xF], 1), ((s.migOf c.img).isNone, 6)] fun _ =>
    match s.migOf c.img with
    | none => .fail 6 0
    | some g =>
      if !c.started then .wait (s.updMig fun g => { g with todo := g.dirtyUnits })
      else match g.todo with
        | [] => .done (s.poisonedUnits c.id) s
        | u :: t => let (b, s) := s.copyUnit g u; .wait ((countUnit c.id b (c.pos + 1) s).updMig fun g => { g with todo := t })

/-! ## The switch (R457) -/

/-- Where a row of the entry lies after the switch; other rows stay. -/
def Mig.moveRow (g : Mig) (r : Nat) : Nat :=
  if r < 2 ^ 30 ∧ g.old.names (r / 2 ^ 16) then
    match g.old.addrOf (r * 1024) with
    | some a => g.image.resolve a / 1024
    | none => r
  else r

/-- Where a memory key lies after the switch; where a 128-byte line lies. -/
def Mig.moveKey (g : Mig) (k : Nat) : Nat := g.moveRow (k / 1024) * 1024 + k % 1024
def Mig.moveLine (g : Mig) (l : Nat) : Nat := g.moveRow (l / 8) * 8 + l % 8

/-- What a transaction has gathered follows its lines. -/
def TxData.move (g : Mig) (d : TxData) : TxData :=
  { d with wlines := d.wlines.map g.moveLine, twins := d.twins.map fun e => (g.moveLine e.1, g.moveKey e.2.1, e.2.2.1, g.moveLine e.2.2.2), publs := d.publs.map g.moveKey, writes := d.writes.foldl (fun m e => SMap.ins (g.moveKey e.1) e.2 m) [] }

/-- Sets of an open transaction follow their lines. -/
def Tx.move (g : Mig) (x : Tx) : Tx :=
  { x with reads := x.reads.map g.moveLine, data := x.data.move g, frames := x.frames.map fun f => { f with data := f.data.move g } }

/-- The keys of a store's or line's twin descriptor and other backing follow. -/
def Mig.moveTwin (g : Mig) (t : Nat × Nat × Nat) : Nat × Nat × Nat := (g.moveKey t.1, t.2.1, g.moveKey t.2.2)

/-- So do the lines of a tile. -/
def TileLine.move (g : Mig) (l : TileLine) : TileLine := { l with key := g.moveKey l.key, twin := l.twin.map g.moveTwin }

/-- Lines that bindings and queued drains of a pair name follow. -/
def PairMtx.move (g : Mig) (p : PairMtx) : PairMtx :=
  { p with
    recs := p.recs.map fun e => (e.1, e.2.map fun (r : ObRec) => { r with binds := r.binds.map fun (b : Binding) =>
      { b with lines := b.lines.map g.moveLine, map := b.map.map fun l => l.move g } })
    queue := p.queue.map fun (e : MtxEnt) => { e with op := match e.op with
      | .drain a st x y r bs r0 c0 ls => .drain a st x y r bs r0 c0 (ls.map fun l => l.move g)
      | op => op } }

/-- Copies in the L1s, wake entries, transactions, stores on their way, and descriptors that commands hold follow the addresses. -/
def State.moveKeys (s : State) (g : Mig) : State :=
  let s := s.mapGroups fun _ _ gr => { gr with tx := gr.tx.map fun x => x.move g
                                               out := gr.out.map fun (p : Pend) => { p with src := p.src.map fun e => if e.1 < 2 ^ 60 then (g.moveKey e.1, e.2) else e } }
  let l1 := s.cache.l1.map fun (l : L1Line) => { l with line := g.moveLine l.line }
  let wake := s.cache.wake.map fun (e : Nat × Nat × Nat) => (g.moveLine e.1, e.2)
  let stores := s.stores.map fun (f : InFlight) => if f.performed ∨ (f.drain.getD {}).sp then f else { f with key := g.moveKey f.key, twin := f.twin.map g.moveTwin }
  let cmds := s.eng.cmds.map fun (c : Cmd) => { c with caps := c.caps.map fun e => (g.moveKey e.1, e.2) }
  let tlb := s.cache.tlb.map fun (e : Tlb) => { e with twin := e.twin.map fun (t : TlbTwin) => { t with key := g.moveKey t.key } }
  let stamp := s.cache.stamp.foldl (fun m e => SMap.ins (g.moveLine e.1) e.2 m) []
  let s : State := { s with mtx := s.mtx.map fun e => (e.1, e.2.move g) }
  { s with cache := { s.cache with l1 := l1, wake := wake, tlb := tlb, stamp := stamp }, stores := stores, eng := { s.eng with cmds := cmds } }

/-- MSWITCH: dirty units are recopied and the entry is replaced, in one step. -/
def mswitchWork (c : Cmd) (s : State) : PartRes :=
  let m := c.img
  checked [(!okBits m relockFlags [0xF], 1), ((s.migOf m).isNone, 6)] fun _ =>
    match s.migOf m with
    | none => .fail 6 0
    | some g =>
      if s.lockedOut m [g.old.slice] then .fail 5 0
      else if g.switched then .done 0 (s.commitRelock m [g.old.slice])
      else
        let (n, s) := s.copyUnits g g.dirtyUnits
        let s := (s.moveKeys g).updMig fun g => { g with switched := true }
        .done (min n 255) (({ s with part := { s.part with art := SMap.set {} s.part.art g.entry g.image } } : State).commitRelock m [g.old.slice])

/-! ## The end (R458) -/

/-- MRELEASE. -/
def mreleaseWork (c : Cmd) (s : State) : PartRes :=
  let m := c.img
  checked [(!okBits m relockFlags [0xF], 1), ((s.migOf m).isNone, 6)] fun _ =>
    match s.migOf m with
    | none => .fail 6 0
    | some g =>
      if s.lockedOut m [g.old.slice] then .fail 5 0
      else
        let bs := if g.switched then g.old.banks.filter fun b => !(s.artEntry g.entry).names b else []
        let s := s.zeroBanks bs
        let s : State := { s with part := { s.part with bankSlice := bs.foldl (fun t b => SMap.set 0 t b 0) s.part.bankSlice, mig := none } }
        .done 0 ((s.settleKeys g.old.slice).commitRelock m [g.old.slice])

/-- MABORT. -/
def mabortWork (c : Cmd) (s : State) : PartRes :=
  checked [(!okBits c.img 0 [0xF], 1), ((s.migOf c.img).isNone, 6)] fun _ =>
    .done 0 { s with part := { s.part with mig := none } }

/-- MBEGIN (R455). An image is staged, and writes are tracked from here on. -/
def execMbegin : State → Host.Outcome State Fault Refusal :=
  part 9 0xB0 mbeginWork

/-- MCOPY (R456). Every unit of the entry is copied. -/
def execMcopy : State → Host.Outcome State Fault Refusal :=
  part 9 0xB1 mcopyWork

/-- MDIRTY (R455). Every dirty unit is copied again. -/
def execMdirty : State → Host.Outcome State Fault Refusal :=
  part 9 0xB2 mdirtyWork

/-- MSWITCH (R457). The last dirty units are copied, and the entry is replaced. -/
def execMswitch : State → Host.Outcome State Fault Refusal :=
  part 9 0xB3 mswitchWork

/-- MRELEASE (R458). The banks left behind are zeroed and return to slice 0. -/
def execMrelease : State → Host.Outcome State Fault Refusal :=
  part 9 0xB4 mreleaseWork

/-- MABORT (R455). The migration ends with the entry unchanged. -/
def execMabort : State → Host.Outcome State Fault Refusal :=
  part 9 0xB5 mabortWork

end Sys2Proof.Machine
end

