-- ==== Sys2Proof/Machine/TaskOps.lean ====
section
/-! DEFINITION. Groups, streams, poison, stores on their way, timers, ends and kills of teams, saves and slices as steps of the device. -/

namespace Sys2Proof.Machine

open Sys2Proof

/-! ## Groups -/

/-- The end of PREEND for a lane: a spent one returns to where it stood, the others wait for the team (R258, R365). -/
def Group.preend (g : Group) (m : LaneMask) : Group :=
  overLanes m (fun l g => if (g.th l).spent then g.eret (laneBit l) false else g.updTh l fun th => { th with preended := true }) g

/-- A READY group of a core other than one that is halted. -/
def State.someReady (s : State) (core : Nat) : Bool := !(s.groupsOn core fun _ g => g.eligible).isEmpty

/-- Whether a group has waited 32 cycles at a marker or at a word that is held, and waits still, so that it leaves the active set (R51). -/
def State.parksNow (s : State) (t g : Nat) : Bool :=
  let gr := s.grp t g
  s.hasGrp t g && (s.team t).st = .resident && gr.st = .active && gr.pace.since != 0 && decide (gr.pace.since + 31 ≤ s.clk.cycle) &&
  (gr.pace.holding || (s.issues t g).isEmpty) && s.someReady (s.team t).core

/-- Whether a parked group can go on: no halt mark, no wait for REPLAY (R438), and every outstanding dependence satisfied (R51). -/
def State.unparksNow (s : State) (t g : Nat) : Bool :=
  let gr := s.grp t g
  s.hasGrp t g && (s.team t).runs && gr.st = .parked && !gr.halt && gr.awaits.isNone && s.depsMet t g

/-- Groups of a core that have stayed READY for 1,024 cycles (R52). -/
def State.overdue (s : State) (core : Nat) : List (Nat × Nat × Nat × Nat) :=
  s.groupsOn core fun tm g => g.eligible && tm.runs && decide (g.since + 1024 ≤ s.clk.cycle)

/-- The oldest of a list of groups. -/
def oldest (l : List (Nat × Nat × Nat × Nat)) : Option (Nat × Nat × Nat × Nat) :=
  l.foldl (fun b e => match b with
    | none => some e
    | some c => if e.2.2.2 < c.2.2.2 then some e else some c) none

/-- The group that a promoted one displaces: the youngest of the lowest priority. -/
def youngest (l : List (Nat × Nat × Nat × Nat)) : Option (Nat × Nat × Nat × Nat) :=
  l.foldl (fun b e => match b with
    | none => some e
    | some c => if e.2.2.1 < c.2.2.1 ∨ (e.2.2.1 = c.2.2.1 ∧ c.2.2.2 < e.2.2.2) then some e else some c) none

/-- A group enters the active set by promotion (R52). -/
def State.promote (s : State) (t g : Nat) : State :=
  let core := (s.team t).core
  let act := s.groupsOn core fun _ gr => gr.st = .active
  let s := if act.length < activeCap core then s else match youngest act with
    | some (t', g', _, _) => s.updGrp t' g' fun gr => gr.leave .ready s.clk.cycle
    | none => s
  s.updGrp t g fun gr => gr.enter .active s.clk.cycle

/-- A group resumes at the clause behind BARV (R56). -/
def Group.proceed (g : Group) (cycle : Nat) : Group :=
  let g := g.mapTh (maskWhere fun l => match (g.th l).run with | .barv _ => true | _ => false) fun th => { th with run := .running }
  { g.enter .ready cycle with barOff := none, cont := false }

/-! ## Streams (R54) -/

/-- The map unit, the stream engine and other readers that act for a whole group or team stand for no lane. -/
def Team.unitWho (tm : Team) (t g : Nat) : Who := { t := t, g := g, lane := 32, core := tm.core }

/-- The next element of an inbound stream is loaded; from the host over a link that is down it comes as poison, with a record (R448). -/
def State.streamIn (s : State) (t g l q : Nat) (st : Stream) : State :=
  let tm := s.team t
  let p := (s.grp t g).port l q
  let i := p.popped + p.got.length
  let va := st.addr tm.lin g l i
  if st.count ≤ i ∨ 16 ≤ p.got.length then s
  else match s.check tm.regime tm.core .load false va with
    | .error _ => s
    | .ok x =>
      let down := s.ext.hostDown && x.kind = 1
      let ((v, bad), s) := ((((s.keep tm.regime va x).claimCp t tm.core x).chargeAccess t tm.regime tm.core l true x)).readAt { t := t, g := g, lane := l, core := tm.core } x (2 ^ st.esz)
      let bad := bad || down
      let e := if bad then s.free 8 else BitVec.ofNat 64 v
      let s := if down then s.postErr { errOf 0x6D with snum := tm.core, vf := tm.fn } else s
      s.updGrp t g fun gr =>
        let gr := gr.updPort l q fun p => { p with got := p.got ++ [e] }
        if bad then gr.updTh l fun th => { th with poison := some (th.poison.getD va) } else gr

/-- The oldest element of an outbound stream is stored; one that cannot be is discarded with its error record. -/
def State.streamOut (s : State) (t g l q : Nat) (st : Stream) : State :=
  let tm := s.team t
  let p := (s.grp t g).port l q
  let va := st.addr tm.lin g l p.stored
  let pop (s : State) : State := s.updGrp t g fun gr => gr.updPort l q fun p => { p with push := p.push.drop 1, stored := p.stored + 1 }
  match p.push with
  | [] => s
  | none :: _ => if tm.kill.isSome then pop s else s
  | some v :: _ =>
    match s.check tm.regime tm.core .store false va with
    | .ok x => pop ((((s.keep tm.regime va x).claimCp t tm.core x).chargeAccess t tm.regime tm.core l false x).storeAt { t := t, g := g, lane := l, core := tm.core } x (2 ^ st.esz) v.toNat)
    | .error (.trap c note) => pop ((s.xnote note tm.core (whoOf t g)).postErr { errOf c with snum := tm.core, vf := tm.fn, akind := 1, addr := va })
    | .error e => if tm.st = .resident ∧ tm.kill.isNone then s.meet t g tm.fn [e] else s

/-! ## Poison (R431) -/

/-- A stop point with what its header gives, where the lane has not yet taken the header. -/
def State.stopAt (s : State) (rg : Regime) (p : CodePt) : CodePt :=
  if p.pos = 0 ∧ p.n = 0 then
    match s.codeWord rg p.hdr.toNat with
    | some w => (match decodeHeader w with
      | .ok (.clauseHeader _ y _ _ _ _ _ _ _ _ _ c n) => { p with cls := c.toNat, n := n.toNat, y := y }
      | _ => p)
    | none => p
  else p

/-- The trap of a lane with poison due: its address is a virtual one, a scratchpad offset or a bank index. -/
def State.takePoison (s : State) (t g l a : Nat) (p : CodePt) : State :=
  let tm := s.team t
  let s := s.updGrp t g fun gr => gr.updTh l fun th => { th with poison := none, stopPt := none, waitRes := false }
  let v := if a < 2 ^ 50 then a else if a < 2 ^ 51 then a - 2 ^ 50 else a - 2 ^ 51
  (s.takeTrap t g (laneBit l) 0x08 (decide (2 ^ 50 ≤ a ∧ a < 2 ^ 51)) (s.stopAt tm.regime p) fun _ => BitVec.ofNat 64 v).issued t g false

/-! ## Stores on their way (R77, R82, R325) -/

/-- Whether an earlier store must be performed first: one of the same thread to the same line of this package (R77), or one of the same issue
to the same bytes, wherever they lie (R208). -/
def State.behind (s : State) (f : InFlight) : Bool :=
  (s.stores.takeWhile fun e => e.id != f.id).any fun e => !e.performed && e.team = f.team && e.grp = f.grp && (f.drain.isNone || e.seq != f.seq) &&
    !(e.drain.getD {}).sp && !(f.drain.getD {}).sp &&
    ((!f.remote && e.lane = f.lane && e.key / 128 = f.key / 128) ||
     (e.seq = f.seq && decide (e.key < f.key + f.size) && decide (f.key < e.key + e.size)))

/-- A store is acknowledged: it leaves the list, and one to another package or the host releases its count. -/
def State.ackStore (s : State) (f : InFlight) : State :=
  let s := { s with stores := s.stores.filter fun e => e.id != f.id }
  if f.remote && s.hasGrp f.team f.grp then s.updGrp f.team f.grp fun g => g.updTh f.lane fun th => { th with osat := th.osat - 1 } else s

/-! ## Region maps (R72) -/

/-- The next line of a fill arrives. A fill that meets a fault stands still, with the lines that have not arrived absent, until its line
translates again; the access that touches an absent line takes the fault (log 43). From the host over a link that is down a line comes as
poison, with a record (R448). -/
def State.fillLine (s : State) (t k : Nat) : State :=
  let tm := s.team t
  let left := SMap.get 0 tm.rgnFill k
  let i := tm.rgnLines k - left
  if left = 0 then s
  else match s.check tm.regime tm.core .load false (tm.rgnVa k i) with
    | .ok x =>
      let down := s.ext.hostDown && x.kind = 1
      let ((v, bad), s) := ((((s.keep tm.regime (tm.rgnVa k i) x).claimCp t tm.core x).charge tm.regime x 128).toChannel tm.fn tm.scls tm.dloff tm.regime.unit x).readAt (tm.unitWho t 0) x 128
      let s := if down then s.postErr { errOf 0x6D with snum := tm.core, vf := tm.fn } else s
      s.updTeam t fun tm =>
        { tm with sp := memWrite tm.sp ((tm.rgnOff k + i) * 128) 128 v, rgnFill := SMap.set 0 tm.rgnFill k (left - 1) }.updLine (tm.rgnOff k + i)
          fun l => { l with absent := false, modified := false, poison := bad || down }
    | .error e => s.await tm.fn [64 * t + 63] e

/-! ## Timers (R260) -/

/-- An entry fires: one TDEC, or its discard with an error record. -/
def State.fireTimer (s : State) (fn idx : Nat) (e : TimerEnt) : State :=
  let gone (s : State) : State := s.updFn fn fun f => { f with timers := f.timers.eraseIdx idx }
  let drop (s : State) (c : Nat) : State := gone (s.launch fn e.harbour [.err { errOf 0x27 with skind := 4, vf := fn, akind := 1, addr := e.addr, detail := c }])
  match s.reach fn e.harbour .store e.addr 8 true with
  | (.ok x, s) => if s.isPoison (x.key + 4) 4 then drop s 0x08 else (gone s).launch fn e.harbour [.decPa x.pa e.addr]
  | (.skip c, s) => drop s c
  | (.stuck, s) => s.updFn fn fun f => { f with timers := f.timers.set idx { e with stuck := true } }
  | (.later, s) => s

/-! ## Ends of teams -/

/-- Whether a team has come to its end: every thread has exited (R32). -/
def State.allExited (s : State) (t : Nat) : Bool := (s.team t).groups.all fun e => e.2.live = 0

/-- A team ends by EXIT: write-backs of its regions, releases, drain, weight, each before the next (R58, R63, R72). -/
def State.endTeam (s : State) (t : Nat) : State :=
  if !s.hasTeam t || (s.team t).st ≠ .resident || (s.team t).kill.isSome || !s.allExited t || !s.teamIdle t then s
  else match s.regionsBack t with
    | none => s.rgnAsk t (s.team t).regions
    | some s =>
      let s := s.releaseOnce t
      if s.teamDrained t then s.dropTeam t 0 [] else s

/-- The steps of a kill (R419). The record of step 6 waits for room in its ring (R406). -/
def State.killTeam (s : State) (t cause : Nat) : State :=
  if !s.hasTeam t then s
  else match (s.team t).kill with
    | none => if cause = 0x47 then s.updTeam t fun tm => tm.askKill s.clk.time cause 0 0 else s
    | some c =>
      if c ≠ cause then (if cause = 0x47 then s.updTeam t fun tm => tm.askKill s.clk.time cause 0 0 else s)
      else if !(s.team t).killed then s.killStart t
      else if !s.teamIdle t then s
      else
        let fin (s : State) : State :=
          let s := s.releaseOnce t
          if s.teamDrained t then s.killEnd t cause else s
        match s.regionsBack t with
        | none => if !(s.team t).harbour && (s.fn (s.team t).fn).reset.isSome then fin s else s.rgnAsk t (s.team t).regions
        | some s => fin s

/-! ## Saves (R60, R365) -/

/-- A team that met a demand fault is saved, or held on its core (R60, R296). -/
def State.faultSave (s : State) (t : Nat) : State :=
  let tm := s.team t
  if !s.hasTeam t || tm.st ≠ .resident || !tm.faulted || tm.kill.isSome || !s.saveReady t then s
  else if savesHere tm.core && (s.fn tm.fn).hasFrame then s.saveTeam t true
  else s.updTeam t fun tm => tm.park s.clk.cycle

/-- Whether a team's cooperative save has used up its budget, or has failed (R364, R365). -/
def State.overBudget (s : State) (t : Nat) : Bool :=
  let tm := s.team t
  tm.forceSave || (match tm.saveSince with | some c => decide (c + (s.fn tm.fn).budAt.toNat ≤ s.clk.cycle) | none => false)

/-- A forced save (R365): discarded when discardable, killed when no frame is free. -/
def State.forcedSave (s : State) (t : Nat) : State :=
  let tm := s.team t
  if !s.hasTeam t || tm.st ≠ .resident || tm.kill.isSome || !s.overBudget t then s
  else if !s.saveReady t then s.updTeam t fun tm => { tm with forceSave := true }
  else if tm.discardable then s.discardTeam t
  else if (s.fn tm.fn).hasFrame then s.saveTeam t false
  else s.updTeam t fun tm => tm.askKill s.clk.time 0x10 0 0

/-! ## Slices (R361–R369) -/

/-- How many turns the choice of a member looks at. -/
def turnFuel : Nat := 4096

/-- Members that a POOL command has listed take effect (R361). -/
def Pool.adopt (p : Pool) : Pool := { p with members := p.next.getD p.members, next := none }

/-- A slice end of a function: SY.PREHDL and SY.PREBUD take effect (R129), and what cannot be pre-empted is measured from now on (R368). -/
def State.markEnd (s : State) (k fn : Nat) : State :=
  let ids := s.stuckFast fn
  let e : Slack := { time := s.clk.time, lim := (s.pool k).ovrlim, ids := ids }
  s.updFn fn fun f => { f with preAt := f.prehdl, budAt := f.prebud, slacks := f.slacks ++ if ids.isEmpty then [] else [e] }

/-- The outgoing function's teams are treated one by one. -/
def State.vacate (s : State) (k : Nat) : State :=
  let s := s.updPool k fun p => { p with endTime := some s.clk.time, vacated := none }
  (s.poolTeams k).foldl (fun s t => s.leaveSlice t) s

/-- A slice ends (R362, R363): renewed, or its function's teams leave. -/
def State.endSlice (s : State) (k : Nat) : State :=
  let p := s.pool k
  if !p.en || p.cur = 0 || p.endTime.isSome || decide (s.since p.start < p.curlen) then s
  else
    let s := (s.markEnd k p.cur).updPool k Pool.adopt
    match s.nextMember (s.pool k) turnFuel (s.pool k).turns with
    | (some (m, len), s') =>
      if m = p.cur then s'.updPool k fun p => { p with start := s.clk.time, curlen := len }
      else s.vacate k
    | (none, _) => s.vacate k

/-- The next member's slice starts once the pool's cores are vacated (R362, R368). -/
def State.beginSlice (s : State) (k : Nat) : State :=
  let p := s.pool k
  if !p.en || (s.poolCores k).isEmpty || !(p.cur = 0 || p.endTime.isSome) || !(s.poolTeams k).isEmpty || (s.fn p.cur).reset.isSome then s
  else
    let s := match p.endTime with
      | some t => s.updFn p.cur fun f => { f with debt := if f.iface = Iface.error then 0 else max f.debt (s.sliceDebt p t) }
      | none => s
    let s := s.updPool k Pool.adopt
    match s.nextMember (s.pool k) turnFuel (s.pool k).turns with
    | (some (m, len), s) => s.startSlice k m len
    | (none, s) => if p.cur = 0 then s else s.startSlice k 0 0

/-! ## Teams of commands (R289, R297) -/

/-- A microkernel team is placed on its ledge core, where it runs in tenant mode whoever pushed it (R22, log 89). -/
def State.placeLkrun (s : State) (c : Cmd) : State :=
  let m := c.img
  let need : Need := { groups := lkGpt m, blocks := lkGpt m * lkRblk m, lines := lkSpl m }
  if c.st ≠ .sent ∨ !s.roomOn c.pos need then s
  else
    let (t, s) := s.newId
    let args := BitVec.ofNat 64 (cmdAddr m 3)
    (s.placeTeam t c.pos 0 (if c.root = 0 then 0 else c.wfrag.toNat)
      { fn := c.fn, harbour := false, origin := .lkrun c.id, root := c.root, nteams := 1, gpt := lkGpt m, rblk := lkRblk m, spl := lkSpl m,
        scls := c.scls, dloff := c.dloff, entry := BitVec.ofNat 48 (cmdAddr m 2), args := args, share := c.wfrag,
        tag := if cmdCpl m = 2 then cmdTag m else 0, init := [args, 0, 0, 0, BitVec.ofNat 64 (lkGpt m), 1] }).updCmd c.id fun c =>
      { c with st := .spawned, quiet := true }

/-- Compute cores on which a message may be placed: of the destination function, of the named die or of any. -/
def State.amsgCores (s : State) (c : Cmd) : List Nat :=
  (s.coresOf c.fn false).filter fun k => bit (cdw c.img 2) 60 || dieOf k = bf (cdw c.img 2) 59 58

/-- The one-group team of an active message is placed. -/
def State.placeAmsg (s : State) (c : Cmd) : State :=
  let m := c.img
  let rblk := bf (cdw m 2) 63 61 + 1
  if c.st ≠ .sent then s
  else match s.pickCore (s.amsgCores c) c.id { groups := 1, blocks := rblk, lines := 0 } with
    | none => s
    | some core =>
      let (t, s) := s.newId
      (s.placeTeam t core 0 (if c.root = 0 then 0 else c.wfrag.toNat)
        { fn := c.fn, harbour := false, origin := .amsg c.id, root := c.root, nteams := 1, gpt := 1, rblk := rblk, spl := 0,
          prio := s.effPrio c.fn false (cmdPrio m), scls := c.scls, dloff := c.dloff, entry := BitVec.ofNat 48 (cmdAddr m 2), share := c.wfrag,
          tag := if cmdCpl m = 2 then cmdTag m else 0,
          init := ((List.range 5).map fun k => BitVec.ofNat 64 (cdw m (3 + k))) ++ [0] }).updCmd c.id fun c => { c with st := .spawned, quiet := true }

/-- PREEND (R258). The lanes have ended their cooperative save; spent ones return to where they stood. -/
def execPreend (sm : Bool) : State → Host.Outcome State Fault Refusal :=
  issue (opOf (.preend sm)) (fun i s => .went ((s.updGrp i.t i.g fun g => g.preend i.lanes).tryArrive i.t i.g))

/-- ENGINE_BATCH_PUSH (R45). The next command of a running batch is pushed, fails, or waits. -/
def execEngineBatchPush (grid : Nat) : State → Host.Outcome State Fault Refusal :=
  fun s => .next (
    let g := s.grid grid
    if g.id = grid ∧ recKind g.img = 2 ∧ g.st = .running ∧ g.next < g.nteams ∧ !g.stuck then
      match s.batchCore g with
      | some c => s.pushBatch g c
      | none => s
    else s)

/-- TEAM_DISPATCH (R46). The item that comes next is placed, when it is the one named: a grid’s next team, or a team that returns. -/
def execTeamDispatch (grid : Nat) : State → Host.Outcome State Fault Refusal :=
  fun s => .next (match s.nextItem with
    | some (.grid id, core) => if id = grid then s.dispatchGrid id core else s
    | some (.team id, core) => if id = grid then s.dispatchTeam id core else s
    | none => s)

/-- DISPATCH_RESERVE (R47). An item that has waited 100 µs reserves the core that has room for it. -/
def execDispatchReserve (grid : Nat) : State → Host.Outcome State Fault Refusal :=
  fun s => .next (match s.sched.queue.find? fun e => (s.readyItem e.2).1 = grid with
    | none => s
    | some e =>
      match s.blockedSince e.2, s.coreFor e.2 with
      | some t, some c => if s.since t < 100000 ∨ s.sched.reserved.any (fun r => r.2 = grid) then s
          else { s with sched := { s.sched with reserved := s.sched.reserved ++ [(c, grid)] } }
      | _, _ => s)

/-- GROUP_PARK (R51). A group that has waited 32 cycles leaves the active set while another of its core is READY. -/
def execGroupPark (team grp : Nat) : State → Host.Outcome State Fault Refusal :=
  fun s => .next (if s.parksNow team grp then s.updGrp team grp fun g => g.leave .parked s.clk.cycle else s)

/-- GROUP_UNPARK (R51). A parked group that can go on becomes READY. -/
def execGroupUnpark (team grp : Nat) : State → Host.Outcome State Fault Refusal :=
  fun s => .next (if s.unparksNow team grp then s.updGrp team grp fun g => g.enter .ready s.clk.cycle else s)

/-- GROUP_PROMOTE (R52). The group that has been READY longest, for 1,024 cycles or more, enters the active set. -/
def execGroupPromote (team grp : Nat) : State → Host.Outcome State Fault Refusal :=
  fun s => .next (match oldest (s.overdue (s.team team).core) with
    | some (t, g, _, _) => if t = team ∧ g = grp then s.promote t g else s
    | none => s)

/-- STREAM_LOAD (R54). The address engine loads the next element of an inbound stream, or stores the oldest of an outbound one. -/
def execStreamLoad (team grp lane port : Nat) : State → Host.Outcome State Fault Refusal :=
  fun s => .next (
    let tm := s.team team
    let st : Stream := SMap.get {} tm.streams port
    if !s.hasGrp team grp || decide (32 ≤ lane ∨ 4 ≤ port) || !st.en then s
    else if st.out then (if tm.st = .resident ∨ tm.kill.isSome then s.streamOut team grp lane port st else s)
    else if tm.runs ∧ (tm.grp grp).st = .active ∧ ((tm.grp grp).th lane).run ≠ .exited then s.streamIn team grp lane port st
    else s)

/-- BARRIER_CONTINUATION (R56). A group whose barrier is complete becomes READY at the clause behind BARV, unless it is halted. -/
def execBarrierContinuation (team grp : Nat) : State → Host.Outcome State Fault Refusal :=
  fun s => .next (
    let g := s.grp team grp
    if s.hasGrp team grp ∧ (s.team team).st = .resident ∧ (g.st = .barrier ∨ g.st = .ready ∨ g.st = .parked) ∧ g.cont ∧ !g.halt then s.updGrp team grp fun g => g.proceed s.clk.cycle else s)

/-- DEMAND_FAULT_SAVE (R60). The team that met an absent page is saved to a frame, or stays on its core where there is none. -/
def execDemandFaultSave (team : Nat) : State → Host.Outcome State Fault Refusal :=
  fun s => .next (s.faultSave team)

/-- TEAM_END (R63). A team whose threads have all exited releases what it holds, drains, returns its weight and goes. -/
def execTeamEnd (team : Nat) : State → Host.Outcome State Fault Refusal :=
  fun s => .next (s.endTeam team)

/-- GRID_RETIRE (R58). A record whose teams and children have all ended retires. STATE is written first, then the steps of retirement
follow in their order: DESIGN CHOICE, the manual does not place the write of STATE among them (log 196). -/
def execGridRetire (grid : Nat) : State → Host.Outcome State Fault Refusal :=
  fun s => .next (
    let g := s.grid grid
    if g.id = grid ∧ s.sched.grids.any (fun h => h.id = grid) ∧ s.retires g then
      let parent := s.recParent g
      let s := s.setRecState g (if g.failed then 5 else 4)
      { s with sched := { s.sched with grids := s.sched.grids.filter fun h => h.id != grid } }.launch g.fn g.harbour (g.retireDeeds parent)
    else s)

/-- LOGICAL_TIME_TICK (R75). A core’s logical time advances by one for every SY.TSTICK cycles. -/
def execLogicalTimeTick (core : Nat) : State → Host.Outcome State Fault Refusal :=
  fun s => .next (
    let last := SMap.get 0 s.cache.ltick core
    if coreExists core ∧ last + s.cache.tstick.toNat ≤ s.clk.cycle then
      { s with cache := { s.cache with ltime := SMap.set 0 s.cache.ltime core (SMap.get 0 s.cache.ltime core + 1)
                                       ltick := SMap.set 0 s.cache.ltick core (last + s.cache.tstick.toNat) } }
    else s)

/-- A result as it arrives: a load of another package's memory that was left for its return is performed now (R82). -/
def State.arrived (s : State) (p : Pend) : Pend :=
  match p.src with
  | some (k, n, sg) => { p with val := BitVec.ofInt 64 (val sg (8 * n) (s.rd k n)), poison := p.poison || s.isPoison k n }
  | none => p

/-- LOAD_RETURN (R210). A loaded value is written to its register, or its poison is kept for the next stop point. Over a host link that is
down nothing returns: HOST_LINK_DOWN ends the load (R448). -/
def execLoadReturn (team grp op : Nat) : State → Host.Outcome State Fault Refusal :=
  fun s => .next (match (s.grp team grp).out.find? fun p => p.id = op && p.kind != .sf && p.ready with
    | some p => if s.hasGrp team grp && !(s.ext.hostDown && p.remote = 2 && !p.poison) then s.updGrp team grp fun g => g.land (s.arrived p) else s
    | none => s)

/-- POISON_CONSUMED (R431). A lane at its stop point takes the poison as cause 0x08. -/
def execPoisonConsumed (team grp lane : Nat) : State → Host.Outcome State Fault Refusal :=
  fun s => .next (
    let g := s.grp team grp
    if !s.hasGrp team grp || decide (32 ≤ lane) || (g.th lane).run = .exited || !s.poisonDue team grp lane || !(s.team team).runs || g.unready (laneBit lane) || s.errHeld (s.team team).fn then s
    else match (g.th lane).poison, (g.th lane).stopPt with
      | some a, some p => s.takePoison team grp lane a p
      | _, _ => s)

/-- STORE_ACK (R82). A store is performed at its home; once it is, and its parity with it, it is acknowledged. Over a host link that is down
nothing goes: HOST_LINK_DOWN ends the store (R448). -/
def execStoreAck (op : Nat) : State → Host.Outcome State Fault Refusal :=
  fun s => .next (match s.stores.find? fun f => f.id = op with
    | none => s
    | some f =>
      if s.ext.hostDown && f.remote && decide (f.key < 2 ^ 61) then s
      else if f.performed then (if f.deltas.isEmpty then s.ackStore f else s)
      else if s.behind f then s
      else match f.drain with
        | none => s.performStore f
        | some u => if u.bad ∧ s.errHeld (s.team f.team).fn then s else s.performUnit f u)

/-- PARITY_DELTA_APPLY (R324). A parity delta is applied at its parity stack; the parity line may then be written back, with class 3 and the
stamp of its entry into the channel's queue (R318, R325). -/
def execParityDeltaApply (op : Nat) : State → Host.Outcome State Fault Refusal :=
  fun s => .next (match s.ras.deltas.find? fun d => d.id = op with
    | none => s
    | some d => (s.dropDelta op).askChan 0 3 (s.stampNow 0) (d.row * 1024) 2000)

/-- SFU_RESULT (R206). A result of the special-function unit is written to its register. -/
def execSfuResult (team grp op : Nat) : State → Host.Outcome State Fault Refusal :=
  fun s => .next (match (s.grp team grp).out.find? fun p => p.id = op && p.kind = .sf && p.ready with
    | some p => if s.hasGrp team grp then s.updGrp team grp fun g => g.land p else s
    | none => s)

/-- REGION_FILL_ARRIVAL (R72). The data of a fill’s next line arrive. -/
def execRegionFillArrival (team k : Nat) : State → Host.Outcome State Fault Refusal :=
  fun s => .next (if s.hasTeam team ∧ (s.team team).st = .resident ∧ (s.team team).kill.isNone then s.fillLine team k else s)

/-- TEAM_KILL (R419). A kill begins with a contained error in the team’s own state, or goes on. -/
def execTeamKill (team cause : Nat) : State → Host.Outcome State Fault Refusal :=
  fun s => .next (s.killTeam team cause)

/-- TX_SLEEP_TIMEOUT (R91). A group asleep for 100 µs wakes and runs its transaction again. -/
def execTxSleepTimeout (team grp : Nat) : State → Host.Outcome State Fault Refusal :=
  fun s => .next (
    let g := s.grp team grp
    if s.hasGrp team grp ∧ g.st = .sleep ∧ 100000 ≤ s.since g.sleepTime then
      { s.updGrp team grp fun g => g.wake s.clk.cycle with
        cache := { s.cache with wake := s.cache.wake.filter fun e => e.2 != (team, grp) } }
    else s)

/-- TIMER_FIRE (R260). An entry whose time has come decrements its record. -/
def execTimerFire (fn idx : Nat) : State → Host.Outcome State Fault Refusal :=
  fun s => .next (match (s.fn fn).timers[idx]? with
    | some e => if !e.stuck ∧ e.at_ ≤ s.clk.time then s.fireTimer fn idx e else s
    | none => s)

/-- SLICE_END (R363). A pool’s slice ends: renewed, or its function’s teams are discarded, saved or sent to their save handler. -/
def execSliceEnd (pool : Nat) : State → Host.Outcome State Fault Refusal :=
  fun s => .next (s.endSlice pool)

/-- SAVE_BUDGET_EXPIRY (R365). A cooperative save that is over its budget, or has failed, is forced. -/
def execSaveBudgetExpiry (team : Nat) : State → Host.Outcome State Fault Refusal :=
  fun s => .next (s.forcedSave team)

/-- SLICE_START (R362). The next member of a vacated pool starts its slice, or the pool idles. -/
def execSliceStart (pool : Nat) : State → Host.Outcome State Fault Refusal :=
  fun s => .next (s.beginSlice pool)

/-- AMSG_RECEIVE (R289). An active message becomes a one-group team once a core has room. -/
def execAmsgReceive : State → Host.Outcome State Fault Refusal :=
  fun s => .next (match s.eng.cmds.find? fun c => c.id = s.item with
    | some c => if c.qn = 3 then s.placeAmsg c else s
    | none => s)

/-- LKRUN_PLACE (R297). A microkernel becomes a team once its ledge core has room. -/
def execLkrunPlace : State → Host.Outcome State Fault Refusal :=
  fun s => .next (match s.eng.cmds.find? fun c => c.id = s.item with
    | some c => if c.qn = 4 ∧ cmdCode c.img = 0x4C then s.placeLkrun c else s
    | none => s)

end Sys2Proof.Machine
end

