-- ==== Sys2Proof/Machine/UniformOps.lean ====
section
/-! DEFINITION. Uniform instructions (R171–R177): each executes once per issue, on the uniform registers of the issuing group. -/

namespace Sys2Proof.Machine

open Sys2Proof

/-- UADD (R172). a + b, under SAT clamped. -/
def execUadd (sm : Bool) (d a b : BitVec 5) (t g : Bool) : State → Host.Outcome State Fault Refusal :=
  toW (opOf (.uadd sm d a b t g)) d.toNat fun i =>
    BitVec.ofNat 64 ((fun x y => fit 64 t g (x + y)) (val g 64 (i.v 0 i.low).toNat) (val g 64 (i.v 1 i.low).toNat))

/-- USUB (R172). a − b, under SAT clamped. -/
def execUsub (sm : Bool) (d a b : BitVec 5) (t g : Bool) : State → Host.Outcome State Fault Refusal :=
  toW (opOf (.usub sm d a b t g)) d.toNat fun i =>
    BitVec.ofNat 64 ((fun x y => fit 64 t g (x - y)) (val g 64 (i.v 0 i.low).toNat) (val g 64 (i.v 1 i.low).toNat))

/-- UMUL (R172). a × b, under SAT clamped. -/
def execUmul (sm : Bool) (d a b : BitVec 5) (t g : Bool) : State → Host.Outcome State Fault Refusal :=
  toW (opOf (.umul sm d a b t g)) d.toNat fun i =>
    BitVec.ofNat 64 ((fun x y => fit 64 t g (x * y)) (val g 64 (i.v 0 i.low).toNat) (val g 64 (i.v 1 i.low).toNat))

/-- UAND (R172). a AND b. -/
def execUand (sm : Bool) (d a b : BitVec 5) : State → Host.Outcome State Fault Refusal :=
  toW (opOf (.uand sm d a b)) d.toNat fun i => i.v 0 i.low &&& i.v 1 i.low

/-- UOR (R172). a OR b. -/
def execUor (sm : Bool) (d a b : BitVec 5) : State → Host.Outcome State Fault Refusal :=
  toW (opOf (.uor sm d a b)) d.toNat fun i => i.v 0 i.low ||| i.v 1 i.low

/-- UXOR (R172). a XOR b. -/
def execUxor (sm : Bool) (d a b : BitVec 5) : State → Host.Outcome State Fault Refusal :=
  toW (opOf (.uxor sm d a b)) d.toNat fun i => i.v 0 i.low ^^^ i.v 1 i.low

/-- USHF (R172). a shifted or rotated by b. -/
def execUshf (sm : Bool) (d a b : BitVec 5) (k : BitVec 2) : State → Host.Outcome State Fault Refusal :=
  toW (opOf (.ushf sm d a b k)) d.toNat fun i => BitVec.ofNat 64 (shiftKind k (i.v 0 i.low).toNat (i.v 1 i.low).toNat)

/-- UCMP (R173). The outcome of one comparison goes to the predicate of every lane of the issue. -/
def execUcmp (sm : Bool) (p : BitVec 3) (a b : BitVec 5) (c : BitVec 2) (g : Bool) : State → Host.Outcome State Fault Refusal :=
  toP (opOf (.ucmp sm p a b c g)) p.toNat fun i _ => cond c (val g 64 (i.v 0 i.low).toNat) (val g 64 (i.v 1 i.low).toNat)

/-- UMOVI (R174). With h = 0 the zero-extended immediate, else one halfword replaced. -/
def execUmovi (sm : Bool) (d : BitVec 5) (h : BitVec 2) (i : BitVec 16) : State → Host.Outcome State Fault Refusal :=
  toW (opOf (.umovi sm d h i)) d.toNat fun ii => if h = 0 then i.setWidth 64 else putHalf (ii.v 0 ii.low) h i

/-- UADDI (R174). a plus the sign-extended immediate. -/
def execUaddi (sm : Bool) (d a : BitVec 5) (i : BitVec 12) : State → Host.Outcome State Fault Refusal :=
  toW (opOf (.uaddi sm d a i)) d.toNat fun ii => ii.v 0 ii.low + i.signExtend 64

/-- ULEA (R172). a + b × 2^s. -/
def execUlea (sm : Bool) (d a b : BitVec 5) (k : BitVec 3) : State → Host.Outcome State Fault Refusal :=
  toW (opOf (.ulea sm d a b k)) d.toNat fun i => i.v 0 i.low + i.v 1 i.low <<< k.toNat

/-- RFAL (R175). The thread register of the lowest lane of the issue. -/
def execRfal (sm : Bool) (d : BitVec 5) (a : BitVec 6) : State → Host.Outcome State Fault Refusal :=
  toW (opOf (.rfal sm d a)) d.toNat fun i => i.v 0 i.low

/-- XTOW (R176). One element of a register of a chosen lane, extended with zeros or with its sign. -/
def execXtow (sm : Bool) (d : BitVec 5) (a : BitVec 6) (l : BitVec 5) (sb : BitVec 3) (w : BitVec 2) (m : Bool) : State → Host.Outcome State Fault Refusal :=
  toW (opOf (.xtow sm d a l sb w m)) d.toNat fun i =>
    let x := el (i.far l.toNat) (ewOf w) sb.toNat
    BitVec.ofInt 64 (val m (ewOf w) x)

/-- WTOX (R177). The uniform register goes to every lane of the issue. -/
def execWtox (sm : Bool) (d : BitVec 6) (a : BitVec 5) : State → Host.Outcome State Fault Refusal :=
  toX (opOf (.wtox sm d a)) d.toNat fun i l => i.v 0 l

/-- UMIN (R172). The smaller of a and b. -/
def execUmin (sm : Bool) (d a b : BitVec 5) (g : Bool) : State → Host.Outcome State Fault Refusal :=
  toW (opOf (.umin sm d a b g)) d.toNat fun i =>
    BitVec.ofNat 64 ((fun x y => wrap 64 (min x y)) (val g 64 (i.v 0 i.low).toNat) (val g 64 (i.v 1 i.low).toNat))

/-- UMAX (R172). The larger of a and b. -/
def execUmax (sm : Bool) (d a b : BitVec 5) (g : Bool) : State → Host.Outcome State Fault Refusal :=
  toW (opOf (.umax sm d a b g)) d.toNat fun i =>
    BitVec.ofNat 64 ((fun x y => wrap 64 (max x y)) (val g 64 (i.v 0 i.low).toNat) (val g 64 (i.v 1 i.low).toNat))

end Sys2Proof.Machine
end

