-- ==== Sys2Proof/Machine/Dispatch.lean ====
section
/-! DEFINITION. One arm per instruction: a direct call of its meaning. -/

namespace Sys2Proof.Machine

open Sys2Proof

def exec (i : Instr) (s : State) : Host.Outcome State Fault Refusal :=
  match i with
  | .clauseHeader l y q o t e r m f sm d c n => Sys2Proof.Machine.execClauseHeader l y q o t e r m f sm d c n s
  | .add sm d a b u w t g => Sys2Proof.Machine.execAdd sm d a b u w t g s
  | .sub sm d a b u w t g => Sys2Proof.Machine.execSub sm d a b u w t g s
  | .mull sm d a b u w t g => Sys2Proof.Machine.execMull sm d a b u w t g s
  | .mulh sm d a b u w g => Sys2Proof.Machine.execMulh sm d a b u w g s
  | .imad sm d a b u w t g => Sys2Proof.Machine.execImad sm d a b u w t g s
  | .and sm d a b u => Sys2Proof.Machine.execAnd sm d a b u s
  | .or sm d a b u => Sys2Proof.Machine.execOr sm d a b u s
  | .xor sm d a b u => Sys2Proof.Machine.execXor sm d a b u s
  | .andn sm d a b u => Sys2Proof.Machine.execAndn sm d a b u s
  | .shl sm d a b u w => Sys2Proof.Machine.execShl sm d a b u w s
  | .shr sm d a b u w g => Sys2Proof.Machine.execShr sm d a b u w g s
  | .rot sm d a b u w => Sys2Proof.Machine.execRot sm d a b u w s
  | .min sm d a b u w g => Sys2Proof.Machine.execMin sm d a b u w g s
  | .max sm d a b u w g => Sys2Proof.Machine.execMax sm d a b u w g s
  | .absd sm d a b u w g => Sys2Proof.Machine.execAbsd sm d a b u w g s
  | .cmp sm p a b u w c g => Sys2Proof.Machine.execCmp sm p a b u w c g s
  | .sel sm d a b u k => Sys2Proof.Machine.execSel sm d a b u k s
  | .popc sm d a w => Sys2Proof.Machine.execPopc sm d a w s
  | .clz sm d a w => Sys2Proof.Machine.execClz sm d a w s
  | .bfx sm d a b u g => Sys2Proof.Machine.execBfx sm d a b u g s
  | .bfi sm d a b u => Sys2Proof.Machine.execBfi sm d a b u s
  | .dot4 sm d a b u m t g => Sys2Proof.Machine.execDot4 sm d a b u m t g s
  | .mulw sm d a b u w h g => Sys2Proof.Machine.execMulw sm d a b u w h g s
  | .addi sm d a im => Sys2Proof.Machine.execAddi sm d a im s
  | .andi sm d a im => Sys2Proof.Machine.execAndi sm d a im s
  | .ori sm d a im => Sys2Proof.Machine.execOri sm d a im s
  | .xori sm d a im => Sys2Proof.Machine.execXori sm d a im s
  | .shfi sm d a k n => Sys2Proof.Machine.execShfi sm d a k n s
  | .movi sm d im => Sys2Proof.Machine.execMovi sm d im s
  | .movh sm d h im => Sys2Proof.Machine.execMovh sm d h im s
  | .lea sm d a b u k => Sys2Proof.Machine.execLea sm d a b u k s
  | .fadd sm d a b u w f r => Sys2Proof.Machine.execFadd sm d a b u w f r s
  | .fsub sm d a b u w f r => Sys2Proof.Machine.execFsub sm d a b u w f r s
  | .fmul sm d a b u w f r => Sys2Proof.Machine.execFmul sm d a b u w f r s
  | .ffma sm d a b u w f r => Sys2Proof.Machine.execFfma sm d a b u w f r s
  | .fmin sm d a b u w f => Sys2Proof.Machine.execFmin sm d a b u w f s
  | .fmax sm d a b u w f => Sys2Proof.Machine.execFmax sm d a b u w f s
  | .fcmp sm p a b u w f c => Sys2Proof.Machine.execFcmp sm p a b u w f c s
  | .fsgn sm d a b u w f c => Sys2Proof.Machine.execFsgn sm d a b u w f c s
  | .fcvt sm d a c k x w f r => Sys2Proof.Machine.execFcvt sm d a c k x w f r s
  | .fqst sm t a im x r k w z => Sys2Proof.Machine.execFqst sm t a im x r k w z s
  | .fcls sm d a w f => Sys2Proof.Machine.execFcls sm d a w f s
  | .fscl sm d a b u w f r => Sys2Proof.Machine.execFscl sm d a b u w f r s
  | .fdot2 sm d a b u w f r => Sys2Proof.Machine.execFdot2 sm d a b u w f r s
  | .frnd sm d a w f r => Sys2Proof.Machine.execFrnd sm d a w f r s
  | .rcp sm d a w f g => Sys2Proof.Machine.execRcp sm d a w f g s
  | .rsq sm d a w f g => Sys2Proof.Machine.execRsq sm d a w f g s
  | .sqrt sm d a w f g => Sys2Proof.Machine.execSqrt sm d a w f g s
  | .exp2 sm d a w f g => Sys2Proof.Machine.execExp2 sm d a w f g s
  | .log2 sm d a w f g => Sys2Proof.Machine.execLog2 sm d a w f g s
  | .sin sm d a w f g => Sys2Proof.Machine.execSin sm d a w f g s
  | .cos sm d a w f g => Sys2Proof.Machine.execCos sm d a w f g s
  | .tanh sm d a w f g => Sys2Proof.Machine.execTanh sm d a w f g s
  | .sigm sm d a w f g => Sys2Proof.Machine.execSigm sm d a w f g s
  | .erf sm d a w f g => Sys2Proof.Machine.execErf sm d a w f g s
  | .gelu sm d a w f g => Sys2Proof.Machine.execGelu sm d a w f g s
  | .silu sm d a w f g => Sys2Proof.Machine.execSilu sm d a w f g s
  | .fdiv sm d a b u w f g => Sys2Proof.Machine.execFdiv sm d a b u w f g s
  | .uadd sm d a b t g => Sys2Proof.Machine.execUadd sm d a b t g s
  | .usub sm d a b t g => Sys2Proof.Machine.execUsub sm d a b t g s
  | .umul sm d a b t g => Sys2Proof.Machine.execUmul sm d a b t g s
  | .uand sm d a b => Sys2Proof.Machine.execUand sm d a b s
  | .uor sm d a b => Sys2Proof.Machine.execUor sm d a b s
  | .uxor sm d a b => Sys2Proof.Machine.execUxor sm d a b s
  | .ushf sm d a b k => Sys2Proof.Machine.execUshf sm d a b k s
  | .ucmp sm p a b c g => Sys2Proof.Machine.execUcmp sm p a b c g s
  | .umovi sm d h im => Sys2Proof.Machine.execUmovi sm d h im s
  | .uaddi sm d a im => Sys2Proof.Machine.execUaddi sm d a im s
  | .ulea sm d a b k => Sys2Proof.Machine.execUlea sm d a b k s
  | .rfal sm d a => Sys2Proof.Machine.execRfal sm d a s
  | .xtow sm d a l sb w m => Sys2Proof.Machine.execXtow sm d a l sb w m s
  | .wtox sm d a => Sys2Proof.Machine.execWtox sm d a s
  | .umin sm d a b g => Sys2Proof.Machine.execUmin sm d a b g s
  | .umax sm d a b g => Sys2Proof.Machine.execUmax sm d a b g s
  | .lget sm d a l sb w m => Sys2Proof.Machine.execLget sm d a l sb w m s
  | .lshf sm d a k m => Sys2Proof.Machine.execLshf sm d a k m s
  | .lred sm d a g w m => Sys2Proof.Machine.execLred sm d a g w m s
  | .lscan sm d a e g w m => Sys2Proof.Machine.execLscan sm d a e g w m s
  | .vote sm p a sb w m => Sys2Proof.Machine.execVote sm p a sb w m s
  | .sprm sm d a sb w m => Sys2Proof.Machine.execSprm sm d a sb w m s
  | .pack sm d a h w m => Sys2Proof.Machine.execPack sm d a h w m s
  | .unpk sm d a h w m => Sys2Proof.Machine.execUnpk sm d a h w m s
  | .ld sm t a o z => Sys2Proof.Machine.execLd sm t a o z s
  | .st sm t a o z => Sys2Proof.Machine.execSt sm t a o z s
  | .lds sm t a o z => Sys2Proof.Machine.execLds sm t a o z s
  | .sts sm t a o z => Sys2Proof.Machine.execSts sm t a o z s
  | .ldu sm t a o z => Sys2Proof.Machine.execLdu sm t a o z s
  | .stu sm t a o z => Sys2Proof.Machine.execStu sm t a o z s
  | .amo sm d a b o w p => Sys2Proof.Machine.execAmo sm d a b o w p s
  | .cas sm d a b o w => Sys2Proof.Machine.execCas sm d a b o w s
  | .red sm a b o w p => Sys2Proof.Machine.execRed sm a b o w p s
  | .fenceRel sm c => Sys2Proof.Machine.execFenceRel sm c s
  | .fenceAcq sm c => Sys2Proof.Machine.execFenceAcq sm c s
  | .fenceAr sm c => Sys2Proof.Machine.execFenceAr sm c s
  | .pref sm l a o => Sys2Proof.Machine.execPref sm l a o s
  | .wback sm n a o => Sys2Proof.Machine.execWback sm n a o s
  | .inval sm n a o => Sys2Proof.Machine.execInval sm n a o s
  | .publ sm a => Sys2Proof.Machine.execPubl sm a s
  | .samo sm d a b w p => Sys2Proof.Machine.execSamo sm d a b w p s
  | .samoCas sm d a b w => Sys2Proof.Machine.execSamoCas sm d a b w s
  | .br sm p n o => Sys2Proof.Machine.execBr sm p n o s
  | .jmpr sm a => Sys2Proof.Machine.execJmpr sm a s
  | .jmprLink sm d a => Sys2Proof.Machine.execJmprLink sm d a s
  | .call sm o => Sys2Proof.Machine.execCall sm o s
  | .ret sm a => Sys2Proof.Machine.execRet sm a s
  | .enrol sm k => Sys2Proof.Machine.execEnrol sm k s
  | .rejoin sm k => Sys2Proof.Machine.execRejoin sm k s
  | .strike sm k => Sys2Proof.Machine.execStrike sm k s
  | .exit sm => Sys2Proof.Machine.execExit sm s
  | .txbeg sm d => Sys2Proof.Machine.execTxbeg sm d s
  | .txend sm => Sys2Proof.Machine.execTxend sm s
  | .retry sm => Sys2Proof.Machine.execRetry sm s
  | .txelse sm o => Sys2Proof.Machine.execTxelse sm o s
  | .txabt sm c => Sys2Proof.Machine.execTxabt sm c s
  | .tdec sm a => Sys2Proof.Machine.execTdec sm a s
  | .tspawn sm d a => Sys2Proof.Machine.execTspawn sm d a s
  | .barv sm a => Sys2Proof.Machine.execBarv sm a s
  | .mma sm d a b => Sys2Proof.Machine.execMma sm d a b s
  | .mmaAcc sm d a b => Sys2Proof.Machine.execMmaAcc sm d a b s
  | .obRes sm d a b => Sys2Proof.Machine.execObRes sm d a b s
  | .obRel sm a => Sys2Proof.Machine.execObRel sm a s
  | .obSets sm a b => Sys2Proof.Machine.execObSets sm a b s
  | .obSetz sm a b => Sys2Proof.Machine.execObSetz sm a b s
  | .accAcq sm a => Sys2Proof.Machine.execAccAcq sm a s
  | .accRel sm => Sys2Proof.Machine.execAccRel sm s
  | .accZero sm a => Sys2Proof.Machine.execAccZero sm a s
  | .accRd sm d a b => Sys2Proof.Machine.execAccRd sm d a b s
  | .tileFetch sm a b => Sys2Proof.Machine.execTileFetch sm a b s
  | .tileDrain sm d a b => Sys2Proof.Machine.execTileDrain sm d a b s
  | .tileDradd sm d a b => Sys2Proof.Machine.execTileDradd sm d a b s
  | .tileUnpin sm a => Sys2Proof.Machine.execTileUnpin sm a s
  | .push sm q a p r => Sys2Proof.Machine.execPush sm q a p r s
  | .pushx sm q a p r => Sys2Proof.Machine.execPushx sm q a p r s
  | .mfs sm d y => Sys2Proof.Machine.execMfs sm d y s
  | .mts sm d y => Sys2Proof.Machine.execMts sm d y s
  | .trap sm im => Sys2Proof.Machine.execTrap sm im s
  | .eret sm => Sys2Proof.Machine.execEret sm s
  | .eretNext sm => Sys2Proof.Machine.execEretNext sm s
  | .preend sm => Sys2Proof.Machine.execPreend sm s
  | .haltt sm => Sys2Proof.Machine.execHaltt sm s
  | .halttRel sm => Sys2Proof.Machine.execHalttRel sm s
  | .timer sm d k => Sys2Proof.Machine.execTimer sm d k s
  | .wsplit sm d a => Sys2Proof.Machine.execWsplit sm d a s
  | .wsplitLdr sm d a => Sys2Proof.Machine.execWsplitLdr sm d a s
  | .wret sm => Sys2Proof.Machine.execWret sm s
  | .wborrow sm d a => Sys2Proof.Machine.execWborrow sm d a s
  | .idend sm => Sys2Proof.Machine.execIdend sm s
  | .nop sm => Sys2Proof.Machine.execNop sm s
  | .yield sm => Sys2Proof.Machine.execYield sm s
  | .sperrClear team => Sys2Proof.Machine.execSperrClear team s
  | .fpmodeWrite team grp v => Sys2Proof.Machine.execFpmodeWrite team grp v s
  | .rgnctlWrite team k v => Sys2Proof.Machine.execRgnctlWrite team k v s
  | .hvfWrite core v => Sys2Proof.Machine.execHvfWrite core v s
  | .packageReset imageOk => Sys2Proof.Machine.execPackageReset imageOk s
  | .enqueueWrite fn len off pasidOk img => Sys2Proof.Machine.execEnqueueWrite fn len off pasidOk img s
  | .postedEnqueueWrite fn => Sys2Proof.Machine.execPostedEnqueueWrite fn s
  | .hostBarRequest fn bar off wr v => Sys2Proof.Machine.execHostBarRequest fn bar off wr v s
  | .engineBatchPush grid => Sys2Proof.Machine.execEngineBatchPush grid s
  | .teamDispatch grid => Sys2Proof.Machine.execTeamDispatch grid s
  | .dispatchReserve grid => Sys2Proof.Machine.execDispatchReserve grid s
  | .groupPark team grp => Sys2Proof.Machine.execGroupPark team grp s
  | .groupUnpark team grp => Sys2Proof.Machine.execGroupUnpark team grp s
  | .groupPromote team grp => Sys2Proof.Machine.execGroupPromote team grp s
  | .streamLoad team grp lane port => Sys2Proof.Machine.execStreamLoad team grp lane port s
  | .barrierContinuation team grp => Sys2Proof.Machine.execBarrierContinuation team grp s
  | .demandFaultSave team => Sys2Proof.Machine.execDemandFaultSave team s
  | .faultRingWrite fn => Sys2Proof.Machine.execFaultRingWrite fn s
  | .teamEnd team => Sys2Proof.Machine.execTeamEnd team s
  | .gridRetire grid => Sys2Proof.Machine.execGridRetire grid s
  | .logicalTimeTick core => Sys2Proof.Machine.execLogicalTimeTick core s
  | .loadReturn team grp op => Sys2Proof.Machine.execLoadReturn team grp op s
  | .poisonConsumed team grp lane => Sys2Proof.Machine.execPoisonConsumed team grp lane s
  | .storeAck op => Sys2Proof.Machine.execStoreAck op s
  | .sfuResult team grp op => Sys2Proof.Machine.execSfuResult team grp op s
  | .scratchpadArrival op => Sys2Proof.Machine.execScratchpadArrival op s
  | .regionFillArrival team k => Sys2Proof.Machine.execRegionFillArrival team k s
  | .teamKill team cause => Sys2Proof.Machine.execTeamKill team cause s
  | .txSleepTimeout team grp => Sys2Proof.Machine.execTxSleepTimeout team grp s
  | .accGrant pair => Sys2Proof.Machine.execAccGrant pair s
  | .tilePin pair rec => Sys2Proof.Machine.execTilePin pair rec s
  | .mmaRetire pair => Sys2Proof.Machine.execMmaRetire pair s
  | .drainDone pair => Sys2Proof.Machine.execDrainDone pair s
  | .timerFire fn idx => Sys2Proof.Machine.execTimerFire fn idx s
  | .sliceEnd pool => Sys2Proof.Machine.execSliceEnd pool s
  | .saveBudgetExpiry team => Sys2Proof.Machine.execSaveBudgetExpiry team s
  | .sliceStart pool => Sys2Proof.Machine.execSliceStart pool s
  | .slackWatchdog fn => Sys2Proof.Machine.execSlackWatchdog fn s
  | .ringRecordWrite fn ring => Sys2Proof.Machine.execRingRecordWrite fn ring s
  | .coalesceTimer fn ring => Sys2Proof.Machine.execCoalesceTimer fn ring s
  | .channelCommandIssue chan => Sys2Proof.Machine.execChannelCommandIssue chan s
  | .parityDeltaApply op => Sys2Proof.Machine.execParityDeltaApply op s
  | .reconstructingRead found => Sys2Proof.Machine.execReconstructingRead found s
  | .parityRowRebuild bank row => Sys2Proof.Machine.execParityRowRebuild bank row s
  | .patrolScrub bank row => Sys2Proof.Machine.execPatrolScrub bank row s
  | .stackLoss stack => Sys2Proof.Machine.execStackLoss stack s
  | .shelfModuleLoss modl => Sys2Proof.Machine.execShelfModuleLoss modl s
  | .pageWalk core fn va kind => Sys2Proof.Machine.execPageWalk core fn va kind s
  | .atsReply req reply ha => Sys2Proof.Machine.execAtsReply req reply ha s
  | .atsTimeout req => Sys2Proof.Machine.execAtsTimeout req s
  | .priResponse req code => Sys2Proof.Machine.execPriResponse req code s
  | .shootdownAck cmd unit => Sys2Proof.Machine.execShootdownAck cmd unit s
  | .shootdownTimeout cmd unit => Sys2Proof.Machine.execShootdownTimeout cmd unit s
  | .powerClockDown avg => Sys2Proof.Machine.execPowerClockDown avg s
  | .powerClockUp avg => Sys2Proof.Machine.execPowerClockUp avg s
  | .longshoreIngress link pkt => Sys2Proof.Machine.execLongshoreIngress link pkt s
  | .remoteAckTimeout op => Sys2Proof.Machine.execRemoteAckTimeout op s
  | .flitCheckFailure link => Sys2Proof.Machine.execFlitCheckFailure link s
  | .linkRetrainDone link ok => Sys2Proof.Machine.execLinkRetrainDone link ok s
  | .hostWriteError op => Sys2Proof.Machine.execHostWriteError op s
  | .ideIntegrityFailure stream => Sys2Proof.Machine.execIdeIntegrityFailure stream s
  | .allreduce cmd remote => Sys2Proof.Machine.execAllreduce cmd remote s
  | .reduce cmd remote => Sys2Proof.Machine.execReduce cmd remote s
  | .broadcast cmd remote => Sys2Proof.Machine.execBroadcast cmd remote s
  | .allgather cmd remote => Sys2Proof.Machine.execAllgather cmd remote s
  | .reducescatter cmd remote => Sys2Proof.Machine.execReducescatter cmd remote s
  | .getCapabilities wf => Sys2Proof.Machine.execGetCapabilities wf s
  | .negotiateAlgorithms wf => Sys2Proof.Machine.execNegotiateAlgorithms wf s
  | .getDigests wf => Sys2Proof.Machine.execGetDigests wf s
  | .getCertificate slot wf => Sys2Proof.Machine.execGetCertificate slot wf s
  | .challenge slot wf => Sys2Proof.Machine.execChallenge slot wf s
  | .getMeasurements op signed wf => Sys2Proof.Machine.execGetMeasurements op signed wf s
  | .keyExchange wf => Sys2Proof.Machine.execKeyExchange wf s
  | .finish sess wf => Sys2Proof.Machine.execFinish sess wf s
  | .endSession sess wf => Sys2Proof.Machine.execEndSession sess wf s
  | .securedMessageFailure sess => Sys2Proof.Machine.execSecuredMessageFailure sess s
  | .ideKm sess stream fn => Sys2Proof.Machine.execIdeKm sess stream fn s
  | .lockInterfaceRequest fn sess => Sys2Proof.Machine.execLockInterfaceRequest fn sess s
  | .startInterfaceRequest fn => Sys2Proof.Machine.execStartInterfaceRequest fn s
  | .stopInterfaceRequest fn => Sys2Proof.Machine.execStopInterfaceRequest fn s
  | .getDeviceInterfaceState fn => Sys2Proof.Machine.execGetDeviceInterfaceState fn s
  | .relockRequest fn => Sys2Proof.Machine.execRelockRequest fn s
  | .illegalInstruction word => Sys2Proof.Machine.execIllegalInstruction word s
  | .illegalClauseHeader word => Sys2Proof.Machine.execIllegalClauseHeader word s
  | .getDeviceInterfaceReport fn => Sys2Proof.Machine.execGetDeviceInterfaceReport fn s
  | .sluiceTokenRefill fn => Sys2Proof.Machine.execSluiceTokenRefill fn s
  | .dieJunctionLimit die temp => Sys2Proof.Machine.execDieJunctionLimit die temp s
  | .powerGating pair gate => Sys2Proof.Machine.execPowerGating pair gate s
  | .commandCompletion => Sys2Proof.Machine.execCommandCompletion s
  | .amsgReceive => Sys2Proof.Machine.execAmsgReceive s
  | .lkrunPlace => Sys2Proof.Machine.execLkrunPlace s
  | .hostLinkDown => Sys2Proof.Machine.execHostLinkDown s
  | .nonceExpiry => Sys2Proof.Machine.execNonceExpiry s
  | .copy => Sys2Proof.Machine.execCopy s
  | .fill => Sys2Proof.Machine.execFill s
  | .chain => Sys2Proof.Machine.execChain s
  | .amsg => Sys2Proof.Machine.execAmsg s
  | .evt => Sys2Proof.Machine.execEvt s
  | .rowcopy => Sys2Proof.Machine.execRowcopy s
  | .rowop => Sys2Proof.Machine.execRowop s
  | .rowzero => Sys2Proof.Machine.execRowzero s
  | .scrub => Sys2Proof.Machine.execScrub s
  | .alloc => Sys2Proof.Machine.execAlloc s
  | .free => Sys2Proof.Machine.execFree s
  | .lkrun => Sys2Proof.Machine.execLkrun s
  | .walk => Sys2Proof.Machine.execWalk s
  | .shelfRead => Sys2Proof.Machine.execShelfRead s
  | .shelfAppend => Sys2Proof.Machine.execShelfAppend s
  | .vfcreate => Sys2Proof.Machine.execVfcreate s
  | .vfreset => Sys2Proof.Machine.execVfreset s
  | .pairs => Sys2Proof.Machine.execPairs s
  | .slicemap => Sys2Proof.Machine.execSlicemap s
  | .artw => Sys2Proof.Machine.execArtw s
  | .stitch => Sys2Proof.Machine.execStitch s
  | .sluice => Sys2Proof.Machine.execSluice s
  | .pool => Sys2Proof.Machine.execPool s
  | .roots => Sys2Proof.Machine.execRoots s
  | .shoot => Sys2Proof.Machine.execShoot s
  | .replay => Sys2Proof.Machine.execReplay s
  | .nbpool => Sys2Proof.Machine.execNbpool s
  | .shelflogSetLog => Sys2Proof.Machine.execShelflogSetLog s
  | .shelflogSetQuota => Sys2Proof.Machine.execShelflogSetQuota s
  | .shelflogTrim => Sys2Proof.Machine.execShelflogTrim s
  | .faq => Sys2Proof.Machine.execFaq s
  | .query => Sys2Proof.Machine.execQuery s
  | .claim => Sys2Proof.Machine.execClaim s
  | .claimCancel => Sys2Proof.Machine.execClaimCancel s
  | .sramsplit => Sys2Proof.Machine.execSramsplit s
  | .limits => Sys2Proof.Machine.execLimits s
  | .readPoolRecord => Sys2Proof.Machine.execReadPoolRecord s
  | .readEntryImage => Sys2Proof.Machine.execReadEntryImage s
  | .ringload => Sys2Proof.Machine.execRingload s
  | .pfconf => Sys2Proof.Machine.execPfconf s
  | .fring => Sys2Proof.Machine.execFring s
  | .lhfuse => Sys2Proof.Machine.execLhfuse s
  | .lhnonce => Sys2Proof.Machine.execLhnonce s
  | .lhunlock => Sys2Proof.Machine.execLhunlock s
  | .lhmeas => Sys2Proof.Machine.execLhmeas s
  | .lhbadRead => Sys2Proof.Machine.execLhbadRead s
  | .lhbadAdd => Sys2Proof.Machine.execLhbadAdd s
  | .lhbadRemove => Sys2Proof.Machine.execLhbadRemove s
  | .mbegin => Sys2Proof.Machine.execMbegin s
  | .mcopy => Sys2Proof.Machine.execMcopy s
  | .mdirty => Sys2Proof.Machine.execMdirty s
  | .mswitch => Sys2Proof.Machine.execMswitch s
  | .mrelease => Sys2Proof.Machine.execMrelease s
  | .mabort => Sys2Proof.Machine.execMabort s
  | .getVersion => Sys2Proof.Machine.execGetVersion s
  | .manufacturingFlow => Sys2Proof.Machine.execManufacturingFlow s

end Sys2Proof.Machine
end

