-- ==== Sys2Proof/Machine/Events.lean ====
section
/-! DEFINITION. The steps that the device can take of itself, each with the item it concerns, and the choice of what moves next. A
step that is listed before it can do anything leaves the state as it is, but for time. -/

namespace Sys2Proof.Machine

open Sys2Proof

/-- Steps that concern a group. -/
def State.groupEvents (s : State) (t g : Nat) (tm : Team) (gr : Group) : List Instr :=
  (if s.parksNow t g then [.groupPark t g] else []) ++
  (if s.unparksNow t g then [.groupUnpark t g] else []) ++
  (if gr.eligible ∧ gr.since + 1024 ≤ s.clk.cycle then [.groupPromote t g] else []) ++
  (if gr.cont then [.barrierContinuation t g] else []) ++
  (if gr.st = .sleep then [.txSleepTimeout t g] else []) ++
  ((gr.out.filter fun p => p.ready).map fun p => if p.kind = .sf then .sfuResult t g p.id else .loadReturn t g p.id) ++
  (((List.range 32).filter (s.poisonDue t g)).map fun l => .poisonConsumed t g l) ++
  (((tm.streams.filter fun e => e.2.en)).flatMap fun e => (List.range 32).map fun l => .streamLoad t g l e.1)

/-- Steps that concern a team. -/
def State.teamEvents (s : State) (t : Nat) (tm : Team) : List Instr :=
  (match tm.kill with
    | some c => [.teamKill t c]
    | none => []) ++
  (if tm.faulted then [.demandFaultSave t] else []) ++
  (if s.allExited t then [.teamEnd t] else []) ++
  (if s.overBudget t then [.saveBudgetExpiry t] else []) ++
  (tm.rgnFill.map fun e => .regionFillArrival t e.1) ++
  tm.groups.flatMap fun h => s.groupEvents t h.1 tm h.2

/-- Steps of a pair's matrix unit. -/
def State.pairEvents (s : State) (p : Nat) (m : PairMtx) : List Instr :=
  (if m.reqs.isEmpty then [] else [.accGrant p]) ++
  (m.recs.filterMap fun e => match e.2 with
    | some r => if (s.nextPin r).isSome then some (.tilePin p e.1) else none
    | none => none) ++
  (if m.queue.isEmpty then [] else [.mmaRetire p, .drainDone p])

/-- Sources of a collective's members in other packages; what they hold is not this package's to say. -/
def State.farSources (s : State) (c : Cmd) : List (Nat × List (BitVec 64)) :=
  match s.collSet c with
  | .ok set _ => (set.zipIdx.filter fun e => !s.entryHere c.fn e.1).map fun e =>
      (e.2, (List.range (collNeeds c.img e.2)).map fun k => Config.freeBits (2 ^ 64 + (s.clk.fresh * 2 ^ 32 + k) * 1024 + e.2))
  | _ => []

/-- The step that carries an engine command out. -/
def State.cmdStep (s : State) (c : Cmd) : Option Instr :=
  let k := cmdCode c.img
  if c.qn = 0 then (if k = 0x01 then some .copy else if k = 0x02 then some .fill else none)
  else if c.qn = 1 then some .chain
  else if c.qn = 2 then
    (if k = 0x20 then some (.allreduce c.id (s.farSources c)) else if k = 0x21 then some (.reduce c.id (s.farSources c))
     else if k = 0x22 then some (.broadcast c.id (s.farSources c)) else if k = 0x23 then some (.allgather c.id (s.farSources c))
     else if k = 0x24 then some (.reducescatter c.id (s.farSources c)) else none)
  else if c.qn = 3 then some .amsg
  else if c.qn = 4 then
    (if k = 0x40 then some .rowcopy else if k = 0x41 then some .rowop else if k = 0x42 then some .rowzero else if k = 0x43 then some .scrub
     else if k = 0x48 then some .alloc else if k = 0x49 then some .free else if k = 0x4C then some .lkrun else none)
  else if c.qn = 5 then some .walk
  else if c.qn = 6 then (if k = 0x60 then some .shelfRead else if k = 0x61 then some .shelfAppend else none)
  else if c.qn = 7 then some .evt
  else if c.qn = 8 then
    (if k = 0x8C then [some Instr.shelflogSetLog, some .shelflogSetQuota, some .shelflogTrim].getD (bf (cdw c.img 2) 9 8) (some .shelflogSetLog)
     else if k = 0x8F then (if bit (cdw c.img 2) 8 then some .claimCancel else some .claim)
     else if k = 0x92 then (if bf (cdw c.img 3) 1 0 = 2 then some .readEntryImage else some .readPoolRecord)
     else ([Instr.vfcreate, .vfreset, .pairs, .slicemap, .artw, .stitch, .sluice, .pool, .roots, .shoot, .replay, .nbpool, .shelflogSetLog, .faq, .query, .claim,
            .sramsplit, .limits, .readPoolRecord, .ringload, .pfconf, .fring])[k - 0x80]?)
  else if c.qn = 9 then ([Instr.mbegin, .mcopy, .mdirty, .mswitch, .mrelease, .mabort])[k - 0xB0]?
  else if k = 0xA4 then [some Instr.lhbadRead, some .lhbadAdd, some .lhbadRemove].getD (cdw c.img 2 % 4) (some .lhbadRead)
  else ([Instr.lhfuse, .lhnonce, .lhunlock, .lhmeas])[k - 0xA0]?

/-- The step of a command at the point where it stands. -/
def State.cmdEvents (s : State) (c : Cmd) : List (Instr × Nat) :=
  if c.st = .done then [(.commandCompletion, c.id)]
  else if c.st = .sent then (if c.qn = 3 then [(.amsgReceive, c.id)] else [(.lkrunPlace, c.id)])
  else if !s.startable c then []
  else if cmdBad c.qn c.img then [(.commandCompletion, c.id)]
  else match s.cmdStep c with
    | some i => [(i, c.id)]
    | none => []

/-- Steps of the scheduler. -/
def State.schedEvents (s : State) : List Instr :=
  (match s.nextItem with
    | some (r, _) => [.teamDispatch (s.readyItem r).1]
    | none => []) ++
  (s.sched.queue.filterMap fun e => match s.blockedSince e.2 with
    | some t => if 100000 ≤ s.since t then some (.dispatchReserve (s.readyItem e.2).1) else none
    | none => none) ++
  s.sched.grids.flatMap fun g =>
    (if recKind g.img = 2 ∧ g.st = .running ∧ g.next < g.nteams ∧ !g.stuck then [Instr.engineBatchPush g.id] else []) ++
    (if s.retires g then [.gridRetire g.id] else [])

/-- Steps of a function's rings, timers, debts and buckets. -/
def State.fnEvents (s : State) (f : Nat) (c : Fn) : List Instr :=
  (if c.backlog.isEmpty || c.fring.isNone then [] else [.faultRingWrite f]) ++
  (if s.descheduled f then [] else (c.withheld.take 1).map fun w => Instr.ringRecordWrite f w.ring) ++
  (c.rings.flatMap fun r => (if r.2.wait.isEmpty then [] else [Instr.ringRecordWrite f r.1]) ++ (if r.2.timer.isSome then [.coalesceTimer f r.1] else [])) ++
  ((List.range c.timers.length).filterMap fun i => match c.timers[i]? with
    | some e => if !e.stuck ∧ e.at_ ≤ s.clk.time then some (.timerFire f i) else none
    | none => none) ++
  (if !c.slacks.isEmpty then [.slackWatchdog f] else []) ++
  (if c.mrate = 0 ∧ c.lrate = 0 then [] else [.sluiceTokenRefill f])

/-- Steps of pools. -/
def State.poolEvents (s : State) : List Instr :=
  s.part.pools.flatMap fun e => if e.2.en then (if e.2.cur = 0 ∨ e.2.endTime.isSome then [.sliceStart e.1] else [.sliceEnd e.1]) else []

/-- Steps of the memory system, translation and links. -/
def State.memEvents (s : State) : List Instr :=
  ((s.stores.filter fun f => !f.performed || f.deltas.isEmpty).map fun f => .storeAck f.id) ++
  (s.ras.deltas.map fun d => .parityDeltaApply d.id) ++
  (s.eng.arrivals.map fun a => .scratchpadArrival a.id) ++
  (((s.ras.chans.map (·.chan)).eraseDups).map fun c => .channelCommandIssue c) ++
  (s.ras.parityBad.map fun k => .parityRowRebuild (k / 2 ^ 16) (k % 2 ^ 16)) ++
  ((s.ext.ats.filter fun r => !r.pri).map fun r => .atsTimeout r.id) ++
  (s.part.shoots.flatMap fun h => ((List.range units).filter fun u => !h.acked.contains u).flatMap fun u => [.shootdownAck h.cmd u, .shootdownTimeout h.cmd u]) ++
  (s.ext.retrain.flatMap fun l => [.linkRetrainDone l true, .linkRetrainDone l false]) ++
  ((s.outside false).map fun k => .remoteAckTimeout k) ++
  (if s.ext.hostDown && !(s.outside true).isEmpty then [.hostLinkDown] else []) ++
  (if s.lh.nonce.isSome then [.nonceExpiry] else []) ++
  (s.coresUsed.filter fun c => SMap.get 0 s.cache.ltick c + s.cache.tstick.toNat ≤ s.clk.cycle).map fun c => .logicalTimeTick c

/-- The device's own steps that are enabled, each with the command it concerns. -/
def State.enabled (s : State) : List (Instr × Nat) :=
  (((s.teams.flatMap fun e => s.teamEvents e.1 e.2) ++ (s.mtx.flatMap fun e => s.pairEvents e.1 e.2) ++ s.schedEvents ++
    (s.fns.flatMap fun e => s.fnEvents e.1 e.2) ++ s.poolEvents ++ s.memEvents).map fun i => (i, 0)) ++ s.eng.cmds.flatMap s.cmdEvents

/-- What the device settles between steps: the start-up goes on, fences of atomics end, lines that have no room leave L1, chains of deeds that waited go on, teams enter their save handlers or come out of them,
resets and overruns end, waits for a core begin, records leave their ingress queues. -/
def State.upkeep (s : State) : State := s.bootOn.settleRefunds.settleFences.fitL1.resume.moveSaves.settleResets.settleSlack.settleVacated.markBlocked.leaveIngress

/-- Who moves next: an issue, or, with no focus, a step of the device; a free value chooses where several can. -/
def State.reschedule (s : State) : State :=
  let s := s.fillActive
  let opts := s.foci.map some ++ (if s.enabled.isEmpty then [] else [none])
  match opts with
  | [] => { s with focus := none }
  | o :: _ =>
    match opts.getD ((s.free 2).toNat % opts.length) o with
    | some f => { s.align f with focus := some f }
    | none => { s with focus := none }

/-- The enabled step of the device that is taken. -/
def State.pickEvent (s : State) : Option (Instr × Nat) :=
  match s.enabled with
  | [] => none
  | [e] => some e
  | e :: t => some ((e :: t).getD ((s.free 3).toNat % (t.length + 1)) e)

end Sys2Proof.Machine
end

