-- ==== Sys2Proof/Machine/Step.lean ====
section
/-! DEFINITION. One step of the package: a deed of a party outside it that has landed, or the issue of the focus, or a step of
the device; and the placing of a word where the next step fetches it. -/

namespace Sys2Proof.Machine

open Sys2Proof

/-- What follows every deed: what waited is settled, time passes, and the next to move is chosen. -/
def after (o : Host.Outcome State Fault Refusal) : Host.Outcome State Fault Refusal :=
  match o with
  | .next s => .next s.upkeep.tick.reschedule
  | .fault r => .fault r
  | .refused r => .refused r

/-- Whether a deed is a package reset, the one way out of a fatal error (R403, R410). -/
def isReset : Instr → Bool
  | .packageReset _ => true
  | _ => false

/-- One step. -/
def step (s : State) : Host.Outcome State Fault Refusal :=
  match s.inbox with
  | e :: rest => if s.ras.fatal && !isReset e then .fault .fatalPackage else after (exec e { s with inbox := rest, focus := none })
  | [] =>
    if s.ras.fatal then .fault .fatalPackage
    else
      match s.focus with
      | some f => after (exec (s.fetch f) s)
      | none =>
        match s.pickEvent with
        | some e => after (exec e.1 { s with item := e.2 })
        | none => after (.next s)

/-- The place of the code that withFetchWord uses. -/
def fetchHdr : Addr48 := 0x2000

/-- A word that no clause surrounds: a header when its bits [31:21] are zero. -/
def isHeaderWord (w : Nat) : Bool := bits w 21 11 == 0

/-- The class of the word's instruction. -/
def wordClass (w : Nat) : Nat :=
  match decodeInstr w with
  | .ok i => (opOf i).cls
  | .error _ => 0

/-- The place at which lanes fetch a word: at a clause header, or at the one word of a clause of the word's class. -/
def fetchPt (w : Nat) : CodePt :=
  if isHeaderWord w then .header fetchHdr else { hdr := fetchHdr, pos := 1, cls := wordClass w, n := 1 }

/-- The range entry under the code: one bank of stack S0, 64 KB from address 0 (R315). -/
def fetchArt : ArtEntry := { d0 := 0x8008, d1 := 0x10000, d2 := 0x100000001, d3 := 1 }

/-- The translation of the code's page, held by pair 0's unit. -/
def fetchTlb : Tlb := { unit := 0, fn := 0, va := 0x2000, ipa := 0x2000, size := 0x1000, pa := 0x2000, r := true, w := true, x := true }

/-- The group whose 32 lanes stand at a place. -/
def fetchGroup (pt : CodePt) : Group :=
  { st := .active, thr := (List.range 32).map fun i => (i, { pt := pt }) }

/-- The team that fetches: one group on compute core 0, with every thread register and the largest window. -/
def fetchTeam (pt : CodePt) : Team :=
  { rblk := 8, spl := 4096, groups := [(0, fetchGroup pt)] }

/-- The word `w` stored where the next step fetches it: team 0 of the physical function on core 0, its code page translated
and mapped, all lanes at the word, and the focus on them. -/
def State.withFetchWord (s : State) (nbits w : Nat) : State :=
  let pt := fetchPt (w % 2 ^ nbits)
  let s1 := { s with
    part := { s.part with art := [(0, fetchArt)] }
    cache := { s.cache with tlb := [fetchTlb] }
    teams := [(0, fetchTeam pt)]
    focus := some { team := 0, grp := 0, lanes := 0xFFFFFFFF }
    inbox := [] }
  { s1 with mem := memWrite s1.mem (fetchArt.resolve pt.addr.toNat) 4 (w % 2 ^ nbits) }

end Sys2Proof.Machine
end

