-- ==== Sys2Proof/Safety.lean ====
section
/-! DEFINITION. The terms that claims use: what a safe state is, when a word issues, and what an issue may change. -/

namespace Sys2Proof

open Sys2Proof.Machine

/-- The state's memory is in canonical form: addresses strictly rising, no entry equal to what an unlisted address reads as. -/
def Safe.canonical (s : State) : Prop := Memory.wf s.mem = true

/-! ## When a word issues -/

/-- The group in focus. -/
def Safe.grp (f : Focus) (s : State) : Group := s.grp f.team f.grp

/-- The place in the code of the lanes in focus: that of the lowest. -/
def Safe.place (f : Focus) (s : State) : CodePt := ((Safe.grp f s).th (lowLane f.lanes)).pt

/-- The issue of an instruction by the focus. -/
def Safe.iss (i : Instr) (f : Focus) (s : State) : Iss := mkIss (opOf i) f s

/-- Operand `k` of an instruction in a lane, in the order of R105. -/
def Safe.src (i : Instr) (f : Focus) (s : State) (k l : Nat) : Word := (Safe.iss i f s).v k l

/-- The focus `f` issues the instruction `i`: it stands in focus, and every check of R412 that needs no access passes. -/
structure Safe.Issues (i : Instr) (f : Focus) (s : State) : Prop where
  /-- The lanes of `f` are those that issue. -/
  foc : s.focus = some f
  /-- No cause 0x01 (R97, R102–R110, R115, R48, R240). -/
  legal : (opOf i).bad (s.team f.team) (Safe.grp f s) (Safe.place f s) f.lanes (Safe.iss i f s).txl = false
  /-- No cause 0x03: a harbour-only register is named in harbour mode only (R6, R128). -/
  mode : (match (opOf i).sys with | some n => decide (0x800 ≤ n) && !(s.team f.team).harbour | none => false) = false
  /-- No cause 0x0B (R105, R116, R211, R239). -/
  ports : (opOf i).portBad (s.team f.team) (Safe.iss i f s).txl = false
  /-- No cause 0x09: with SY.DBGCTL.HZ, no hazard read (R100). -/
  hazard : (if (s.team f.team).dbgctl.getLsbD 0 then (opOf i).hazardReg (Safe.grp f s) f.lanes else none) = none
  /-- No port that it pops is found empty (R54). -/
  fed : (Safe.grp f s).starved (s.team f.team).streams f.lanes (opOf i).rd = []

/-- The state with the elements popped that an instruction reads from its ports (R54, R105). -/
def Safe.popped (i : Instr) (f : Focus) (s : State) : State :=
  if (opOf i).rd.any fun r => (portOf r).isSome then s.updGrp f.team f.grp fun g => g.popAll f.lanes (opOf i).rd else s

/-! ## What an issue may change -/

/-- Nothing but the group in focus changes, and the count of issues goes up by one. -/
structure Safe.OnlyGroup (f : Focus) (s t : State) : Prop where
  /-- Memory, caches, scheduler, engines, matrix units, functions, tables and everything else outside the teams. -/
  rest : { t with teams := s.teams, clk := s.clk } = s
  /-- The names of results and accesses on their way are the model's own. -/
  clk : t.clk = { s.clk with seq := s.clk.seq + 1, ids := t.clk.ids } ∧ s.clk.ids ≤ t.clk.ids
  others : ∀ n, n ≠ f.team → t.team n = s.team n
  /-- Scratchpad, regions, trap vector, debug registers and everything else of the team. -/
  team : { t.team f.team with groups := (s.team f.team).groups } = s.team f.team
  groups : ∀ n, n ≠ f.grp → t.grp f.team n = s.grp f.team n

/-- A group with the registers, threads, results on their way, ports, SY.AMAX, SRCNT and waiting times of another. -/
def Safe.sameRegs (g h : Group) : Group :=
  { g with x := h.x, w := h.w, p := h.p, thr := h.thr, out := h.out, ports := h.ports, pace := h.pace,
           youngUntil := h.youngUntil, amax := h.amax, srcnt := h.srcnt }

/-- A thread that stands where another stands. -/
def Safe.samePlace (a b : Thread) : Thread :=
  { a with pt := b.pt, waitRes := b.waitRes, reached := b.reached, stopPt := b.stopPt }

/-- Of the group, the thread registers in `X`, the uniform registers in `W` and the predicates in `P` may change; masks, SY.AMAX,
SY.FPMODE, the transaction and every other field of the group stay, but for where its threads stand, its results on their way,
its ports and SRCNT; of each thread only where it stands may change, and of threads outside the issue nothing. -/
structure Safe.Frame (f : Focus) (X : Nat → Nat → Prop) (W : Nat → Prop) (P : Nat → Nat → Prop) (s t : State) : Prop where
  x : ∀ l r, r < 64 → ¬ X l r → (Safe.grp f t).xr l r = (Safe.grp f s).xr l r
  w : ∀ r, ¬ W r → (Safe.grp f t).wr r = (Safe.grp f s).wr r
  p : ∀ k l, ¬ P k l → (Safe.grp f t).pr k l = (Safe.grp f s).pr k l
  rest : Safe.sameRegs (Safe.grp f t) (Safe.grp f s) = Safe.grp f s
  threads : ∀ l, Safe.samePlace ((Safe.grp f t).th l) ((Safe.grp f s).th l) = (Safe.grp f s).th l
  still : ∀ l, f.lanes.getLsbD l = false → (Safe.grp f t).th l = (Safe.grp f s).th l

/-- A thread past the word at a place. -/
def Safe.onward (sm : Bool) (pt : CodePt) (th : Thread) : Thread :=
  { th with pt := pt.next, waitRes := sm, reached := none, stopPt := if sm then some pt else none }

/-- The running lanes of the issue go on to the next word; with S they park at this stop point (R92, R99). -/
def Safe.GoesOn (f : Focus) (sm : Bool) (s t : State) : Prop :=
  ∀ l, f.lanes.getLsbD l = true → ((Safe.grp f s).th l).pt = Safe.place f s → ((Safe.grp f s).th l).run = .running →
    (Safe.grp f t).th l = Safe.onward sm (Safe.place f s) ((Safe.grp f s).th l)

/-- A thread-register field takes a value in every lane of the issue: the register itself, or an element pushed into the
outbound stream, which past COUNT is discarded (R54, R105). -/
structure Safe.Takes (f : Focus) (d : Nat) (v : Nat → Word) (s t : State) : Prop where
  reg : d < 60 → ∀ l, f.lanes.getLsbD l = true → (Safe.grp f t).xr l d = v l
  port : 60 ≤ d → d < 64 → ∀ l, f.lanes.getLsbD l = true → (Safe.grp f t).port l (d - 60) =
    (let p := (Safe.grp f s).port l (d - 60)
     if (SMap.get {} (s.team f.team).streams (d - 60) : Stream).count ≤ p.pushed then p
     else { p with push := p.push ++ [some (v l)], pushed := p.pushed + 1 })

/-- What an instruction does whose whole effect is a value in a thread-register field (R105, R154). -/
structure Safe.WritesX (f : Focus) (sm : Bool) (d : Nat) (v : Nat → Word) (s t : State) : Prop where
  takes : Safe.Takes f d v s t
  srcnt : (Safe.grp f t).srcnt = (Safe.grp f s).srcnt
  only : Safe.OnlyGroup f s t
  frame : Safe.Frame f (fun l r => f.lanes.getLsbD l = true ∧ r = d) (fun _ => False) (fun _ _ => False) s t
  amax : (Safe.grp f t).amax = (Safe.grp f s).amax
  next : Safe.GoesOn f sm s t

/-- What an instruction does whose whole effect is a predicate (R30, R154); a write of p7 is discarded. -/
structure Safe.WritesP (f : Focus) (sm : Bool) (k : Nat) (v : Nat → Bool) (s t : State) : Prop where
  takes : ∀ l, f.lanes.getLsbD l = true → (Safe.grp f t).pr k l = if k = 7 then true else v l
  only : Safe.OnlyGroup f s t
  frame : Safe.Frame f (fun _ _ => False) (fun _ => False) (fun j l => f.lanes.getLsbD l = true ∧ j = k) s t
  srcnt : (Safe.grp f t).srcnt = (Safe.grp f s).srcnt
  amax : (Safe.grp f t).amax = (Safe.grp f s).amax
  next : Safe.GoesOn f sm s t

/-- What an instruction does whose whole effect is a uniform register (R171). -/
structure Safe.WritesW (f : Focus) (sm : Bool) (d : Nat) (v : Word) (s t : State) : Prop where
  takes : (Safe.grp f t).wr d = v
  only : Safe.OnlyGroup f s t
  frame : Safe.Frame f (fun _ _ => False) (fun r => r = d) (fun _ _ => False) s t
  srcnt : (Safe.grp f t).srcnt = (Safe.grp f s).srcnt
  amax : (Safe.grp f t).amax = (Safe.grp f s).amax
  next : Safe.GoesOn f sm s t

/-! ## Completion with a result -/

/-- Element `e` of an operand, as two's complement with `g`, else as natural (R154). -/
def Safe.sv (i : Instr) (f : Focus) (s : State) (k l w : Nat) (g : Bool) (e : Nat) : Int := val g w (el (Safe.src i f s k l) w e)

/-- Whenever the word issues, the instruction completes, its whole effect a value in the thread-register field `d` of every
lane of the issue, and `P` says which. -/
def Safe.CompletesX (i : Instr) (sm : Bool) (d : Nat) (P : Focus → State → Nat → Word → Prop) : Prop :=
  ∀ f s, Safe.Issues i f s → ∃ v t, exec i s = .next t ∧ Safe.WritesX f sm d v s t ∧ ∀ l, P f s l (v l)

/-- The same for a predicate. -/
def Safe.CompletesP (i : Instr) (sm : Bool) (k : Nat) (P : Focus → State → Nat → Bool → Prop) : Prop :=
  ∀ f s, Safe.Issues i f s → ∃ v t, exec i s = .next t ∧ Safe.WritesP f sm k v s t ∧ ∀ l, P f s l (v l)

/-- The same for a uniform register. -/
def Safe.CompletesW (i : Instr) (sm : Bool) (d : Nat) (P : Focus → State → Word → Prop) : Prop :=
  ∀ f s, Safe.Issues i f s → ∃ v t, exec i s = .next t ∧ Safe.WritesW f sm d v s t ∧ P f s v

/-- What a float instruction does whose result is a value in a thread-register field: an issue that rounds stochastically moves
SRCNT on (R145), and SY.AMAX becomes `am` (R199). -/
structure Safe.WritesF (f : Focus) (sm : Bool) (d : Nat) (r : BitVec 2) (am : SMap Word) (v : Nat → Word) (s t : State) : Prop where
  takes : Safe.Takes f d v s t
  srcnt : (Safe.grp f t).srcnt = if r = 3 then (Safe.grp f s).srcnt + 1 else (Safe.grp f s).srcnt
  amax : (Safe.grp f t).amax = am
  only : Safe.OnlyGroup f s t
  frame : Safe.Frame f (fun l r => f.lanes.getLsbD l = true ∧ r = d) (fun _ => False) (fun _ _ => False) s t
  next : Safe.GoesOn f sm s t

/-- Completion of a float instruction that leaves SY.AMAX. -/
def Safe.CompletesF (i : Instr) (sm : Bool) (d : Nat) (r : BitVec 2) (P : Focus → State → Nat → Word → Prop) : Prop :=
  ∀ f s, Safe.Issues i f s → ∃ v t, exec i s = .next t ∧ Safe.WritesF f sm d r (Safe.grp f s).amax v s t ∧ ∀ l, P f s l (v l)

/-- The value of element `e` of an operand under the source flush: Fz of R187. -/
def Safe.fz (i : Instr) (f : Focus) (s : State) (fm : Fmt) (k l w e : Nat) : FV :=
  fm.src (fzs (Safe.grp f s).fpmode.toNat) (el (Safe.src i f s k l) w e)

/-- The rounding of element `e` of a lane (R144, R145). -/
def Safe.rm (f : Focus) (s : State) (r : BitVec 2) (l e : Nat) : Rm :=
  rmOf r (Safe.grp f s).fpmode.toNat (Safe.grp f s).srcnt.toNat l e

/-- An exact value rounded once, with the result flush: Rnd of R187. -/
def Safe.rnd (f : Focus) (s : State) (fm : Fmt) (r : BitVec 2) (l e : Nat) (v : FV) : Nat :=
  fm.rnd (fzr (Safe.grp f s).fpmode.toNat) (Safe.rm f s r l e) v

/-- What FMIN and FMAX make of two elements (R190). -/
structure Safe.Selects (fm : Fmt) (mx fz : Bool) (a b r : Nat) : Prop where
  bothNan : (fm.src fz a).isNan = true → (fm.src fz b).isNan = true → r = fm.canon
  firstNan : (fm.src fz a).isNan = true → (fm.src fz b).isNan = false → r = fm.flushBits fz b
  secondNan : (fm.src fz a).isNan = false → (fm.src fz b).isNan = true → r = fm.flushBits fz a
  one : (fm.src fz a).isNan = false → (fm.src fz b).isNan = false → r = fm.flushBits fz a ∨ r = fm.flushBits fz b
  less : (fm.src fz a).lt (fm.src fz b) = true → r = if mx then fm.flushBits fz b else fm.flushBits fz a
  more : (fm.src fz b).lt (fm.src fz a) = true → r = if mx then fm.flushBits fz a else fm.flushBits fz b
  zeros : (fm.src fz a).eq (fm.src fz b) = true →
    signBit fm.w r = if mx then min (signBit fm.w (fm.flushBits fz a)) (signBit fm.w (fm.flushBits fz b))
      else max (signBit fm.w (fm.flushBits fz a)) (signBit fm.w (fm.flushBits fz b))

/-- The class code of a value and its encoding (R193). -/
structure Safe.Classifies (fm : Fmt) (b : Nat) (r : Nat) : Prop where
  nan : fm.decode b = .nan → r = 0
  inf : ∀ g, fm.decode b = .inf g → r = if g then 1 else 8
  zero : ∀ g e, fm.decode b = .num g 0 e → r = if g then 4 else 5
  sub : ∀ g m e, fm.decode b = .num g m e → m ≠ 0 → fm.isSub b = true → r = if g then 3 else 6
  normal : ∀ g m e, fm.decode b = .num g m e → m ≠ 0 → fm.isSub b = false → r = if g then 2 else 7

/-- An SFU instruction leaves each lane of the issue a result outstanding (R99, R206): for a thread register one in the list of those
on their way, for a port a place in the outbound stream; no register, predicate or port value changes yet. -/
structure Safe.Promises (f : Focus) (sm : Bool) (kind : PendKind) (d : Nat) (v : Nat → Word) (s t : State) : Prop where
  reg : d < 60 → (Safe.grp f t).out = (Safe.grp f s).out ++ (lanesOf f.lanes).zipIdx.map fun e =>
    { id := s.clk.ids + e.2, seq := s.clk.seq, kind := kind, lane := e.1, lanes := f.lanes, file := .x, reg := d, val := v e.1 }
  port : 60 ≤ d → d < 64 → ∀ l, f.lanes.getLsbD l = true →
    let p := (Safe.grp f s).port l (d - 60)
    if (SMap.get {} (s.team f.team).streams (d - 60) : Stream).count ≤ p.pushed then (Safe.grp f t).port l (d - 60) = p
    else (Safe.grp f t).port l (d - 60) = { p with push := p.push ++ [none], pushed := p.pushed + 1 } ∧
      ∃ q ∈ (Safe.grp f t).out, q.kind = kind ∧ q.lane = l ∧ q.file = .port ∧ q.reg = d - 60 ∧ q.addr = p.pushed ∧ q.val = v l ∧ q.live = true
  only : Safe.OnlyGroup f s t
  frame : Safe.Frame f (fun _ _ => False) (fun _ => False) (fun _ _ => False) s t
  srcnt : (Safe.grp f t).srcnt = (Safe.grp f s).srcnt
  amax : (Safe.grp f t).amax = (Safe.grp f s).amax
  next : Safe.GoesOn f sm s t

/-- Whenever the word issues, the SFU instruction completes with its results outstanding, and `P` says which. -/
def Safe.CompletesS (i : Instr) (sm : Bool) (d : Nat) (P : Focus → State → Nat → Word → Prop) : Prop :=
  ∀ f s, Safe.Issues i f s → ∃ v t, exec i s = .next t ∧ Safe.Promises f sm .sf d v s t ∧ ∀ l, P f s l (v l)

/-- What an SFU function makes of an element (R204, R205): the special result, the zero of a fast division past its range, the
correctly rounded value where the bound fixes it, or some bits within the bound; then the result flush of the grade. -/
def Safe.SfuElem (fn : Sfu) (w : BitVec 2) (k acc : Bool) (fpm a b r : Nat) : Prop :=
  let fm := fmtOf w k
  let x := fm.src (!acc || fzs fpm) a
  let y := fm.src (!acc || fzs fpm) b
  let special := if fn = .fdiv then divSpecial x y else fn.special x
  let cut := if fn = .fdiv ∧ !acc ∧ (fm = f32 ∨ fm = bf16) then fastDiv x y else none
  ∃ raw, r = fm.flushBits (!acc || fzr fpm) raw ∧
    (∀ z, special = some z → raw = fm.round .rne z) ∧
    (∀ z, special = none → cut = some z → raw = fm.round .rne z) ∧
    (special = none → cut = none → fn.exact fm acc x = true → raw = fm.round .rne (fn.real x y)) ∧
    (special = none → cut = none → within fm (fn.bound fm acc x) (fn.real x y) raw = true ∨ raw = fm.round .rne (fn.real x y))

/-- What one of the four operators of LRED and LSCAN makes of the elements that it combines (R182): the sum modulo 2^w, the
least, the greatest, or the OR; over no element, the identity. -/
structure Safe.Combines (w : Nat) (mode : BitVec 2) (g : Bool) (xs : List Nat) (r : Nat) : Prop where
  sum : mode = 0 → r = xs.sum % 2 ^ w
  least : mode = 1 → xs ≠ [] → r ∈ xs ∧ ∀ x ∈ xs, val g w r ≤ val g w x
  greatest : mode = 2 → xs ≠ [] → r ∈ xs ∧ ∀ x ∈ xs, val g w x ≤ val g w r
  or : mode = 3 → ∀ j, r.testBit j = xs.any fun x => x.testBit j
  leastOfNone : mode = 1 → xs = [] → r = if g then 2 ^ (w - 1) - 1 else 2 ^ w - 1
  greatestOfNone : mode = 2 → xs = [] → r = if g then 2 ^ (w - 1) else 0

/-! ## Accesses -/

/-- No transaction is open, no group sleeps on a line, every slice has its keys and no stack is lost: an access then has no
effect but its own (R87, R91, R432, R433). -/
def Safe.quiet (s : State) : Prop :=
  (∀ e ∈ s.teams, ∀ h ∈ e.2.groups, h.2.tx = none) ∧ s.cache.wake = [] ∧ s.lh.keyless = [] ∧ s.ras.lost = []

/-- No line is poisoned, no store is still on its way to this package's memory, no atomic to another's, and no L1 copy is modified. -/
def Safe.settled (s : State) : Prop :=
  s.ras.poison = [] ∧ (∀ e ∈ s.stores, e.performed = true ∨ (e.remote = true ∧ e.rmw = none)) ∧ ∀ c ∈ s.cache.l1, c.dirty = false

/-- A group with the threads, results on their way, ports, waiting times, SRCNT and SY.AMAX of another. -/
def Safe.sameOut (g h : Group) : Group :=
  { g with thr := h.thr, out := h.out, ports := h.ports, pace := h.pace, youngUntil := h.youngUntil, srcnt := h.srcnt,
           amax := h.amax }

/-- What an access by the lanes of an issue may change beside memory: L1 copies, translations held and ATS replies taken up, CP ownership,
logical times and leases; balances of the bandwidth buckets; requests that wait for a channel; poison cleared by whole-line writes; parity
deltas sent; rows that a migration must copy again; stores on their way; packets to other packages; and of the group only results on their
way, ports, where its threads stand, SY.TSM, outstanding counts and the FENCE.ACQ that an atomic with ACQ leaves to come.
No register, predicate, mask, special register, matrix unit, table, scratchpad or other group changes. -/
structure Safe.Accesses (f : Focus) (s t : State) : Prop where
  rest : { t with mem := s.mem, teams := s.teams, clk := s.clk, cache := s.cache, fns := s.fns, ras := s.ras, part := s.part,
                  stores := s.stores, ext := s.ext, outbox := s.outbox } = s
  clk : t.clk = { s.clk with seq := s.clk.seq + 1, ids := t.clk.ids }
  ext : { t.ext with atc := s.ext.atc } = s.ext
  outbox : ∃ l, t.outbox = s.outbox ++ l ∧ ∀ o ∈ l, ∃ g a, o = .packet g a
  cache : { t.cache with l1 := s.cache.l1, tlb := s.cache.tlb, walks := s.cache.walks, cpOwner := s.cache.cpOwner, cpUse := s.cache.cpUse, ltime := s.cache.ltime, stamp := s.cache.stamp } = s.cache
  fns : ∀ n, { t.fn n with mbal := (s.fn n).mbal, lbal := (s.fn n).lbal } = s.fn n
  ras : { t.ras with chans := s.ras.chans, poison := s.ras.poison, deltas := s.ras.deltas, sent := s.ras.sent } = s.ras
  part : { t.part with mig := s.part.mig } = s.part
  others : ∀ n, n ≠ f.team → t.team n = s.team n
  team : { t.team f.team with groups := (s.team f.team).groups } = s.team f.team
  groups : ∀ n, n ≠ f.grp → t.grp f.team n = s.grp f.team n
  regs : Safe.sameOut (Safe.grp f t) (Safe.grp f s) = Safe.grp f s
  threads : ∀ l, { Safe.samePlace ((Safe.grp f t).th l) ((Safe.grp f s).th l) with
    tsm := ((Safe.grp f s).th l).tsm, osat := ((Safe.grp f s).th l).osat, acq := ((Safe.grp f s).th l).acq } = (Safe.grp f s).th l
  still : ∀ l, f.lanes.getLsbD l = false → (Safe.grp f t).th l = (Safe.grp f s).th l

/-- The running lanes of an issue that accesses memory go on to the next word (R92, R99). -/
def Safe.MovesOn (f : Focus) (sm : Bool) (s t : State) : Prop :=
  ∀ l, f.lanes.getLsbD l = true → ((Safe.grp f s).th l).pt = Safe.place f s → ((Safe.grp f s).th l).run = .running →
    ((Safe.grp f t).th l).pt = (Safe.place f s).next ∧ ((Safe.grp f t).th l).run = .running ∧ ((Safe.grp f t).th l).waitRes = sm

/-- A lane's access translates to `x`, passes its checks, is not held by an empty bucket (R235, R336, R360, R412) and follows no drain of the
thread that is still to be performed (R73, R77, R278). -/
def Safe.access (i : Instr) (f : Focus) (s : State) (acc : Acc) (bar : Xl → Bool) (l ea : Nat) (x : Xl) : Prop :=
  s.check (Safe.iss i f s).rg (Safe.iss i f s).core acc false ea bar keepAct (s.servedBy (Safe.iss i f s).core l (acc = .load)) = .ok x ∧
  s.drainDue ((Safe.iss i f s).who l) x = false

/-- A load's value on its way to a register of a lane (R99, R210). -/
def Safe.Comes (f : Focus) (t : State) (file : RegFile) (lane reg : Nat) (v : Word) (bad : Bool) : Prop :=
  ∃ q ∈ (Safe.grp f t).out, q.kind = .ld ∧ q.file = file ∧ q.lane = lane ∧ q.reg = reg ∧ q.val = v ∧ q.poison = bad ∧ q.live = true ∧
    q.ready = true ∧ q.lanes.getLsbD lane = true

/-- Whether a store is performed at its home as it issues: HC memory, and CP lines that the core keeps no copy of (R75, R76, R80). -/
def Safe.performs (core : Nat) (x : Xl) : Bool := x.kind = 0 && x.coh != 1 && (x.coh != 2 || x.direct core)

/-- Reads and writes of memory by lanes in order, each one event (R85): what each read, and the memory after. -/
def Safe.rmw (n : Nat) (op : Nat → Nat → Option Nat) (key : Nat → Nat) : List Nat → List Host.Cell → List (Nat × Nat) × List Host.Cell
  | [], m => ([], m)
  | l :: ls, m =>
    let old := memRead m (key l) n
    let r := Safe.rmw n op key ls (match op l old with | some v => memWrite m (key l) n v | none => m)
    ((l, old) :: r.1, r.2)

/-- What an access to the window may change: its bytes and the state of its lines, SY.SPERR, results on their way and where the
threads stand (R69, R212). -/
structure Safe.Windows (f : Focus) (s t : State) : Prop where
  rest : { t with teams := s.teams, clk := s.clk } = s
  clk : t.clk = { s.clk with seq := s.clk.seq + 1, ids := t.clk.ids }
  others : ∀ n, n ≠ f.team → t.team n = s.team n
  team : { t.team f.team with groups := (s.team f.team).groups, sp := (s.team f.team).sp, lines := (s.team f.team).lines,
                              sperr := (s.team f.team).sperr } = s.team f.team
  groups : ∀ n, n ≠ f.grp → t.grp f.team n = s.grp f.team n
  regs : Safe.sameOut (Safe.grp f t) (Safe.grp f s) = Safe.grp f s
  float : (Safe.grp f t).srcnt = (Safe.grp f s).srcnt ∧ (Safe.grp f t).amax = (Safe.grp f s).amax
  threads : ∀ l, Safe.samePlace ((Safe.grp f t).th l) ((Safe.grp f s).th l) = (Safe.grp f s).th l
  still : ∀ l, f.lanes.getLsbD l = false → (Safe.grp f t).th l = (Safe.grp f s).th l

/-- SY.SPERR keeps the first access of an issue that leaves the window (R212). -/
def Safe.NotesFirst (f : Focus) (wr : Bool) (n : Nat) (off : Nat → Nat) (s t : State) : Prop :=
  ((∀ l, f.lanes.getLsbD l = true → (s.team f.team).inRange (off l) n = true) ∨ (s.team f.team).sperr.getLsbD 63 = true →
    (t.team f.team).sperr = (s.team f.team).sperr) ∧
  ∀ l, f.lanes.getLsbD l = true → (s.team f.team).inRange (off l) n = false →
    (∀ k, k < l → f.lanes.getLsbD k = true → (s.team f.team).inRange (off k) n = true) → (s.team f.team).sperr.getLsbD 63 = false →
    (t.team f.team).sperr = BitVec.ofNat 64 (2 ^ 63 + (if wr then 2 ^ 62 else 0) + off l % 2 ^ 20)

/-- The lanes' accesses to the window are aligned, meet no absent line and no region that is still to be filled (R69, R72), and follow no drain of
the thread that is still to be performed (R73, R278). -/
def Safe.windowReady (f : Focus) (s : State) (n : Nat) (off : Nat → Nat) : Prop :=
  ∀ l, f.lanes.getLsbD l = true → off l % n = 0 ∧ s.touch f.team (off l / 128) = .ready ∧
    s.drainFirst { t := f.team, g := f.grp, lane := l, core := (s.team f.team).core } = false

/-! ## What follows an effect -/

/-- The state `t` is `s` but for where the threads of the group stand, how long the group has waited or counts as youngest, and the
count of issues, up by one. -/
structure Safe.Ended (f : Focus) (s t : State) : Prop where
  rest : { t with teams := s.teams, clk := s.clk } = s
  clk : t.clk = { s.clk with seq := s.clk.seq + 1 }
  others : ∀ n, n ≠ f.team → t.team n = s.team n
  team : { t.team f.team with groups := (s.team f.team).groups } = s.team f.team
  groups : ∀ n, n ≠ f.grp → t.grp f.team n = s.grp f.team n
  group : { Safe.grp f t with thr := (Safe.grp f s).thr, pace := (Safe.grp f s).pace,
                              youngUntil := (Safe.grp f s).youngUntil } = Safe.grp f s

/-- From `s`, where a word's effect is made, its running lanes that still stand at `pt` go on to the next word; with S they park
there (R92, R99). Nothing else changes. -/
structure Safe.Moved (f : Focus) (pt : CodePt) (sm : Bool) (s t : State) : Prop where
  ended : Safe.Ended f s t
  threads : ∀ l, (Safe.grp f t).th l =
    if f.lanes.getLsbD l = true ∧ ((Safe.grp f s).th l).pt = pt ∧ ((Safe.grp f s).th l).run = .running
    then Safe.onward sm pt ((Safe.grp f s).th l) else (Safe.grp f s).th l

/-- From `s`, where a word has placed its lanes itself, they stay as it placed them; with S they park there: lanes of `dest` with the
place they now have as their stop point, the others with `pt` (R98, R99). Nothing else changes. -/
structure Safe.Placed (f : Focus) (pt : CodePt) (sm : Bool) (dest : LaneMask) (s t : State) : Prop where
  ended : Safe.Ended f s t
  threads : ∀ l, (Safe.grp f t).th l =
    if sm = true ∧ f.lanes.getLsbD l = true
    then { (Safe.grp f s).th l with waitRes := true, stopPt := some (if dest.getLsbD l then ((Safe.grp f s).th l).pt else pt) }
    else (Safe.grp f s).th l

/-- Lanes at which a trap enters the handler: none in a handler already, none with a result that does not exist yet, none in a
transaction; and the team has a handler (R101, R242, R415–R417). -/
structure Safe.calm (f : Focus) (s : State) : Prop where
  out : ∀ l, f.lanes.getLsbD l = true → ((Safe.grp f s).th l).inTrap = false ∧ ((Safe.grp f s).th l).inSave = false
  ready : (Safe.grp f s).unready f.lanes = false
  tx : (Safe.grp f s).tx = none
  lanes : f.lanes ≠ 0
  handler : (s.team f.team).trapvec ≠ 0

/-- Taking a trap at the word that stands at `pt` (R101, R411, R415): the lanes' outstanding results are written; then each lane has its cause,
the address of the trapping word and the address of the cause in SY.TRAPCAUSE, SY.TRAPPC and SY.TRAPADDR, is in trap-handler state and stands
at the header that SY.TRAPVEC names. Nothing else changes: no memory, no register but those results, no other thread. -/
structure Safe.TrapsAt (f : Focus) (pt : CodePt) (cause : Nat) (addr : Nat → Word) (s t : State) : Prop where
  only : Safe.OnlyGroup f s t
  group : let h := (Safe.grp f s).settle f.lanes
    { Safe.grp f t with thr := h.thr, pace := h.pace } = h
  taken : ∀ l, f.lanes.getLsbD l = true → (Safe.grp f t).th l = { ((Safe.grp f s).settle f.lanes).th l with
    trapCause := BitVec.ofNat 64 cause, trapPc := pt.addr.setWidth 64, trapAddr := addr l, inTrap := true, trapPt := pt,
    trapTx := none, pt := .header ((s.team f.team).trapvec.setWidth 48), run := .running, waitRes := false, reached := none, stopPt := none,
    bpSkip := false }
  others : ∀ l, f.lanes.getLsbD l = false → (Safe.grp f t).th l = ((Safe.grp f s).settle f.lanes).th l

/-- The same at the word where the lanes stand. -/
abbrev Safe.TrapsTo (f : Focus) (cause : Nat) (addr : Nat → Word) (s t : State) : Prop := Safe.TrapsAt f (Safe.place f s) cause addr s t

/-- The lanes of the issue are running. -/
def Safe.running (f : Focus) (s : State) : Prop := ∀ l, f.lanes.getLsbD l = true → ((Safe.grp f s).th l).run = .running

/-- Where each lane of a transfer of control goes (R92, R99, R228). -/
def Safe.Goes (f : Focus) (sm : Bool) (taken : Nat → Bool) (goal : Nat → CodePt) (s t : State) : Prop :=
  ∀ l, f.lanes.getLsbD l = true → (Safe.grp f t).th l =
    let dest := if taken l then goal l else (Safe.place f s).next
    { (Safe.grp f s).th l with pt := dest, run := .running, waitRes := sm, reached := none,
                               stopPt := if sm then some (if taken l then dest else Safe.place f s) else none }

/-- A word that is held at issue: nothing changes but that its group waits (R51, R54). -/
structure Safe.Held (f : Focus) (s t : State) : Prop where
  rest : { t with teams := s.teams } = s
  others : ∀ n, n ≠ f.team → t.team n = s.team n
  team : { t.team f.team with groups := (s.team f.team).groups } = s.team f.team
  groups : ∀ n, n ≠ f.grp → t.grp f.team n = s.grp f.team n
  group : { Safe.grp f t with pace := (Safe.grp f s).pace } = Safe.grp f s

/-- The word completes: exec answers a next state, in which its effect, the state `e`, is made and its lanes have gone on. -/
def Safe.Does (i : Instr) (f : Focus) (sm : Bool) (s e : State) : Prop :=
  ∃ t, exec i s = .next t ∧ Safe.Moved f (Safe.place f s) sm e t

/-- The same for a word that places its lanes itself. -/
def Safe.DoesPlaced (i : Instr) (f : Focus) (sm : Bool) (dest : LaneMask) (s e : State) : Prop :=
  ∃ t, exec i s = .next t ∧ Safe.Placed f (Safe.place f s) sm dest e t

/-- Change the group of the issue. -/
def Safe.onGrp (f : Focus) (s : State) (h : Group → Group) : State := s.updGrp f.team f.grp h

/-- What each lane of a WSPLIT is granted, in order, and what the donor has left (R250). -/
def Safe.grants (n : Nat → Nat) (donor : Nat → Bool) : List Nat → Nat → List (Nat × Nat) × Nat
  | [], held => ([], held)
  | l :: ls, held =>
    if donor l then Safe.grants n donor ls held
    else
      let k := if 1 ≤ n l ∧ n l ≤ held then n l else 0
      let r := Safe.grants n donor ls (held - k)
      ((l, k) :: r.1, r.2)

end Sys2Proof
end

