-- ==== Sys2Proof/Certificates/Slice0/Obligations.lean ====
section
/-! DEFINITION. The statements for the provers. -/

open Sys2Proof Sys2Proof.Machine

/-- ADD, SUB, MULL and IMAD: every element is the exact result fitted to its width, clamped with SAT (R154, R159). Nothing else changes. -/
def Obligations.IntegerSums : Prop := ∀ (sm u t g : Bool) (d a b : BitVec 6) (w : BitVec 2),
  (let i := Instr.add sm d a b u w t g
   Safe.CompletesX i sm d.toNat fun f s l v => ∀ e, e < 64 / ewOf w → el v (ewOf w) e =
     fit (ewOf w) t g (Safe.sv i f s 0 l (ewOf w) g e + Safe.sv i f s 1 l (ewOf w) g e)) ∧
  (let i := Instr.sub sm d a b u w t g
   Safe.CompletesX i sm d.toNat fun f s l v => ∀ e, e < 64 / ewOf w → el v (ewOf w) e =
     fit (ewOf w) t g (Safe.sv i f s 0 l (ewOf w) g e - Safe.sv i f s 1 l (ewOf w) g e)) ∧
  (let i := Instr.mull sm d a b u w t g
   Safe.CompletesX i sm d.toNat fun f s l v => ∀ e, e < 64 / ewOf w → el v (ewOf w) e =
     fit (ewOf w) t g (Safe.sv i f s 0 l (ewOf w) g e * Safe.sv i f s 1 l (ewOf w) g e)) ∧
  (let i := Instr.imad sm d a b u w t g
   Safe.CompletesX i sm d.toNat fun f s l v => ∀ e, e < 64 / ewOf w → el v (ewOf w) e =
     fit (ewOf w) t g (Safe.sv i f s 2 l (ewOf w) g e + Safe.sv i f s 0 l (ewOf w) g e * Safe.sv i f s 1 l (ewOf w) g e))

/-- MULH, MIN, MAX, ABSD, DOT4 and MULW: the high half, the smaller, the larger and the absolute difference of each pair of
elements, the four byte products added to each 32-bit element, and the widened products of one half (R159, R165, R166). -/
def Obligations.IntegerProducts : Prop := ∀ (sm u t g m h : Bool) (d a b : BitVec 6) (w : BitVec 2),
  (let i := Instr.mulh sm d a b u w g
   Safe.CompletesX i sm d.toNat fun f s l v => ∀ e, e < 64 / ewOf w → el v (ewOf w) e =
     wrap (ewOf w) (Safe.sv i f s 0 l (ewOf w) g e * Safe.sv i f s 1 l (ewOf w) g e / (2 : Int) ^ ewOf w)) ∧
  (let i := Instr.min sm d a b u w g
   Safe.CompletesX i sm d.toNat fun f s l v => ∀ e, e < 64 / ewOf w → el v (ewOf w) e =
     wrap (ewOf w) (min (Safe.sv i f s 0 l (ewOf w) g e) (Safe.sv i f s 1 l (ewOf w) g e))) ∧
  (let i := Instr.max sm d a b u w g
   Safe.CompletesX i sm d.toNat fun f s l v => ∀ e, e < 64 / ewOf w → el v (ewOf w) e =
     wrap (ewOf w) (max (Safe.sv i f s 0 l (ewOf w) g e) (Safe.sv i f s 1 l (ewOf w) g e))) ∧
  (let i := Instr.absd sm d a b u w g
   Safe.CompletesX i sm d.toNat fun f s l v => ∀ e, e < 64 / ewOf w →
     el v (ewOf w) e = (Safe.sv i f s 0 l (ewOf w) g e - Safe.sv i f s 1 l (ewOf w) g e).natAbs) ∧
  (let i := Instr.dot4 sm d a b u m t g
   Safe.CompletesX i sm d.toNat fun f s l v => ∀ e, e < 2 → el v 32 e =
     fit 32 t (g || m) (Safe.sv i f s 2 l 32 (g || m) e +
       (Safe.sv i f s 0 l 8 g (4 * e) * Safe.sv i f s 1 l 8 (Bool.xor g m) (4 * e) +
        Safe.sv i f s 0 l 8 g (4 * e + 1) * Safe.sv i f s 1 l 8 (Bool.xor g m) (4 * e + 1) +
        Safe.sv i f s 0 l 8 g (4 * e + 2) * Safe.sv i f s 1 l 8 (Bool.xor g m) (4 * e + 2) +
        Safe.sv i f s 0 l 8 g (4 * e + 3) * Safe.sv i f s 1 l 8 (Bool.xor g m) (4 * e + 3)))) ∧
  (let i := Instr.mulw sm d a b u w h g
   w ≠ 0 → Safe.CompletesX i sm d.toNat fun f s l v => ∀ e, e < 64 / ewOf w / 2 →
     val g (2 * ewOf w) (el v (2 * ewOf w) e) = Safe.sv i f s 0 l (ewOf w) g ((if h then 64 / ewOf w / 2 else 0) + e) *
       Safe.sv i f s 1 l (ewOf w) g ((if h then 64 / ewOf w / 2 else 0) + e))

/-- AND, OR, XOR and ANDN, their immediate forms and ADDI, LEA, SEL, MOVI, MOVH and WTOX: the whole-register results (R159, R162, R167,
R168, R170, R177). -/
def Obligations.WholeRegisterResults : Prop := ∀ (sm u : Bool) (d a b : BitVec 6) (wa : BitVec 5) (k : BitVec 3) (h : BitVec 2)
    (n : BitVec 12) (n16 : BitVec 16) (n18 : BitVec 18),
  (let i := Instr.and sm d a b u
   Safe.CompletesX i sm d.toNat fun f s l v => v = Safe.src i f s 0 l &&& Safe.src i f s 1 l) ∧
  (let i := Instr.or sm d a b u
   Safe.CompletesX i sm d.toNat fun f s l v => v = Safe.src i f s 0 l ||| Safe.src i f s 1 l) ∧
  (let i := Instr.xor sm d a b u
   Safe.CompletesX i sm d.toNat fun f s l v => v = Safe.src i f s 0 l ^^^ Safe.src i f s 1 l) ∧
  (let i := Instr.andn sm d a b u
   Safe.CompletesX i sm d.toNat fun f s l v => v = Safe.src i f s 0 l &&& ~~~ Safe.src i f s 1 l) ∧
  (let i := Instr.addi sm d a n
   Safe.CompletesX i sm d.toNat fun f s l v => v = Safe.src i f s 0 l + n.signExtend 64) ∧
  (let i := Instr.andi sm d a n
   Safe.CompletesX i sm d.toNat fun f s l v => v = Safe.src i f s 0 l &&& n.signExtend 64) ∧
  (let i := Instr.ori sm d a n
   Safe.CompletesX i sm d.toNat fun f s l v => v = Safe.src i f s 0 l ||| n.signExtend 64) ∧
  (let i := Instr.xori sm d a n
   Safe.CompletesX i sm d.toNat fun f s l v => v = Safe.src i f s 0 l ^^^ n.signExtend 64) ∧
  (let i := Instr.lea sm d a b u k
   Safe.CompletesX i sm d.toNat fun f s l v => v = Safe.src i f s 0 l + Safe.src i f s 1 l * BitVec.ofNat 64 (2 ^ k.toNat)) ∧
  (let i := Instr.sel sm d a b u k
   Safe.CompletesX i sm d.toNat fun f s l v => v = if Safe.src i f s 2 l = 1 then Safe.src i f s 0 l else Safe.src i f s 1 l) ∧
  (Safe.CompletesX (Instr.movi sm d n18) sm d.toNat fun _ _ _ v => v = n18.signExtend 64) ∧
  (let i := Instr.movh sm d h n16
   Safe.CompletesX i sm d.toNat fun f s l v => ∀ j, j < 64 → v.getLsbD j =
     if 16 * h.toNat ≤ j ∧ j < 16 * h.toNat + 16 then n16.getLsbD (j - 16 * h.toNat) else (Safe.src i f s 0 l).getLsbD j) ∧
  (let i := Instr.wtox sm d wa
   Safe.CompletesX i sm d.toNat fun f s l v => v = Safe.src i f s 0 l)

/-- SHL, SHR, ROT and SHFI, bit by bit: a count of the width or more shifts every bit out, a signed right shift fills with the
sign, and a rotation takes its count modulo the width (R160, R169).
POPC, CLZ, BFX and BFI: the number of 1 bits, the place of the highest 1 bit, and the bits of an extracted and of an inserted
field; bits above 63 read as zero (R163, R164). -/
def Obligations.ShiftsAndBitFields : Prop :=
  (∀ (sm u g : Bool) (d a b : BitVec 6) (w : BitVec 2) (n : BitVec 6),
     (let i := Instr.shl sm d a b u w
      Safe.CompletesX i sm d.toNat fun f s l v => ∀ e j, e < 64 / ewOf w → j < ewOf w →
        (el v (ewOf w) e).testBit j = (decide (el (Safe.src i f s 1 l) (ewOf w) e ≤ j) &&
          (el (Safe.src i f s 0 l) (ewOf w) e).testBit (j - el (Safe.src i f s 1 l) (ewOf w) e))) ∧
     (let i := Instr.shr sm d a b u w g
      Safe.CompletesX i sm d.toNat fun f s l v => ∀ e j, e < 64 / ewOf w → j < ewOf w →
        (el v (ewOf w) e).testBit j = (el (Safe.src i f s 0 l) (ewOf w) e).testBit
          (if g then min (j + el (Safe.src i f s 1 l) (ewOf w) e) (ewOf w - 1) else j + el (Safe.src i f s 1 l) (ewOf w) e)) ∧
     (let i := Instr.rot sm d a b u w
      Safe.CompletesX i sm d.toNat fun f s l v => ∀ e j, e < 64 / ewOf w → j < ewOf w →
        (el v (ewOf w) e).testBit ((j + el (Safe.src i f s 1 l) (ewOf w) e) % ewOf w) = (el (Safe.src i f s 0 l) (ewOf w) e).testBit j) ∧
     (let i := Instr.shfi sm d a 0 n
      Safe.CompletesX i sm d.toNat fun f s l v => v = Safe.src i f s 0 l <<< n.toNat) ∧
     (let i := Instr.shfi sm d a 1 n
      Safe.CompletesX i sm d.toNat fun f s l v => v = Safe.src i f s 0 l >>> n.toNat) ∧
     (let i := Instr.shfi sm d a 2 n
      Safe.CompletesX i sm d.toNat fun f s l v => v = (Safe.src i f s 0 l).sshiftRight n.toNat) ∧
     (let i := Instr.shfi sm d a 3 n
      Safe.CompletesX i sm d.toNat fun f s l v => v = (Safe.src i f s 0 l).rotateLeft n.toNat)) ∧
  (∀ (sm u g : Bool) (d a b : BitVec 6) (w : BitVec 2),
     (let i := Instr.popc sm d a w
      Safe.CompletesX i sm d.toNat fun f s l v => ∀ e, e < 64 / ewOf w →
        el v (ewOf w) e = ((List.range (ewOf w)).filter fun j => (el (Safe.src i f s 0 l) (ewOf w) e).testBit j).length) ∧
     (let i := Instr.clz sm d a w
      Safe.CompletesX i sm d.toNat fun f s l v => ∀ e, e < 64 / ewOf w →
        el v (ewOf w) e ≤ ewOf w ∧ el (Safe.src i f s 0 l) (ewOf w) e < 2 ^ (ewOf w - el v (ewOf w) e) ∧
        (el v (ewOf w) e < ewOf w → 2 ^ (ewOf w - el v (ewOf w) e - 1) ≤ el (Safe.src i f s 0 l) (ewOf w) e)) ∧
     (let i := Instr.bfx sm d a b u g
      Safe.CompletesX i sm d.toNat fun f s l v => ∀ j, j < 64 →
        let pos := (Safe.src i f s 1 l).toNat % 64
        let len := min ((Safe.src i f s 1 l).toNat / 256 % 128) 64
        v.getLsbD j = if j < len then (Safe.src i f s 0 l).getLsbD (pos + j)
          else g && decide (1 ≤ len) && (Safe.src i f s 0 l).getLsbD (pos + len - 1)) ∧
     (let i := Instr.bfi sm d a b u
      Safe.CompletesX i sm d.toNat fun f s l v => ∀ j, j < 64 →
        let pos := (Safe.src i f s 1 l).toNat % 64
        let len := min ((Safe.src i f s 1 l).toNat / 256 % 128) 64
        v.getLsbD j = if pos ≤ j ∧ j < pos + len then (Safe.src i f s 0 l).getLsbD (j - pos) else (Safe.src i f s 2 l).getLsbD j))

/-- CMP, UCMP and VOTE: the predicate is 1 just when the condition holds for every element, when it holds for the two uniform
registers, and as the votes of the lanes of the issue say (R161, R173, R183). A write of p7 is discarded. -/
def Obligations.ComparisonsAndVotes : Prop := ∀ (sm u g : Bool) (p k : BitVec 3) (a b : BitVec 6) (wa wb : BitVec 5) (w c m : BitVec 2),
  (let i := Instr.cmp sm p a b u w c g
   Safe.CompletesP i sm p.toNat fun f s l v => v = true ↔ ∀ e, e < 64 / ewOf w →
     cond c (Safe.sv i f s 0 l (ewOf w) g e) (Safe.sv i f s 1 l (ewOf w) g e) = true) ∧
  (let i := Instr.ucmp sm p wa wb c g
   Safe.CompletesP i sm p.toNat fun f s _ v => v =
     cond c (Safe.sv i f s 0 (lowLane f.lanes) 64 g 0) (Safe.sv i f s 1 (lowLane f.lanes) 64 g 0)) ∧
  (let i := Instr.vote sm p a k w m
   Safe.CompletesP i sm p.toNat fun f s l v =>
     let ones (t : Nat) : Prop := f.lanes.getLsbD t = true ∧ el (Safe.src i f s 0 t) (ewOf w) k.toNat ≠ 0
     (m = 0 → (v = true ↔ ∃ t, ones t)) ∧
     (m = 1 → (v = true ↔ ∀ t, f.lanes.getLsbD t = true → ones t)) ∧
     (m = 2 → (v = true ↔ (∀ t, f.lanes.getLsbD t = true → ones t) ∨ ∀ t, ¬ ones t)) ∧
     (m = 3 → (v = true ↔ ones l ∧ ∀ t, t < l → ¬ ones t)))

/-- The uniform arithmetic: 64-bit results, fitted as R154 gives (R171, R172, R174).
The uniform logic, shifts and moves: UAND, UOR, UXOR, USHF, UMOVI, RFAL and XTOW (R172, R174–R176). -/
def Obligations.UniformInstructions : Prop :=
  (∀ (sm t g : Bool) (d a b : BitVec 5) (n : BitVec 12) (k : BitVec 3),
     (let i := Instr.uadd sm d a b t g
      Safe.CompletesW i sm d.toNat fun f s v => v.toNat =
        fit 64 t g (Safe.sv i f s 0 (lowLane f.lanes) 64 g 0 + Safe.sv i f s 1 (lowLane f.lanes) 64 g 0)) ∧
     (let i := Instr.usub sm d a b t g
      Safe.CompletesW i sm d.toNat fun f s v => v.toNat =
        fit 64 t g (Safe.sv i f s 0 (lowLane f.lanes) 64 g 0 - Safe.sv i f s 1 (lowLane f.lanes) 64 g 0)) ∧
     (let i := Instr.umul sm d a b t g
      Safe.CompletesW i sm d.toNat fun f s v => v.toNat =
        fit 64 t g (Safe.sv i f s 0 (lowLane f.lanes) 64 g 0 * Safe.sv i f s 1 (lowLane f.lanes) 64 g 0)) ∧
     (let i := Instr.umin sm d a b g
      Safe.CompletesW i sm d.toNat fun f s v => val g 64 v.toNat =
        min (Safe.sv i f s 0 (lowLane f.lanes) 64 g 0) (Safe.sv i f s 1 (lowLane f.lanes) 64 g 0)) ∧
     (let i := Instr.umax sm d a b g
      Safe.CompletesW i sm d.toNat fun f s v => val g 64 v.toNat =
        max (Safe.sv i f s 0 (lowLane f.lanes) 64 g 0) (Safe.sv i f s 1 (lowLane f.lanes) 64 g 0)) ∧
     (let i := Instr.uaddi sm d a n
      Safe.CompletesW i sm d.toNat fun f s v => v = Safe.src i f s 0 (lowLane f.lanes) + n.signExtend 64) ∧
     (let i := Instr.ulea sm d a b k
      Safe.CompletesW i sm d.toNat fun f s v => v =
        Safe.src i f s 0 (lowLane f.lanes) + Safe.src i f s 1 (lowLane f.lanes) * BitVec.ofNat 64 (2 ^ k.toNat))) ∧
  (∀ (sm x : Bool) (d a b la : BitVec 5) (ra : BitVec 6) (sb : BitVec 3) (h k w : BitVec 2) (n : BitVec 16),
     (let i := Instr.uand sm d a b
      Safe.CompletesW i sm d.toNat fun f s v => v = Safe.src i f s 0 (lowLane f.lanes) &&& Safe.src i f s 1 (lowLane f.lanes)) ∧
     (let i := Instr.uor sm d a b
      Safe.CompletesW i sm d.toNat fun f s v => v = Safe.src i f s 0 (lowLane f.lanes) ||| Safe.src i f s 1 (lowLane f.lanes)) ∧
     (let i := Instr.uxor sm d a b
      Safe.CompletesW i sm d.toNat fun f s v => v = Safe.src i f s 0 (lowLane f.lanes) ^^^ Safe.src i f s 1 (lowLane f.lanes)) ∧
     (let i := Instr.ushf sm d a b k
      Safe.CompletesW i sm d.toNat fun f s v =>
        let x := Safe.src i f s 0 (lowLane f.lanes)
        let n := (Safe.src i f s 1 (lowLane f.lanes)).toNat
        v = if k = 0 then x <<< n else if k = 1 then x >>> n else if k = 2 then x.sshiftRight n else x.rotateLeft (n % 64)) ∧
     (let i := Instr.umovi sm d h n
      Safe.CompletesW i sm d.toNat fun f s v => ∀ j, j < 64 → v.getLsbD j =
        if 16 * h.toNat ≤ j ∧ j < 16 * h.toNat + 16 then n.getLsbD (j - 16 * h.toNat)
        else decide (h ≠ 0) && (Safe.src i f s 0 (lowLane f.lanes)).getLsbD j) ∧
     (let i := Instr.rfal sm d ra
      Safe.CompletesW i sm d.toNat fun f s v => v = Safe.src i f s 0 (lowLane f.lanes)) ∧
     (let i := Instr.xtow sm d ra la sb w x
      Safe.CompletesW i sm d.toNat fun f s v => v.toInt % 2 ^ 64 =
        val x (ewOf w) (el ((Safe.iss i f s).far la.toNat) (ewOf w) sb.toNat) % 2 ^ 64))

/-- LGET, LSHF, LRED and LSCAN: what each lane receives of other lanes; the values combined are those of the lanes of the
issue alone (R179–R182). -/
def Obligations.CrossLaneResults : Prop := ∀ (sm g x : Bool) (d a : BitVec 6) (la : BitVec 5) (sb : BitVec 3) (w m : BitVec 2),
  (let i := Instr.lget sm d a la sb w m
   Safe.CompletesX i sm d.toNat fun f s l v =>
     let e0 := el ((Safe.iss i f s).far la.toNat) (ewOf w) sb.toNat
     (m = 0 → v.toNat = e0) ∧ (m = 1 → v = BitVec.ofInt 64 (val true (ewOf w) e0)) ∧
     (m = 2 → ∀ e, e < 64 / ewOf w → el v (ewOf w) e = e0) ∧
     (m = 3 → ∀ e, e < 64 / ewOf w → el v (ewOf w) e = if e = sb.toNat then e0 else el (Safe.src i f s 0 l) (ewOf w) e)) ∧
  (let i := Instr.lshf sm d a la m
   Safe.CompletesX i sm d.toNat fun f s l v => v = (Safe.iss i f s).far (
     if m = 0 then l ^^^ la.toNat else if m = 1 then (if l < la.toNat then l else l - la.toNat)
     else if m = 2 then (if 31 < l + la.toNat then l else l + la.toNat) else (l + la.toNat) % 32)) ∧
  (let i := Instr.lred sm d a g w m
   Safe.CompletesX i sm d.toNat fun f s _ v => ∀ e, e < 64 / ewOf w → Safe.Combines (ewOf w) m g
     ((lanesOf f.lanes).map fun t => el (Safe.src i f s 0 t) (ewOf w) e) (el v (ewOf w) e)) ∧
  (let i := Instr.lscan sm d a x g w m
   Safe.CompletesX i sm d.toNat fun f s l v => ∀ e, e < 64 / ewOf w → Safe.Combines (ewOf w) m g
     (((lanesOf f.lanes).filter fun j => decide (j < l) || (!x && j = l)).map fun t => el (Safe.src i f s 0 t) (ewOf w) e)
     (el v (ewOf w) e))

/-- SPRM, PACK and UNPK: the elements of each lane permuted, narrowed into one half and widened from one half (R184, R185). -/
def Obligations.ElementMoves : Prop := ∀ (sm h : Bool) (d a : BitVec 6) (sb : BitVec 3) (w m : BitVec 2),
  (let i := Instr.sprm sm d a sb w m
   Safe.CompletesX i sm d.toNat fun f s l v => ∀ e, e < 64 / ewOf w → el v (ewOf w) e = el (Safe.src i f s 0 l) (ewOf w)
     (if m = 0 then sb.toNat else if m = 1 then 64 / ewOf w - 1 - e else if m = 2 then (e + sb.toNat) % (64 / ewOf w) else e ^^^ 1)) ∧
  (let i := Instr.pack sm d a h w m
   w ≠ 0 → Safe.CompletesX i sm d.toNat fun f s l v =>
     let k := 64 / ewOf w / 2
     let hi := if h then 1 else 0
     (∀ e, e < k → el v (ewOf w) (hi * k + e) =
       if m = 0 then el (Safe.src i f s 0 l) (2 * ewOf w) e % 2 ^ ewOf w
       else fit (ewOf w) true (m == 1) (Safe.sv i f s 0 l (2 * ewOf w) true e)) ∧
     ∀ e, e < k → el v (ewOf w) ((1 - hi) * k + e) = el (Safe.src i f s 1 l) (ewOf w) ((1 - hi) * k + e)) ∧
  (let i := Instr.unpk sm d a h w m
   w ≠ 0 → Safe.CompletesX i sm d.toNat fun f s l v => ∀ e, e < 64 / ewOf w / 2 →
     val (m == 1) (2 * ewOf w) (el v (2 * ewOf w) e) =
       Safe.sv i f s 0 l (ewOf w) (m == 1) ((if h then 64 / ewOf w / 2 else 0) + e))

/-- FADD, FSUB, FMUL, FFMA and FSCL: each element is the exact value of the formula, its sources flushed under FZS, rounded once and
flushed under FZR; with rounding field 11 SRCNT moves on (R145, R146, R187, R189, R194). -/
def Obligations.FloatArithmetic : Prop := ∀ (sm u k : Bool) (d a b : BitVec 6) (w r : BitVec 2),
  let fm := fmtOf w k
  let n := 64 / ewOf w
  (let i := Instr.fadd sm d a b u w k r
   Safe.CompletesF i sm d.toNat r fun f s l v => ∀ e, e < n → el v (ewOf w) e = Safe.rnd f s fm r l e
     (FV.add (Safe.rm f s r l e).zeroSign (Safe.fz i f s fm 0 l (ewOf w) e) (Safe.fz i f s fm 1 l (ewOf w) e))) ∧
  (let i := Instr.fsub sm d a b u w k r
   Safe.CompletesF i sm d.toNat r fun f s l v => ∀ e, e < n → el v (ewOf w) e = Safe.rnd f s fm r l e
     (FV.add (Safe.rm f s r l e).zeroSign (Safe.fz i f s fm 0 l (ewOf w) e) (FV.neg (Safe.fz i f s fm 1 l (ewOf w) e)))) ∧
  (let i := Instr.fmul sm d a b u w k r
   Safe.CompletesF i sm d.toNat r fun f s l v => ∀ e, e < n → el v (ewOf w) e = Safe.rnd f s fm r l e
     (FV.mul (Safe.fz i f s fm 0 l (ewOf w) e) (Safe.fz i f s fm 1 l (ewOf w) e))) ∧
  (let i := Instr.ffma sm d a b u w k r
   Safe.CompletesF i sm d.toNat r fun f s l v => ∀ e, e < n → el v (ewOf w) e = Safe.rnd f s fm r l e
     (FV.add (Safe.rm f s r l e).zeroSign (Safe.fz i f s fm 2 l (ewOf w) e)
       (FV.mul (Safe.fz i f s fm 0 l (ewOf w) e) (Safe.fz i f s fm 1 l (ewOf w) e)))) ∧
  (let i := Instr.fscl sm d a b u w k r
   Safe.CompletesF i sm d.toNat r fun f s l v => ∀ e, e < n → el v (ewOf w) e = Safe.rnd f s fm r l e
     ((Safe.fz i f s fm 0 l (ewOf w) e).scale (Safe.sv i f s 1 l (ewOf w) true e)))

/-- FRND, FDOT2 and FCVT: values rounded to integral values, products of narrow elements added exactly and rounded once, and
conversions, with SY.AMAXk taking the magnitudes under AMX (R195–R199). The sign of an exactly zero dot product is the model's free
value (log entry on FDOT2): the statement holds whichever it is. -/
def Obligations.FloatConversions : Prop := ∀ (sm u k x : Bool) (d a b : BitVec 6) (w r am : BitVec 2) (c : BitVec 4),
  let fm := fmtOf w k
  (let i := Instr.frnd sm d a w k r
   Safe.CompletesF i sm d.toNat r fun f s l v => ∀ e, e < 64 / ewOf w → el v (ewOf w) e = Safe.rnd f s fm r l e
     ((Safe.fz i f s fm 0 l (ewOf w) e).integral (Safe.rm f s r l e))) ∧
  (let i := Instr.fdot2 sm d a b u x k r
   let nw : BitVec 2 := if x then 3 else 2
   Safe.CompletesF i sm d.toNat r fun f s l v => ∀ e, e < 2 → ∃ zs : Bool, el v 32 e = Safe.rnd f s f32 r l e
     (sumFV zs (Safe.fz i f s f32 2 l 32 e :: (List.range (32 / ewOf nw)).map fun j =>
       FV.mul (Safe.fz i f s (fmtOf nw k) 0 l (ewOf nw) (32 / ewOf nw * e + j)) (Safe.fz i f s (fmtOf nw k) 1 l (ewOf nw) (32 / ewOf nw * e + j))))) ∧
  (let i := Instr.fcvt sm d a c am x w k r
   let vw := convWidth c.toNat (ewOf w)
   let n := convCount c.toNat (ewOf w)
   ∀ f s, Safe.Issues i f s → ∃ v t, exec i s = .next t ∧
     Safe.WritesF f sm d.toNat r (if x then SMap.set 0 (Safe.grp f s).amax am.toNat (amaxMerge (SMap.get 0 (Safe.grp f s).amax am.toNat)
       ((lanesOf f.lanes).flatMap fun l => (List.range n).map fun e => Safe.fz i f s fm 0 l (ewOf w) e)) else (Safe.grp f s).amax) v s t ∧
     ∀ l, (v l).toNat < 2 ^ (vw * n) ∧ ∀ e, e < n → el (v l) vw e =
       convEl (fzs (Safe.grp f s).fpmode.toNat) (fzr (Safe.grp f s).fpmode.toNat) (Safe.rm f s r l e) fm c.toNat (ewOf w)
         (el (Safe.src i f s 0 l) (ewOf w) e))

/-- FMIN, FMAX, FSGN, FCLS and FCMP; the result flush applies to what FMIN and FMAX choose (R146, R190–R193). -/
def Obligations.FloatSelections : Prop := ∀ (sm u k : Bool) (d a b : BitVec 6) (p : BitVec 3) (w c : BitVec 2),
  let fm := fmtOf w k
  let n := 64 / ewOf w
  let fz (f : Focus) (s : State) : Bool := fzs (Safe.grp f s).fpmode.toNat
  (let i := Instr.fmin sm d a b u w k
   Safe.CompletesX i sm d.toNat fun f s l v => ∀ e, e < n →
     ∃ r, Safe.Selects fm false (fz f s) (el (Safe.src i f s 0 l) (ewOf w) e) (el (Safe.src i f s 1 l) (ewOf w) e) r ∧
       el v (ewOf w) e = fm.flushBits (fzr (Safe.grp f s).fpmode.toNat) r) ∧
  (let i := Instr.fmax sm d a b u w k
   Safe.CompletesX i sm d.toNat fun f s l v => ∀ e, e < n →
     ∃ r, Safe.Selects fm true (fz f s) (el (Safe.src i f s 0 l) (ewOf w) e) (el (Safe.src i f s 1 l) (ewOf w) e) r ∧
       el v (ewOf w) e = fm.flushBits (fzr (Safe.grp f s).fpmode.toNat) r) ∧
  (let i := Instr.fsgn sm d a b u w k c
   Safe.CompletesX i sm d.toNat fun f s l v => ∀ e, e < n →
     let x := fm.flushBits (fz f s) (el (Safe.src i f s 0 l) (ewOf w) e)
     let y := el (Safe.src i f s 1 l) (ewOf w) e
     el v (ewOf w) e % 2 ^ (ewOf w - 1) = x % 2 ^ (ewOf w - 1) ∧
     signBit (ewOf w) (el v (ewOf w) e) = if c = 0 then 0 else if c = 1 then 1 - signBit (ewOf w) x else if c = 2 then signBit (ewOf w) y
       else (signBit (ewOf w) x + signBit (ewOf w) y) % 2) ∧
  (let i := Instr.fcls sm d a w k
   Safe.CompletesX i sm d.toNat fun f s l v => ∀ e, e < n →
     Safe.Classifies fm (fm.flushBits (fz f s) (el (Safe.src i f s 0 l) (ewOf w) e)) (el v (ewOf w) e)) ∧
  (let i := Instr.fcmp sm p a b u w k c
   Safe.CompletesP i sm p.toNat fun f s l v => v = true ↔ ∀ e, e < n →
     let x := Safe.fz i f s fm 0 l (ewOf w) e
     let y := Safe.fz i f s fm 1 l (ewOf w) e
     if c = 3 then x.isNan = true ∨ y.isNan = true
     else x.isNan = false ∧ y.isNan = false ∧
       (if c = 0 then x.eq y = true else if c = 1 then x.lt y = true else x.lt y = true ∨ x.eq y = true))

/-- An encoding that is no NaN is returned by decoding and rounding in every format and mode: an exactly representable value is
returned unchanged (R135, R136, R144, R145). -/
def Obligations.ExactValuesSurviveRounding : Prop :=
  ∀ fm ∈ [f64, f32, e8m10, f16, bf16, e5m2, e4m3, e3m4, e3m2, e2m3, e2m1], ∀ v, v < 2 ^ fm.w → fm.decode (v * 2 ^ fm.pad) ≠ .nan →
    ∀ m : Rm, fm.round m (fm.decode (v * 2 ^ fm.pad)) = v * 2 ^ fm.pad

/-- The thirteen SFU instructions: every lane of the issue gets a variable-latency result, each element special, exact or within its
bound; the bits that the bound leaves open are the implementation's (R203–R206). -/
def Obligations.SfuResults : Prop := ∀ (sm u k acc : Bool) (d a b : BitVec 6) (w : BitVec 2),
  let done (i : Instr) (fn : Sfu) : Prop := Safe.CompletesS i sm d.toNat fun f s l v => ∀ e, e < 64 / ewOf w →
    Safe.SfuElem fn w k acc (Safe.grp f s).fpmode.toNat (el (Safe.src i f s 0 l) (ewOf w) e) (el (Safe.src i f s 1 l) (ewOf w) e) (el v (ewOf w) e)
  done (.rcp sm d a w k acc) .rcp ∧ done (.rsq sm d a w k acc) .rsq ∧ done (.sqrt sm d a w k acc) .sqrt ∧
  done (.exp2 sm d a w k acc) .exp2 ∧ done (.log2 sm d a w k acc) .log2 ∧ done (.sin sm d a w k acc) .sin ∧
  done (.cos sm d a w k acc) .cos ∧ done (.tanh sm d a w k acc) .tanh ∧ done (.sigm sm d a w k acc) .sigm ∧
  done (.erf sm d a w k acc) .erf ∧ done (.gelu sm d a w k acc) .gelu ∧ done (.silu sm d a w k acc) .silu ∧
  done (.fdiv sm d a b u w k acc) .fdiv

/-- LD and LDU: with aligned addresses that translate, every lane (LDU: the lowest, for all) gets a value on its way to its register; from
HC memory it is the little-endian bytes there, extended as SZ says, with the poison of their lines. Memory and every register are
unchanged (R4, R75, R99, R208–R210, R213). -/
def Obligations.Loads : Prop := ∀ (sm : Bool) (t a : BitVec 6) (tw aw : BitVec 5) (o : BitVec 9) (z : BitVec 3) (f : Focus) (s : State)
    (x : Nat → Xl), Safe.quiet s →
  (let i := Instr.ld sm t a o z
   let ea (l : Nat) : Nat := eaM (Safe.src i f s 0 l) o (szOf z)
   Safe.Issues i f s → (∀ l, f.lanes.getLsbD l = true → ea l % szOf z = 0 ∧ Safe.access i f s .load (fun _ => false) l (ea l) (x l)) →
   ∃ t', exec i s = .next t' ∧ Safe.Accesses f s t' ∧ Safe.MovesOn f sm s t' ∧ t'.mem = s.mem ∧ t'.stores = s.stores ∧
     (Safe.grp f t').srcnt = (Safe.grp f s).srcnt ∧ (Safe.grp f t').amax = (Safe.grp f s).amax ∧
     ∀ l, f.lanes.getLsbD l = true → ∃ v bad, Safe.Comes f t' .x l t.toNat (extOf z v) bad ∧
       ((x l).kind = 0 → (x l).coh = 0 → v = s.rd (x l).key (szOf z) ∧ bad = s.isPoison (x l).key (szOf z))) ∧
  (let i := Instr.ldu sm tw aw o z
   let low := lowLane f.lanes
   let ea := eaM (Safe.src i f s 0 low) o (szOf z)
   Safe.Issues i f s → f.lanes ≠ 0 → ea % szOf z = 0 → Safe.access i f s .load (fun _ => false) low ea (x low) →
   ∃ t', exec i s = .next t' ∧ Safe.Accesses f s t' ∧ Safe.MovesOn f sm s t' ∧ t'.mem = s.mem ∧ t'.stores = s.stores ∧
     (Safe.grp f t').srcnt = (Safe.grp f s).srcnt ∧ (Safe.grp f t').amax = (Safe.grp f s).amax ∧
     ∃ v bad, Safe.Comes f t' .w low tw.toNat (extOf z v) bad ∧
       ((x low).kind = 0 → (x low).coh = 0 → v = s.rd (x low).key (szOf z) ∧ bad = s.isPoison (x low).key (szOf z)))

/-- ST, STU and FQST: with aligned addresses that translate, the lanes' bytes are written in ascending order of lanes where the store is
performed at issue, and to no other byte; stores to SW memory and to other packages are on their way (R75–R82, R201, R208–R210, R213). -/
def Obligations.Stores : Prop := ∀ (sm ax k : Bool) (t a : BitVec 6) (tw aw : BitVec 5) (o : BitVec 9) (z am r w : BitVec 2) (c : BitVec 3)
    (f : Focus) (s : State) (x : Nat → Xl), Safe.quiet s →
  let stored (i : Instr) (lanes : List Nat) (n : Nat) (v : Nat → Nat) (t' : State) : Prop :=
    let core := (Safe.iss i f s).core
    exec i s = .next t' ∧ Safe.Accesses f s t' ∧ Safe.MovesOn f sm s t' ∧
    t'.mem = lanes.foldl (fun m l => if Safe.performs core (x l) then memWrite m (x l).key n (v l % 2 ^ (8 * n)) else m) s.mem ∧
    (∀ b, (∀ l ∈ lanes, Safe.performs core (x l) = true → ¬ ((x l).key ≤ b ∧ b < (x l).key + n)) → t'.rd b 1 = s.rd b 1) ∧
    ∀ l ∈ lanes, (x l).kind ≠ 0 ∨ (x l).coh = 1 → ∃ e ∈ t'.stores, e.team = f.team ∧ e.grp = f.grp ∧ e.lane = l ∧ e.key = (x l).key ∧ e.size = n ∧
      e.val = BitVec.ofNat 64 (v l % 2 ^ (8 * n)) ∧ e.performed = false ∧ e.remote = decide ((x l).kind ≠ 0)
  (let i := Instr.st sm t a o z
   let n := 2 ^ z.toNat
   let ea (l : Nat) : Nat := eaM (Safe.src i f s 0 l) o n
   Safe.Issues i f s → (∀ l, f.lanes.getLsbD l = true → ea l % n = 0 ∧ Safe.access i f s .store (fun _ => false) l (ea l) (x l)) →
   ∃ t', stored i (lanesOf f.lanes) n (fun l => (Safe.src i f s 1 l).toNat) t' ∧
     (Safe.grp f t').srcnt = (Safe.grp f s).srcnt ∧ (Safe.grp f t').amax = (Safe.grp f s).amax) ∧
  (let i := Instr.stu sm tw aw o z
   let n := 2 ^ z.toNat
   let low := lowLane f.lanes
   let ea := eaM (Safe.src i f s 0 low) o n
   Safe.Issues i f s → f.lanes ≠ 0 → ea % n = 0 → Safe.access i f s .store (fun _ => false) low ea (x low) →
   ∃ t', stored i [low] n (fun _ => (Safe.src i f s 1 low).toNat) t' ∧
     (Safe.grp f t').srcnt = (Safe.grp f s).srcnt ∧ (Safe.grp f t').amax = (Safe.grp f s).amax) ∧
  (let i := Instr.fqst sm t a am ax r k w c
   let fm := fmtOf w k
   let n := 64 / ewOf w
   let v := (convFmt c.toNat).w
   let b := n * v / 8
   let ea (l : Nat) : Nat := (Safe.src i f s 0 l).toNat % 2 ^ 48
   Safe.Issues i f s → (∀ l, f.lanes.getLsbD l = true → ea l % (if b = 3 then 4 else b) = 0 ∧ Safe.access i f s .store (fun _ => false) l (ea l) (x l)) →
   ∃ t' pack, stored i (lanesOf f.lanes) b pack t' ∧
     (∀ l e, e < n → pack l / 2 ^ (v * e) % 2 ^ v = convEl (fzs (Safe.grp f s).fpmode.toNat) (fzr (Safe.grp f s).fpmode.toNat) (Safe.rm f s r l e) fm
       c.toNat (ewOf w) (el (Safe.src i f s 1 l) (ewOf w) e)) ∧
     (Safe.grp f t').srcnt = (if r = 3 then (Safe.grp f s).srcnt + 1 else (Safe.grp f s).srcnt) ∧
     (Safe.grp f t').amax = if ax then SMap.set 0 (Safe.grp f s).amax am.toNat (amaxMerge (SMap.get 0 (Safe.grp f s).amax am.toNat)
       ((lanesOf f.lanes).flatMap fun l => (List.range n).map fun e => Safe.fz i f s fm 1 l (ewOf w) e)) else (Safe.grp f s).amax)

/-- AMO, CAS and RED on HC memory: the lanes in ascending order read and write memory, each as one event; AMO and CAS return what
memory held, RED returns nothing (R85, R214–R218).
The eight operations of atomics on 64-bit words: sum, AND, OR, exclusive OR, signed minimum and maximum, exchange, and the
rounded F64 sum (R215). -/
def Obligations.Atomics : Prop :=
  (∀ (sm w8 : Bool) (d a b : BitVec 6) (o : BitVec 2) (p : BitVec 3) (f : Focus) (s : State) (x : Nat → Xl),
     Safe.quiet s → Safe.settled s →
     let n := dwOf w8
     let key (l : Nat) : Nat := (x l).key
     let ready (i : Instr) (host : Bool) : Prop := Safe.Issues i f s ∧
       (∀ l, f.lanes.getLsbD l = true → (Safe.src i f s 0 l).toNat % 2 ^ 48 % n = 0 ∧ (x l).kind = 0 ∧ (x l).coh = 0 ∧
         Safe.access i f s .rw (fun y => y.kind = 1 && !host) l ((Safe.src i f s 0 l).toNat % 2 ^ 48) (x l)) ∧
       (o.getLsbD 1 = true → (s.team f.team).regions = [] ∧ ∀ l, f.lanes.getLsbD l = true → s.relWaits ((Safe.iss i f s).who l) 1 = false)
     let ends (i : Instr) (t' : State) (m : List Host.Cell) : Prop := exec i s = .next t' ∧ Safe.Accesses f s t' ∧ Safe.MovesOn f sm s t' ∧
       t'.mem = m ∧ (Safe.grp f t').srcnt = (Safe.grp f s).srcnt ∧ (Safe.grp f t').amax = (Safe.grp f s).amax
     (let i := Instr.amo sm d a b o w8 p
      let r := Safe.rmw n (fun l m => some (amoOp n p m (Safe.src i f s 1 l).toNat)) key (lanesOf f.lanes) s.mem
      ready i (p = 0 || p = 6) → ∃ t', ends i t' r.2 ∧ ∀ e ∈ r.1, Safe.Comes f t' .x e.1 d.toNat (BitVec.ofNat 64 e.2) false) ∧
     (let i := Instr.cas sm d a b o w8
      let r := Safe.rmw n (fun l m => if m = (Safe.src i f s 2 l).toNat % 2 ^ (8 * n) then some ((Safe.src i f s 1 l).toNat % 2 ^ (8 * n)) else none) key
        (lanesOf f.lanes) s.mem
      ready i true → ∃ t', ends i t' r.2 ∧ ∀ e ∈ r.1, Safe.Comes f t' .x e.1 d.toNat (BitVec.ofNat 64 e.2) false) ∧
     (let i := Instr.red sm a b o w8 p
      let r := Safe.rmw n (fun l m => some (amoOp n p m (Safe.src i f s 1 l).toNat)) key (lanesOf f.lanes) s.mem
      ready i false → ∃ t', ends i t' r.2 ∧ (Safe.grp f t').out = (Safe.grp f s).out)) ∧
  (∀ m b : BitVec 64,
     BitVec.ofNat 64 (amoOp 8 0 m.toNat b.toNat) = m + b ∧ BitVec.ofNat 64 (amoOp 8 1 m.toNat b.toNat) = m &&& b ∧
     BitVec.ofNat 64 (amoOp 8 2 m.toNat b.toNat) = m ||| b ∧ BitVec.ofNat 64 (amoOp 8 3 m.toNat b.toNat) = m ^^^ b ∧
     BitVec.ofNat 64 (amoOp 8 4 m.toNat b.toNat) = (if m.toInt ≤ b.toInt then m else b) ∧
     BitVec.ofNat 64 (amoOp 8 5 m.toNat b.toNat) = (if m.toInt ≤ b.toInt then b else m) ∧
     BitVec.ofNat 64 (amoOp 8 6 m.toNat b.toNat) = b ∧
     amoOp 8 7 m.toNat b.toNat = f64.round .rne (match FV.add false (f64.decode m.toNat) (f64.decode b.toNat) with
       | .num _ 0 _ => .num false 0 0
       | v => v))

/-- LDS, STS, SAMO and SAMO_CAS: the lanes in ascending order read and write the bytes of the team's window; out of range a load and
an atomic give 0 and a store is dropped, and SY.SPERR keeps the first such access (R69, R212, R220). -/
def Obligations.WindowAccesses : Prop := ∀ (sm w8 : Bool) (t d a b : BitVec 6) (o : BitVec 9) (z : BitVec 3) (y : BitVec 2) (p : BitVec 3)
    (f : Focus) (s : State),
  let tm := s.team f.team
  let ends (i : Instr) (t' : State) (wr : Bool) (n : Nat) (off : Nat → Nat) : Prop := exec i s = .next t' ∧ Safe.Windows f s t' ∧
    Safe.GoesOn f sm s t' ∧ Safe.NotesFirst f wr n off s t'
  let inside (off : Nat → Nat) (n : Nat) : List Nat := (lanesOf f.lanes).filter fun l => tm.inRange (off l) n
  (let i := Instr.lds sm t a o z
   let off (l : Nat) : Nat := eaM (Safe.src i f s 0 l) o (szOf z)
   Safe.Issues i f s → Safe.windowReady f s (szOf z) off →
   ∃ t', ends i t' false (szOf z) off ∧ (t'.team f.team).sp = tm.sp ∧ (t'.team f.team).lines = tm.lines ∧
     ∀ l, f.lanes.getLsbD l = true → if tm.inRange (off l) (szOf z)
       then Safe.Comes f t' .x l t.toNat (extOf z (memRead tm.sp (off l) (szOf z))) (tm.line (off l / 128)).poison
       else Safe.Comes f t' .x l t.toNat 0 false) ∧
  (let i := Instr.sts sm t a o y
   let n := 2 ^ y.toNat
   let off (l : Nat) : Nat := eaM (Safe.src i f s 0 l) o n
   Safe.Issues i f s → Safe.windowReady f s n off →
   ∃ t', ends i t' true n off ∧ (Safe.grp f t').out = (Safe.grp f s).out ∧
     (t'.team f.team).sp = (inside off n).foldl (fun m l => memWrite m (off l) n (Safe.src i f s 1 l).toNat) tm.sp) ∧
  (let i := Instr.samo sm d a b w8 p
   let n := dwOf w8
   let off (l : Nat) : Nat := (Safe.src i f s 0 l).toNat % 2 ^ 48
   let r := Safe.rmw n (fun l m => some (amoOp n p m (Safe.src i f s 1 l).toNat)) off (inside off n) tm.sp
   Safe.Issues i f s → Safe.windowReady f s n off → (∀ k, (tm.line k).poison = false) →
   ∃ t', ends i t' true n off ∧ (t'.team f.team).sp = r.2 ∧ (∀ e ∈ r.1, Safe.Comes f t' .x e.1 d.toNat (BitVec.ofNat 64 e.2) false) ∧
     ∀ l, f.lanes.getLsbD l = true → tm.inRange (off l) n = false → Safe.Comes f t' .x l d.toNat 0 false) ∧
  (let i := Instr.samoCas sm d a b w8
   let n := dwOf w8
   let off (l : Nat) : Nat := (Safe.src i f s 0 l).toNat % 2 ^ 48
   let r := Safe.rmw n (fun l m => if m = (Safe.src i f s 2 l).toNat % 2 ^ (8 * n) then some ((Safe.src i f s 1 l).toNat % 2 ^ (8 * n)) else none) off
     (inside off n) tm.sp
   Safe.Issues i f s → Safe.windowReady f s n off → (∀ k, (tm.line k).poison = false) →
   ∃ t', ends i t' true n off ∧ (t'.team f.team).sp = r.2 ∧ (∀ e ∈ r.1, Safe.Comes f t' .x e.1 d.toNat (BitVec.ofNat 64 e.2) false) ∧
     ∀ l, f.lanes.getLsbD l = true → tm.inRange (off l) n = false → Safe.Comes f t' .x l d.toNat 0 false)

/-- FENCE_REL, FENCE_ACQ and FENCE_AR complete when no lane waits at their scope (0 .T, 1 .P, 2 .X). A release performs the write-backs
of the team's regions and clears SY.TSM of its lanes; an acquire drops SW lines of the core's L1, at .X those of other packages too; at .T
neither does anything. An acquire whose loads are on their way is held (R72, R77, R78, R222). -/
def Obligations.Fences : Prop := ∀ (sm : Bool) (c : BitVec 2) (f : Focus) (s : State),
  let released : State := if c = 0 then s
    else Safe.onGrp f ((s.team f.team).regions.foldl (fun s k => s.rgnWriteBack f.team k) s)
      fun g => g.mapTh f.lanes fun th => { th with tsm := 0 }
  let acquired (s : State) : State := if c = 0 then s
    else { s with cache := { s.cache with l1 := s.cache.l1.filter fun e =>
      !(e.core = (s.team f.team).core && (e.kind = 1 || (decide (2 ≤ c.toNat) && e.kind = 3))) } }
  let drained (i : Instr) : Prop := ((s.team f.team).regions = [] ∨ (Safe.grp f s).tx = none) ∧
    ∀ l, f.lanes.getLsbD l = true → s.relWaits ((Safe.iss i f s).who l) c.toNat = false
  let returned : Prop := ∀ l, f.lanes.getLsbD l = true → (Safe.grp f s).acqWaits l = false
  (Safe.Issues (.fenceRel sm c) f s → drained (.fenceRel sm c) → Safe.Does (.fenceRel sm c) f sm s released) ∧
  (Safe.Issues (.fenceAcq sm c) f s → returned → Safe.Does (.fenceAcq sm c) f sm s (acquired s)) ∧
  (Safe.Issues (.fenceAr sm c) f s → drained (.fenceAr sm c) → returned → Safe.Does (.fenceAr sm c) f sm s (acquired released)) ∧
  (Safe.Issues (.fenceAcq sm c) f s → ¬ returned → ∃ t, exec (.fenceAcq sm c) s = .next t ∧ Safe.Held f s t)

/-- PREF only requests lines: it may add clean L1 copies of what memory holds. WBACK writes the bytes of modified L1 copies to memory and
leaves them clean, and no other byte changes. INVAL drops the core's copies, but for pages with HOME = 01 and lines that a TILE.FETCH pins
(R223–R226). -/
def Obligations.CacheMaintenance : Prop := ∀ (sm l2 : Bool) (n a : BitVec 6) (o : BitVec 9) (f : Focus) (s : State),
  let core := (s.team f.team).core
  (let i := Instr.pref sm l2 a o
   let p := Safe.popped i f s
   Safe.Issues i f s → ∃ l1, Safe.Does i f sm s { p with cache := { p.cache with l1 := l1 } } ∧ (l2 = true → l1 = s.cache.l1) ∧
     (∀ e ∈ s.cache.l1, e ∈ l1) ∧ ∀ e ∈ l1, e ∈ s.cache.l1 ∨ (e.core = core ∧ (e.kind = 1 ∨ e.kind = 3) ∧ e.dirty = false ∧
       e.data = s.lineData e.line ∧ e.poison = s.isPoison (e.line * 128) 128)) ∧
  (let i := Instr.wback sm n a o
   let lines := ((Safe.popped i f s).maintLines (Safe.iss i f s) o (n.toNat + 1)).map fun e => e.2.key / 128
   Safe.Issues i f s → Safe.quiet s → (∀ l k, f.lanes.getLsbD l = true → s.storesTo ((Safe.iss i f s).who l) k = false) →
   ∃ t, exec i s = .next t ∧ Safe.Accesses f s t ∧ Safe.MovesOn f sm s t ∧
     (Safe.grp f t).srcnt = (Safe.grp f s).srcnt ∧ (Safe.grp f t).amax = (Safe.grp f s).amax ∧
     (∀ k ∈ lines, ∀ c, s.l1 core k = some c → c.dirty = true → (∀ j, j < 128 → t.rd (128 * k + j) 1 = (SMap.get 0 c.data j).toNat) ∧
       ∃ c', t.l1 core k = some c' ∧ c'.dirty = false ∧ c'.data = c.data) ∧
     ∀ b, ¬ (b / 128 ∈ lines ∧ ∃ c, s.l1 core (b / 128) = some c ∧ c.dirty = true) → t.rd b 1 = s.rd b 1) ∧
  (let i := Instr.inval sm n a o
   let p := Safe.popped i f s
   let lines := (p.maintLines (Safe.iss i f s) o (n.toNat + 1)).map fun e => e.2.key / 128
   Safe.Issues i f s → Safe.Does i f sm s { p with cache := { p.cache with l1 := p.cache.l1.filter fun e =>
     !(e.core = core && e.kind != 4 && lines.contains e.line && !p.tilePinned core e.line) } })

/-- PUBL completes on an aligned descriptor in an HC page that the lowest lane may write: it is one event on memory, in which the active index
(bit 63) is inverted, the generation count (bits 62:48) goes up by one and wraps, and the other bits stay. In a transaction the event is that
of the commit, and the descriptor's line joins the write set. A misaligned address raises cause 0x04 (R83, R86, R227, R339). -/
def Obligations.Publication : Prop := ∀ (sm : Bool) (a : BitVec 5) (f : Focus) (s : State) (x : Xl),
  let i := Instr.publ sm a
  let va := (Safe.src i f s 0 (lowLane f.lanes)).toNat % 2 ^ 48
  let d := s.rd x.key 8
  (Safe.Issues i f s → Safe.quiet s → f.lanes ≠ 0 → va % 16 = 0 → Safe.access i f s .store (fun y => y.kind != 0 || y.coh != 0) (lowLane f.lanes) va x →
    s.isPoison x.key 16 = false → ∃ t, exec i s = .next t ∧ Safe.Accesses f s t ∧ Safe.MovesOn f sm s t ∧
      (Safe.grp f t).srcnt = (Safe.grp f s).srcnt ∧ (Safe.grp f t).amax = (Safe.grp f s).amax ∧
      t.mem = memWrite s.mem x.key 8 ((1 - d / 2 ^ 63) * 2 ^ 63 + (d / 2 ^ 48 + 1) % 2 ^ 15 * 2 ^ 48 + d % 2 ^ 48)) ∧
  (∀ tx held, Safe.Issues i f s → f.lanes ≠ 0 → va % 16 = 0 → (Safe.grp f s).tx = some tx → tx.parts.getLsbD (lowLane f.lanes) = true →
    s.check (Safe.iss i f s).rg (Safe.iss i f s).core .store true va (fun y => y.kind != 0 || y.coh != 0) keepAct
      (s.servedBy (Safe.iss i f s).core (lowLane f.lanes) false) = .ok x →
    s.drainDue ((Safe.iss i f s).who (lowLane f.lanes)) x = false → s.isPoison x.key 16 = false → tx.addWrite (x.key / 128) = some held →
    ∃ t, exec i s = .next t ∧ t.mem = s.mem ∧ (Safe.grp f t).tx = some (held.updData fun e => { e with publs := e.publs ++ [x.key] })) ∧
  (Safe.Issues i f s → Safe.calm f s → va % 16 ≠ 0 → ∃ t, exec i s = .next t ∧ Safe.TrapsTo f 0x04 (fun _ => BitVec.ofNat 64 va) s t)

/-- BR, CALL, JMPR, JMPR_LINK and RET place every lane of the issue: BR the lanes whose predicate (with N, inverted) holds at the target,
the others at the next word; CALL and the register jumps every lane at the clause header named. CALL writes the address of the clause that
follows to x1, JMPR_LINK to x[D]. A misaligned target in any lane raises cause 0x04 and no lane moves (R92, R108, R228–R230). -/
def Obligations.TransfersOfControl : Prop := ∀ (sm n : Bool) (p : BitVec 3) (o : BitVec 20) (d a : BitVec 6) (f : Focus) (s : State),
  Safe.running f s →
  let pt := Safe.place f s
  let dest : CodePt := { hdr := pt.hdr + 4 * o.signExtend 48 }
  let link : Word := (pt.hdr + BitVec.ofNat 48 (4 * (pt.n + 1))).setWidth 64
  let goes (i : Instr) (X : Nat → Nat → Prop) (taken : Nat → Bool) (goal : Nat → CodePt) (t : State) : Prop :=
    exec i s = .next t ∧ Safe.OnlyGroup f s t ∧ Safe.Frame f X (fun _ => False) (fun _ _ => False) s t ∧
    (Safe.grp f t).srcnt = (Safe.grp f s).srcnt ∧ (Safe.grp f t).amax = (Safe.grp f s).amax ∧ Safe.Goes f sm taken goal s t
  let tgt (i : Instr) (l : Nat) : Nat := (Safe.src i f s 0 l).toNat % 2 ^ 48
  let aligned (i : Instr) : Prop := ∀ l, f.lanes.getLsbD l = true → tgt i l % 4 = 0
  let headers (i : Instr) (l : Nat) : CodePt := { hdr := BitVec.ofNat 48 (tgt i l) }
  (Safe.Issues (.br sm p n o) f s → ∃ t, goes (.br sm p n o) (fun _ _ => False) (fun l => (Safe.src (.br sm p n o) f s 0 l != 0) != n) (fun _ => dest) t) ∧
  (Safe.Issues (.call sm o) f s → ∃ t, goes (.call sm o) (fun l r => f.lanes.getLsbD l = true ∧ r = 1) (fun _ => true) (fun _ => dest) t ∧
    ∀ l, f.lanes.getLsbD l = true → (Safe.grp f t).xr l 1 = link) ∧
  (Safe.Issues (.jmpr sm a) f s → aligned (.jmpr sm a) → ∃ t, goes (.jmpr sm a) (fun _ _ => False) (fun _ => true) (headers (.jmpr sm a)) t) ∧
  (Safe.Issues (.jmprLink sm d a) f s → aligned (.jmprLink sm d a) → ∃ t,
    goes (.jmprLink sm d a) (fun l r => f.lanes.getLsbD l = true ∧ r = d.toNat) (fun _ => true) (headers (.jmprLink sm d a)) t ∧
    Safe.Takes f d.toNat (fun _ => link) s t) ∧
  (Safe.Issues (.ret sm a) f s → aligned (.ret sm a) → ∃ t, goes (.ret sm a) (fun _ _ => False) (fun _ => true) (headers (.ret sm a)) t) ∧
  ∀ i b, (i = .jmpr sm a ∨ i = .jmprLink sm d a ∨ i = .ret sm a) → Safe.Issues i f s → Safe.calm f s → f.lanes.getLsbD b = true → tgt i b % 4 ≠ 0 →
    (∀ k, k < b → f.lanes.getLsbD k = true → tgt i k % 4 = 0) →
    ∃ t, exec i s = .next t ∧ Safe.TrapsTo f 0x04 (fun _ => BitVec.ofNat 64 (tgt i b)) s t

/-- CLAUSE_HEADER: where the header is legal, no breakpoint stands there and its WAIT conditions hold, the lanes go on to the first word
of the clause; with the LD condition, a lane with poison stays and has its stop point there. Where they do not hold, the lanes stay (R92–R96,
R257, R431). -/
def Obligations.ClauseHeaders : Prop := ∀ (lc y : Bool) (q : BitVec 4) (o tf e r m sf st d : Bool) (c : BitVec 3) (n : BitVec 4) (f : Focus) (s : State),
  let i := Instr.clauseHeader lc y q o tf e r m sf st d c n
  let pt := Safe.place f s
  let there : State := Safe.onGrp f s fun g => g.mapTh f.lanes fun th => { th with reached := some (th.reached.getD s.clk.seq) }
  let holds : Bool := there.waitsHold (Safe.iss i f s) ⟨d, st, sf, m, r, e, tf, if o then some q.toNat else none⟩ n.toNat
  s.focus = some f → i.wellFormed = true → ((s.team f.team).dbgctl.getLsbD 1 = false ∨ pt.hdr ≠ (s.team f.team).bpaddr.setWidth 48) →
  (holds = true → ∃ t, exec i s = .next t ∧ Safe.OnlyGroup f s t ∧
    { Safe.grp f t with thr := (Safe.grp f s).thr, pace := (Safe.grp f s).pace } = Safe.grp f s ∧
    ∀ l, let th := (Safe.grp f s).th l
      (Safe.grp f t).th l = if f.lanes.getLsbD l = false then th
        else if d && th.poison.isSome then { th with reached := some (th.reached.getD s.clk.seq),
                                                     stopPt := some { hdr := pt.hdr, cls := c.toNat, n := n.toNat, y := y } }
        else { th with pt := { hdr := pt.hdr, pos := 1, cls := c.toNat, n := n.toNat, y := y }, reached := none, stopPt := none,
                       waitRes := false, bpSkip := false, loopBuf := if lc then capture th.loopBuf pt.hdr.toNat n.toNat else th.loopBuf }) ∧
  (holds = false → ∃ t, exec i s = .next t ∧ Safe.Held f there t)

/-- Traps that enter the handler: TRAP (cause 0x0E with its immediate), a word that is no instruction (0x01), a clause header that is not
legal (0x02), a harbour-only system register named by a tenant (0x03), the breakpoint's header (0x0F) (R6, R94, R115, R128, R256, R257, R411).
A trap inside a trap handler enters no handler: p6 becomes 1 in the lanes, their trap registers stay, and they go on past the word
(R416). A trap of a team without a handler asks for its kill with that cause (R415, R419). -/
def Obligations.Traps : Prop :=
  (∀ (sm : Bool) (im y : BitVec 12) (w : BitVec 32) (d : BitVec 6) (f : Focus) (s : State), Safe.calm f s →
     let traps (i : Instr) (cause : Nat) (a : Word) : Prop := ∃ t, exec i s = .next t ∧ Safe.TrapsTo f cause (fun _ => a) s t
     let pt := Safe.place f s
     let tm := s.team f.team
     (Safe.Issues (.trap sm im) f s → traps (.trap sm im) 0x0E (im.setWidth 64)) ∧
     (s.focus = some f → traps (.illegalInstruction w) 0x01 0) ∧
     (s.focus = some f → (tm.dbgctl.getLsbD 1 = false ∨ pt.hdr ≠ tm.bpaddr.setWidth 48) → traps (.illegalClauseHeader w) 0x02 0) ∧
     (∀ i, i = .mfs sm d y ∨ i = .mts sm d y → s.focus = some f →
       (opOf i).bad tm (Safe.grp f s) pt f.lanes (Safe.iss i f s).txl = false → 0x800 ≤ y.toNat → tm.harbour = false → traps i 0x03 (y.setWidth 64)) ∧
     ∀ lc yl q o tf e r m sf st dl c n, s.focus = some f → tm.dbgctl.getLsbD 1 = true → pt.hdr = tm.bpaddr.setWidth 48 →
       (∀ l, f.lanes.getLsbD l = true → ((Safe.grp f s).th l).bpSkip = false) → 
       let h := Instr.clauseHeader lc yl q o tf e r m sf st dl c n
       ∃ t, exec h s = .next t ∧ Safe.TrapsAt f (if h.wellFormed then { hdr := pt.hdr, cls := c.toNat, n := n.toNat, y := yl } else pt) 0x0F
         (fun _ => 0) s t) ∧
  (∀ (sm : Bool) (im : BitVec 12) (f : Focus) (s : State),
     let i := Instr.trap sm im
     Safe.Issues i f s → (Safe.grp f s).unready f.lanes = false → f.lanes ≠ 0 →
     (Safe.running f s → (∀ l, f.lanes.getLsbD l = true → ((Safe.grp f s).th l).inTrap = true ∧ ((Safe.grp f s).th l).inSave = false) →
       s.errHeld (s.team f.team).fn = false → ∃ t, exec i s = .next t ∧ t.mem = s.mem ∧
       { t.team f.team with groups := (s.team f.team).groups } = s.team f.team ∧
       Safe.Frame f (fun _ _ => False) (fun _ => False) (fun k l => f.lanes.getLsbD l = true ∧ k = 6) s t ∧
       ∀ l, f.lanes.getLsbD l = true → (Safe.grp f t).pr 6 l = true ∧ ((Safe.grp f t).th l).pt = (Safe.place f s).next) ∧
     ((∀ l, f.lanes.getLsbD l = true → ((Safe.grp f s).th l).inTrap = false ∧ ((Safe.grp f s).th l).inSave = false) →
       (s.team f.team).trapvec = 0 → (s.team f.team).kill = none → ∃ t, exec i s = .next t ∧ (t.team f.team).kill = some 0x0E))

/-- ERET and ERET_NEXT: each lane leaves its handler. It resumes at the trapping word, or with .NEXT past it; a lane that trapped in a
transaction resumes behind TXBEG with the status in x[D], and one that was parked at BARV when its save handler was entered is parked there
again. Trap registers kept beneath those of a save handler become visible again. Where the group does not thereby arrive at a barrier,
nothing else changes (R242, R249, R257, R364, R417). -/
def Obligations.TrapReturns : Prop := ∀ (sm : Bool) (f : Focus) (s : State),
  let returns (i : Instr) (nx : Bool) : Prop := Safe.Issues i f s →
    (∃ l, l < 32 ∧ if f.lanes.getLsbD l = true then ((Safe.grp f s).th l).barred = none
      else ((Safe.grp f s).th l).run ≠ .exited ∧ ∀ off, ((Safe.grp f s).th l).run ≠ .barv off) →
    (∀ l p d v, ((Safe.grp f s).th l).trapTx = some (p, d, v) → d < 64) → ∃ t, exec i s = .next t ∧ Safe.OnlyGroup f s t ∧
    { Safe.grp f t with thr := (Safe.grp f s).thr, x := (Safe.grp f s).x, out := (Safe.grp f s).out, pace := (Safe.grp f s).pace,
                        youngUntil := (Safe.grp f s).youngUntil } = Safe.grp f s ∧
    (∀ l r, l < 32 → r < 64 → (Safe.grp f t).xr l r = match ((Safe.grp f s).th l).trapTx with
      | some (_, d, v) => if f.lanes.getLsbD l = true ∧ r = d then v else (Safe.grp f s).xr l r
      | none => (Safe.grp f s).xr l r) ∧
    (∀ l, f.lanes.getLsbD l = false → (Safe.grp f t).th l = (Safe.grp f s).th l) ∧
    ∀ l, f.lanes.getLsbD l = true →
      let th := (Safe.grp f s).th l
      let dest : CodePt := match th.trapTx with
        | some (p, _, _) => p
        | none => if nx then th.trapPt.next else if th.trapPt.pos = 0 then { hdr := th.trapPt.hdr } else th.trapPt
      let r : Thread := { th with pt := dest, run := (match th.barred with | some off => .barv off | none => .running), barred := none, inTrap := false, inSave := false, preended := false, spent := false, trapTx := none,
                                  waitRes := sm, reached := none, stopPt := if sm then some dest else none, bpSkip := th.trapCause = 0x0F }
      (Safe.grp f t).th l = match th.below with
        | some b => { r with trapCause := b.cause, trapPc := b.pc, trapAddr := b.addr, trapPt := b.pt, inTrap := b.inTrap, trapTx := b.tx, below := none }
        | none => r
  returns (.eret sm) false ∧ returns (.eretNext sm) true

/-- ENROL, STRIKE and REJOIN: the lanes join the mask, leave it, or join it, arrive and park at the next word. When every enrolled lane has
arrived, the mask empties and the lanes parked at it run on. An active group all of whose live lanes are then parked at REJOIN goes to PARKED.
No register changes (R232–R234). -/
def Obligations.RejoinMasks : Prop := ∀ (sm : Bool) (k : BitVec 3) (f : Focus) (s : State), Safe.running f s →
  let g := Safe.grp f s
  let pt := Safe.place f s
  let full (e a : LaneMask) : Prop := e ≠ 0 ∧ e &&& ~~~ a = 0
  let keeps (e a : LaneMask) (t : State) : Prop := Safe.OnlyGroup f s t ∧
    { Safe.grp f t with thr := g.thr, enr := g.enr, arr := g.arr, pace := g.pace, youngUntil := g.youngUntil, st := g.st, since := g.since,
                        ports := g.ports } = g ∧
    ((∃ l, l < 32 ∧ ((Safe.grp f t).th l).run ≠ .exited ∧ ∀ k, ((Safe.grp f t).th l).run ≠ .rejoin k) →
      (Safe.grp f t).st = g.st ∧ (Safe.grp f t).since = g.since ∧ (Safe.grp f t).ports = g.ports) ∧
    (∀ j, j ≠ k.toNat → (Safe.grp f t).enrOf j = g.enrOf j ∧ (Safe.grp f t).arrOf j = g.arrOf j) ∧
    (full e a → (Safe.grp f t).enrOf k.toNat = 0 ∧ (Safe.grp f t).arrOf k.toNat = 0) ∧
    (¬ full e a → (Safe.grp f t).enrOf k.toNat = e ∧ (Safe.grp f t).arrOf k.toNat = a) ∧
    ∀ l, f.lanes.getLsbD l = false → (full e a ∧ a.getLsbD l = true ∧ (g.th l).run = .rejoin k.toNat →
        (Safe.grp f t).th l = { g.th l with run := .running }) ∧
      (¬ (full e a ∧ a.getLsbD l = true ∧ (g.th l).run = .rejoin k.toNat) → (Safe.grp f t).th l = g.th l)
  let e := g.enrOf k.toNat
  let a := g.arrOf k.toNat
  (Safe.Issues (.enrol sm k) f s → ∃ t, exec (.enrol sm k) s = .next t ∧ keeps (e ||| f.lanes) a t ∧ Safe.GoesOn f sm s t) ∧
  (Safe.Issues (.strike sm k) f s → ∃ t, exec (.strike sm k) s = .next t ∧ keeps (e &&& ~~~ f.lanes) (a &&& ~~~ f.lanes) t ∧ Safe.GoesOn f sm s t) ∧
  (Safe.Issues (.rejoin sm k) f s → ∃ t, exec (.rejoin sm k) s = .next t ∧ keeps (e ||| f.lanes) (a ||| f.lanes) t ∧
    (f.lanes ≠ 0 → g.st = .active → (∀ l, l < 32 → ((Safe.grp f t).th l).run = .exited ∨ ∃ k, ((Safe.grp f t).th l).run = .rejoin k) →
      (Safe.grp f t).st = .parked) ∧
    ∀ l, f.lanes.getLsbD l = true → ∃ r, (Safe.grp f t).th l = { g.th l with pt := pt.next, run := r, waitRes := sm, reached := none,
                                                                             stopPt := if sm then some pt else none } ∧
      (full (e ||| f.lanes) (a ||| f.lanes) → r = .running) ∧ (¬ full (e ||| f.lanes) (a ||| f.lanes) → r = .rejoin k.toNat))

/-- EXIT outside a transaction: the lanes exit and leave every rejoin mask; the last exit ends the group. Registers, memory and everything
of the other lanes but a release from a mask stay (R231, R234, R51). An active group whose live lanes are then all parked at REJOIN goes to
PARKED (R233); one whose remaining lanes all stand at BARV arrives instead (R249). -/
def Obligations.Exits : Prop := ∀ (sm : Bool) (f : Focus) (s : State),
  let g := Safe.grp f s
  let last : Prop := ∀ l, l < 32 → f.lanes.getLsbD l = false → (g.th l).run = .exited
  let going : Prop := ∃ l, l < 32 ∧ f.lanes.getLsbD l = false ∧ (g.th l).run ≠ .exited ∧ ∀ off, (g.th l).run ≠ .barv off
  Safe.Issues (.exit sm) f s → g.tx = none → last ∨ going → ∃ t, exec (.exit sm) s = .next t ∧ Safe.OnlyGroup f s t ∧
    { Safe.grp f t with thr := g.thr, enr := g.enr, arr := g.arr, st := g.st, since := g.since, pace := g.pace, ports := g.ports,
                        youngUntil := g.youngUntil } = g ∧
    (last → (Safe.grp f t).st = .done ∧ (Safe.grp f t).ports = g.ports) ∧
    (going → let rests : Prop := g.st = .active ∧ ∀ l, l < 32 → ((Safe.grp f t).th l).run = .exited ∨ ∃ k, ((Safe.grp f t).th l).run = .rejoin k
      (rests → (Safe.grp f t).st = .parked) ∧ (¬ rests → (Safe.grp f t).st = g.st ∧ (Safe.grp f t).ports = g.ports)) ∧
    (∀ k, k < 8 → (Safe.grp f t).enrOf k &&& f.lanes = 0 ∧ (Safe.grp f t).arrOf k &&& f.lanes = 0) ∧
    (∀ l, f.lanes.getLsbD l = true → (Safe.grp f t).th l = { g.th l with run := .exited, waitRes := sm, reached := none,
                                                                         stopPt := if sm then some (Safe.place f s) else none, poison := none }) ∧
    ∀ l, f.lanes.getLsbD l = false → (Safe.grp f t).th l = g.th l ∨
      ∃ k, (g.th l).run = .rejoin k ∧ (Safe.grp f t).th l = { g.th l with run := .running }

/-- The abort of a transaction: no transaction is open, the checkpoint of its lanes stands again in thread registers, predicates, masks,
uniform registers and weights, and results issued since it was taken are dropped. Its lanes that have not exited, but for those that only
leave it, run on at TXBEG or behind it with their status in x[D]; everything of other lanes stays; units that WSPLIT took from threads outside
are to go back to them. The conflict count goes up by a conflict,
stays where TXBEG runs again for another reason, and else is zeroed (R89, R242). -/
def Obligations.TransactionAborts : Prop := ∀ (g : Group) (x : Tx) (a : Abort) (stay : LaneMask), g.tx = some x → x.dreg < 64 →
  SMap.wf (α := Word) 0 x.ck.x = true →
  let h := g.abortTx a stay
  let moves (l : Nat) : Prop := x.parts.getLsbD l = true ∧ (g.th l).run ≠ .exited ∧ stay.getLsbD l = false
  h.tx = none ∧ h.txConfl = (if a = .conflict then g.txConfl + 1 else if a = .again then g.txConfl else 0) ∧
  { h with thr := g.thr, x := g.x, p := g.p, enr := g.enr, arr := g.arr, w := g.w, out := g.out, tx := g.tx, txConfl := g.txConfl, refund := g.refund } = g ∧
  h.refund = g.refund ++ x.datas.flatMap TxData.donors ∧
  h.enr = x.ck.enr ∧ h.arr = x.ck.arr ∧ h.w = x.ck.w ∧
  (∀ q, q ∈ h.out ↔ q ∈ g.out ∧ ¬ (x.ck.seq ≤ q.seq ∧ x.parts.getLsbD q.lane = true)) ∧
  (∀ l r, r < 64 → (moves l → a.rerun = false → r = x.dreg → h.xr l r = BitVec.ofNat 64 a.status) ∧
    (¬ (moves l ∧ a.rerun = false ∧ r = x.dreg) → h.xr l r = if x.parts.getLsbD l then SMap.get 0 x.ck.x (64 * l + r) else g.xr l r)) ∧
  (∀ k l, k < 7 → h.pr k l = if x.parts.getLsbD l then (SMap.get 0 x.ck.p k).getLsbD l else g.pr k l) ∧
  ∀ l, let th := g.th l
    let w := SMap.get th.weight x.ck.weight l
    (x.parts.getLsbD l = false → h.th l = th) ∧
    (x.parts.getLsbD l = true → ¬ moves l → h.th l = { th with txNest := 0, weight := w }) ∧
    (moves l → h.th l = { th with txNest := 0, weight := w, pt := if a.rerun then x.beg else x.aft, run := .running, waitRes := false,
                                  reached := none, stopPt := none })

/-- TXBEG opens a transaction for its lanes: checkpoint, x[D] := 0, SY.TXNEST := 1. TXELSE opens a frame. TXABT aborts with status
2 + 256·code. RETRY takes the innermost alternative, or, without a frame, the group sleeps at TXBEG on its read set. TXEND parks its lanes;
when all of P are parked and no transaction with priority is in the way, the writes, those through a twin descriptor to the backing active
then, and the publications are performed, the transaction closes and its lanes go on (R86–R91, R239–R245, R340). -/
def Obligations.TransactionInstructions : Prop := ∀ (sm : Bool) (d : BitVec 6) (o : BitVec 20) (c : BitVec 6) (f : Focus) (s : State),
  let g := Safe.grp f s
  let pt := Safe.place f s
  (Safe.Issues (.txbeg sm d) f s → g.tx = none → ∃ x : Tx,
    Safe.Does (.txbeg sm d) f sm s (Safe.onGrp f s fun g =>
      { overLanes f.lanes (fun l (g : Group) => g.wrX l d.toNat 0) g with tx := some x }.mapTh f.lanes fun th => { th with txNest := 1 }) ∧
    x.parts = f.lanes ∧ x.dreg = d.toNat ∧ x.beg = pt ∧ x.aft = pt.next ∧ x.reads = [] ∧ x.data = {} ∧ x.frames = [] ∧
    x.prio = decide (16 ≤ g.txConfl) ∧ x.ck.seq = s.clk.seq ∧
    (∀ l r, f.lanes.getLsbD l = true → r < 64 → SMap.get 0 x.ck.x (64 * l + r) = g.xr l r) ∧
    x.ck.p = g.p ∧ x.ck.enr = g.enr ∧ x.ck.arr = g.arr ∧ x.ck.w = g.w ∧
    ∀ l, f.lanes.getLsbD l = true → SMap.get 0 x.ck.weight l = (g.th l).weight) ∧
  ∀ x, g.tx = some x →
    (Safe.Issues (.txelse sm o) f s → x.frames.length < 8 → Safe.Does (.txelse sm o) f sm s (Safe.onGrp f s fun g =>
      { g with tx := some { x with frames := { alt := { hdr := pt.hdr + 4 * o.signExtend 48 }, ck := g.checkpoint s.clk.seq x.parts } :: x.frames } }.mapTh
        x.parts fun th => { th with txNest := th.txNest + 1 })) ∧
    (Safe.Issues (.txabt sm c) f s → Safe.DoesPlaced (.txabt sm c) f sm f.lanes s (Safe.onGrp f s fun g => g.abortTx (.code c.toNat) 0)) ∧
    (∀ fr rest, Safe.Issues (.retry sm) f s → x.frames = fr :: rest → ∃ t, exec (.retry sm) s = .next t ∧ Safe.OnlyGroup f s t ∧
      (Safe.grp f t).tx = some { x with frames := rest } ∧
      ∀ l, x.parts.getLsbD l = true → (g.th l).run ≠ .exited → ((Safe.grp f t).th l).pt = fr.alt ∧ ((Safe.grp f t).th l).run = .running ∧
        ((Safe.grp f t).th l).txNest = (g.th l).txNest - 1) ∧
    (Safe.Issues (.retry sm) f s → x.frames = [] → s.cache.wake.length + x.reads.length ≤ 512 → ∃ t, exec (.retry sm) s = .next t ∧ t.mem = s.mem ∧
      t.cache.wake = s.cache.wake ++ x.reads.map (fun k => (k, f.team, f.grp)) ∧ (Safe.grp f t).tx = none ∧ (Safe.grp f t).st = .sleep ∧
      (Safe.grp f t).txConfl = g.txConfl ∧
      ∀ l, x.parts.getLsbD l = true → (g.th l).run ≠ .exited → ((Safe.grp f t).th l).pt = x.beg ∧ ((Safe.grp f t).th l).txNest = 0) ∧
    (Safe.Issues (.txend sm) f s → (∃ l, x.parts.getLsbD l = true ∧ f.lanes.getLsbD l = false ∧ (g.th l).run ≠ .exited ∧ (g.th l).run ≠ .txend) →
      ∃ t, exec (.txend sm) s = .next t ∧ Safe.OnlyGroup f s t ∧
        { Safe.grp f t with thr := g.thr, pace := g.pace, youngUntil := g.youngUntil } = g ∧
        (∀ l, f.lanes.getLsbD l = false → (Safe.grp f t).th l = g.th l) ∧
        ∀ l, f.lanes.getLsbD l = true → (Safe.grp f t).th l = { g.th l with pt := pt.next, run := .txend, waitRes := sm, reached := none,
                                                                            stopPt := if sm then some pt else none }) ∧
    (Safe.Issues (.txend sm) f s → (∀ l, x.parts.getLsbD l = true → f.lanes.getLsbD l = true ∨ (g.th l).run = .exited ∨ (g.th l).run = .txend) →
      s.txBlocked f.team f.grp (s.team f.team).core x = false → (x.datas.flatMap fun e => e.held) = [] → s.lh.keyless = [] →
      ∃ t, exec (.txend sm) s = .next t ∧ (Safe.grp f t).tx = none ∧ (Safe.grp f t).txConfl = 0 ∧
        t.mem = x.publs.foldl (fun m k => let v := memRead m k 8
          memWrite m k 8 ((1 - v / 2 ^ 63) * 2 ^ 63 + (v / 2 ^ 48 + 1) % 2 ^ 15 * 2 ^ 48 + v % 2 ^ 48))
          (x.datas.foldl (fun m e => e.writes.foldl (fun m w => match w.2 with
            | some b => memWrite m (match e.twins.find? fun q => q.1 = w.1 / 128 with
                | some (_, dk, act, alt) => if memRead m dk 8 / 2 ^ 63 % 2 = act then w.1 else alt * 128 + w.1 % 128
                | none => w.1) 1 b.toNat
            | none => m) m) s.mem) ∧
        (∀ l r, r < 64 → (Safe.grp f t).xr l r = g.xr l r) ∧
        ∀ l, x.parts.getLsbD l = true → (g.th l).run ≠ .exited → ((Safe.grp f t).th l).run = .running ∧ ((Safe.grp f t).th l).txNest = 0 ∧
          (f.lanes.getLsbD l = true → ((Safe.grp f t).th l).pt = pt.next))

/-- TDEC: the lanes in ascending order take one off the dependency count of the records at their addresses, while none of them comes near
zero (R42, R246); in a transaction the decrements are held until its commit, as a spawn of the leader is (R240). TSPAWN outside the team leader gives 0; in the leader, a record that holds its weight and waits for dependencies is
accepted: kept in memory as R39 says, its weight taken from the leader, and x[D] becomes 0; a foreign root gives 3 and too little weight 2,
and nothing is created (R34, R39, R247). -/
def Obligations.TaskCreation : Prop := ∀ (sm : Bool) (d a : BitVec 6) (f : Focus) (s : State) (x : Nat → Xl), Safe.quiet s →
  (let i := Instr.tdec sm a
   let ea (l : Nat) : Nat := (Safe.src i f s 0 l).toNat % 2 ^ 48
   Safe.Issues i f s → (∀ l, f.lanes.getLsbD l = true → ea l % 128 = 0 ∧ Safe.access i f s .store notHc l (ea l) (x l) ∧ (x l).key % 128 = 0 ∧
     s.resolve (x l).pa = some (x l).key ∧ 32 < s.rd ((x l).key + 4) 4) →
   ∃ t, exec i s = .next t ∧ Safe.Accesses f s t ∧ Safe.MovesOn f sm s t ∧
     (Safe.grp f t).srcnt = (Safe.grp f s).srcnt ∧ (Safe.grp f t).amax = (Safe.grp f s).amax ∧
     t.mem = (lanesOf f.lanes).foldl (fun m l => memWrite m ((x l).key + 4) 4 (memRead m ((x l).key + 4) 4 - 1)) s.mem) ∧
  (let i := Instr.tdec sm a
   ∀ y, Safe.Issues i f s → (Safe.grp f s).tx = some y → (∀ l, f.lanes.getLsbD l = true → y.parts.getLsbD l = true) →
   ∃ t, exec i s = .next t ∧ Safe.OnlyGroup f s t ∧ (Safe.grp f t).tx = some ((lanesOf f.lanes).foldl (fun z l => z.updData fun e =>
     { e with held := e.held ++ [.tdec l ((Safe.src i f s 0 l).toNat % 2 ^ 48)] }) y)) ∧
  (let i := Instr.tspawn sm d a
   ∀ y, Safe.Issues i f s → f.grp = 0 → f.lanes.getLsbD 0 = true → (Safe.grp f s).tx = some y → y.parts.getLsbD 0 = true →
   ∃ t, exec i s = .next t ∧ Safe.OnlyGroup f s t ∧ (Safe.grp f t).tx = some (y.updData fun e =>
     { e with held := e.held ++ [.tspawn 0 d.toNat ((Safe.src i f s 0 0).toNat % 2 ^ 48) s.clk.ids] }) ∧
     ∃ q ∈ (Safe.grp f t).out, q.id = s.clk.ids ∧ q.kind = .ld ∧ q.file = .x ∧ q.lane = 0 ∧ q.reg = d.toNat ∧ q.ready = false) ∧
  (let i := Instr.tspawn sm d a
   Safe.Issues i f s → ¬ (f.grp = 0 ∧ f.lanes.getLsbD 0 = true) → ∃ t, exec i s = .next t ∧ Safe.Promises f sm .ld d.toNat (fun _ => 0) s t) ∧
  (let i := Instr.tspawn sm d a
   let ea := (Safe.src i f s 0 0).toNat % 2 ^ 48
   let tm := s.team f.team
   let y := x 0
   let img := BitVec.ofNat 1024 (s.rd y.key 128)
   let held := ((Safe.grp f s).th 0).weight.toNat
   Safe.Issues i f s → f.grp = 0 → f.lanes.getLsbD 0 = true → ((Safe.grp f s).th 0).depth ≠ 9 → ea % 128 = 0 →
   Safe.access i f s .store notHc 0 ea y → s.isPoison y.key 128 = false → isLedge tm.core = false → recKind img ≠ 3 → recBad img false = false →
   (recRoot img = 0 ∨ recRoot img = tm.root ∧ recWeight img ≤ held → recDepcnt img ≠ 0 → ∃ t, exec i s = .next t ∧
     Safe.Comes f t .x 0 d.toNat 0 false ∧ ((Safe.grp f t).th 0).weight = BitVec.ofNat 64 (held - if recRoot img = 0 then 0 else recWeight img) ∧
     ∃ g, t.sched.grids = s.sched.grids ++ [g] ∧ g.st = .waiting ∧ g.fn = tm.fn ∧ g.pa = y.pa ∧ g.self = ea ∧
       g.img = recImage img (((Safe.grp f s).th 0).depth.toNat + 1) (((s.gridOf f.team).map fun p => p.self).getD 0) ea ∧ t.rd y.key 128 = g.img.toNat ∧
       Safe.sameOut (Safe.grp f t) (Safe.grp f s) = Safe.grp f s ∧
       ∀ b, ¬ (y.key ≤ b ∧ b < y.key + 128) →
         (∀ p k, s.gridOf f.team = some p → s.resolve p.pa = some k → ¬ (k + 0x7C ≤ b ∧ b < k + 0x80)) → t.rd b 1 = s.rd b 1) ∧
   (∀ v, recRoot img ≠ 0 → (v = 3 ∧ recRoot img ≠ tm.root ∨ v = 2 ∧ recRoot img = tm.root ∧ held < recWeight img) → ∃ t, exec i s = .next t ∧
     Safe.Comes f t .x 0 d.toNat (BitVec.ofNat 64 v) false ∧ Safe.Accesses f s t ∧ t.mem = s.mem))

/-- BARV: the lanes park at the header behind the clause. The arrival of the last thread of the group, at the object of its lowest lane, is one
event: ARRIVED goes up by one, and with EXPECT groups it becomes 0, the generation goes up by one and every group waiting there may go on; the
group then waits in BARRIER. Offsets that are misaligned, or out of the window, raise causes 0x04 and 0x06 (R56, R248, R249). -/
def Obligations.Barriers : Prop := ∀ (sm : Bool) (a : BitVec 6) (f : Focus) (s : State),
  let i := Instr.barv sm a
  let off := (Safe.src i f s 0 (lowLane f.lanes)).toNat % 2 ^ 48
  let tm := s.team f.team
  let g := Safe.grp f s
  let link : CodePt := { hdr := (Safe.place f s).hdr + BitVec.ofNat 48 (4 * ((Safe.place f s).n + 1)) }
  let ready : Prop := Safe.windowReady f s 8 (fun _ => off) ∧ off + 8 ≤ tm.spl * 128 ∧ ∀ l, f.lanes.getLsbD l = true → g.acqWaits l = false
  let parked (t : State) : Prop := ∀ l, f.lanes.getLsbD l = true → (Safe.grp f t).th l = { g.th l with pt := link, run := .barv off, waitRes := sm, reached := none, stopPt := if sm then some (Safe.place f s) else none }
  Safe.Issues i f s → f.lanes ≠ 0 → Safe.running f s →
  (ready → (∃ l, l < 32 ∧ f.lanes.getLsbD l = false ∧ (g.th l).run ≠ .exited ∧ ∀ k, (g.th l).run ≠ .barv k) →
    ∃ t, exec i s = .next t ∧ { t with teams := s.teams, clk := s.clk } = s ∧ (t.team f.team).sp = tm.sp ∧ parked t ∧ (Safe.grp f t).st = g.st ∧
      ∀ l, f.lanes.getLsbD l = false → (Safe.grp f t).th l = g.th l) ∧
  (∀ o, ready → g.barOff = none → (∀ l, l < 32 → f.lanes.getLsbD l = false → (g.th l).run = .exited ∨ ∃ k, (g.th l).run = .barv k) →
    (if f.lanes.getLsbD (lowLane g.live) = true then o = off else (g.th (lowLane g.live)).run = .barv o) →
    let d := tm.spRead o 8
    let full : Prop := max 1 (d % 2 ^ 16) ≤ d / 2 ^ 16 % 2 ^ 16 + 1
    ∃ t, exec i s = .next t ∧ { t with teams := s.teams, clk := s.clk } = s ∧ parked t ∧ (Safe.grp f t).st = .barrier ∧
      (Safe.grp f t).barOff = some o ∧ (full → (Safe.grp f t).cont = true) ∧
      (∀ l, f.lanes.getLsbD l = false → (Safe.grp f t).th l = g.th l) ∧
      (∀ k, k ≠ f.grp → (full → (s.grp f.team k).barOff = some o → t.grp f.team k = { s.grp f.team k with cont := true }) ∧
        (¬ (full ∧ (s.grp f.team k).barOff = some o) → t.grp f.team k = s.grp f.team k)) ∧
      (∀ b, ¬ (o ≤ b ∧ b < o + 8) → (t.team f.team).spRead b 1 = tm.spRead b 1) ∧
      (let e := (t.team f.team).spRead o 8
       e / 2 ^ 48 = d / 2 ^ 48 ∧ e % 2 ^ 16 = d % 2 ^ 16 ∧
       (full → e / 2 ^ 16 % 2 ^ 16 = 0 ∧ e / 2 ^ 32 % 2 ^ 16 = (d / 2 ^ 32 + 1) % 2 ^ 16) ∧
       (¬ full → e / 2 ^ 16 % 2 ^ 16 = d / 2 ^ 16 % 2 ^ 16 + 1 ∧ e / 2 ^ 32 % 2 ^ 16 = d / 2 ^ 32 % 2 ^ 16))) ∧
  (Safe.calm f s → off % 8 ≠ 0 → ∃ t, exec i s = .next t ∧ Safe.TrapsTo f 0x04 (fun _ => BitVec.ofNat 64 off) s t) ∧
  (Safe.calm f s → off % 8 = 0 → tm.spl * 128 < off + 8 → ∃ t, exec i s = .next t ∧ Safe.TrapsTo f 0x06 (fun _ => BitVec.ofNat 64 off) s t)

/-- WSPLIT and WSPLIT_LDR serve the requests of the lanes in ascending order from the weight of the lowest lane, or of the team leader: a
request of at least one unit that the donor still holds is granted, and x[D] says what was; x[D] of a donor in the issue is what it has
left. WRET sets the weight of its lanes, once their stores have drained, to 0 and returns it to the root. WBORROW refuses a request of 0 or
above 2^32, of a lane without weight or of a team without root; any other the root grants while its count of borrowed units stays within 2^62
(R250–R252). -/
def Obligations.WeightMoves : Prop := ∀ (sm : Bool) (d a : BitVec 6) (f : Focus) (s : State),
  let splits (i : Instr) (dg dl : Nat) : Prop := Safe.Issues i f s →
    let r := Safe.grants (fun l => (Safe.src i f s 0 l).toNat) (fun l => decide (dg = f.grp ∧ l = dl)) (lanesOf f.lanes) (s.weightOf f.team dg dl)
    ∃ t, exec i s = .next t ∧ { t with teams := s.teams, clk := s.clk } = s ∧
      (∀ l, f.lanes.getLsbD l = true → ((Safe.grp f s).th l).pt = Safe.place f s → ((Safe.grp f s).th l).run = .running →
        { (Safe.grp f t).th l with weight := ((Safe.grp f s).th l).weight } = Safe.onward sm (Safe.place f s) ((Safe.grp f s).th l)) ∧
      t.weightOf f.team dg dl = r.2 ∧ (dg = f.grp → f.lanes.getLsbD dl = true → (Safe.grp f t).xr dl d.toNat = BitVec.ofNat 64 r.2) ∧
      (∀ e ∈ r.1, (Safe.grp f t).xr e.1 d.toNat = BitVec.ofNat 64 e.2 ∧
        t.weightOf f.team f.grp e.1 = (s.weightOf f.team f.grp e.1 + e.2) % 2 ^ 64) ∧
      (∀ l q, q < 64 → ¬ (f.lanes.getLsbD l = true ∧ q = d.toNat) → (Safe.grp f t).xr l q = (Safe.grp f s).xr l q) ∧
      ∀ k l, ¬ (k = dg ∧ l = dl) → ¬ (k = f.grp ∧ f.lanes.getLsbD l = true) → t.weightOf f.team k l = s.weightOf f.team k l
  (f.lanes ≠ 0 → splits (.wsplit sm d a) f.grp (lowLane f.lanes)) ∧ splits (.wsplitLdr sm d a) 0 0 ∧
  (let i := Instr.wret sm
   let rets := ((lanesOf f.lanes).filter fun l => s.weightOf f.team f.grp l != 0).map fun l =>
     Deed.ret (s.team f.team).root (s.weightOf f.team f.grp l) false
   let e := (Safe.onGrp f s fun g => g.mapTh f.lanes fun th => { th with weight := 0 }).launch (s.team f.team).fn (s.team f.team).harbour
     (if (s.team f.team).root = 0 then [] else rets) (some (f.team, f.grp, f.lanes))
   Safe.Issues i f s → (Safe.grp f s).tx = none → f.lanes ≠ 0 → (∀ l, f.lanes.getLsbD l = true → s.drained f.team f.grp l = true) →
   Safe.Does i f sm s e) ∧
  (let i := Instr.wret sm
   ∀ y, Safe.Issues i f s → (Safe.grp f s).tx = some y → (∀ l, f.lanes.getLsbD l = true → y.parts.getLsbD l = true) →
   ∃ t, exec i s = .next t ∧ Safe.OnlyGroup f s t ∧ (Safe.grp f t).tx = some ((lanesOf f.lanes).foldl (fun z l => z.updData fun e =>
     { e with held := e.held ++ [.wret l] }) y)) ∧
  (let i := Instr.wborrow sm d a
   let n (l : Nat) : Nat := (Safe.src i f s 0 l).toNat
   let old : Prop := (Safe.grp f s).tx = none ∧ ∀ q ∈ (Safe.grp f s).out, q.id < s.clk.ids
   (Safe.Issues i f s → old → (∀ l, f.lanes.getLsbD l = true → n l = 0 ∨ 2 ^ 32 < n l ∨ s.weightOf f.team f.grp l = 0 ∨ (s.team f.team).root = 0) →
     ∃ t, exec i s = .next t ∧ Safe.Promises f sm .ld d.toNat (fun _ => 0) s t) ∧
   ∀ x, Safe.Issues i f s → old → Safe.quiet s → (∀ l, f.lanes.getLsbD l = true → 1 ≤ n l ∧ n l ≤ 2 ^ 32 ∧ s.weightOf f.team f.grp l ≠ 0) →
     (s.team f.team).root ≠ 0 → (∀ m, (∀ b, ¬ (x.key + 0x20 ≤ b ∧ b < x.key + 0x28) → SMap.get 0 m b = SMap.get 0 s.mem b) →
       ({ s with mem := m }.reach (s.team f.team).fn (s.team f.team).harbour .rw (s.team f.team).root 128).1 = .ok x) →
     s.rd (x.key + 0x20) 8 + ((lanesOf f.lanes).map n).sum ≤ 2 ^ 62 → ∃ t, exec i s = .next t ∧
       (∀ l, f.lanes.getLsbD l = true → Safe.Comes f t .x l d.toNat (BitVec.ofNat 64 (n l)) false ∧
         t.weightOf f.team f.grp l = (s.weightOf f.team f.grp l + n l) % 2 ^ 64) ∧
       t.mem = (lanesOf f.lanes).foldl (fun m l => memWrite m (x.key + 0x20) 8 (memRead m (x.key + 0x20) 8 + n l)) s.mem ∧
       ∀ k r, r < 64 → (Safe.grp f t).xr k r = (Safe.grp f s).xr k r)
/-- MFS: x[D] takes the system register, shared ones the same value in every lane, SY.TIME and SY.OSAT as results on their way
(R127–R131, R255). -/
def Obligations.SystemRegisterReads : Prop := ∀ (sm : Bool) (d : BitVec 6) (y : BitVec 12) (f : Focus) (s : State),
  let i := Instr.mfs sm d y
  let tm := s.team f.team
  let g := Safe.grp f s
  Safe.Issues i f s →
  ((y = 0x000 ∨ y = 0x030) → ∃ t, exec i s = .next t ∧
    Safe.Promises f sm .ld d.toNat (fun l => if y = 0x000 then s.clk.time else (g.th l).osat.setWidth 64) s t) ∧
  (y ≠ 0x000 → y ≠ 0x030 → ∃ v t, exec i s = .next t ∧ Safe.WritesX f sm d.toNat v s t ∧ ∀ l,
    let th := g.th l
    (y = 0x001 → v l = g.fpmode) ∧ (y = 0x002 → v l = s.cache.tstick) ∧ (y = 0x003 → v l = s.cache.lease) ∧ (y = 0x004 → v l = BitVec.ofNat 64 tm.core) ∧
    (y = 0x005 → v l = BitVec.ofNat 64 (if isHarbour tm.core then SMap.get 0 s.part.hvf tm.core else tm.fn)) ∧ (y = 0x006 → v l = g.active.setWidth 64) ∧
    (∀ k, k < 4 → y.toNat = 0x008 + k → v l = SMap.get 0 g.amax k) ∧
    (y = 0x010 → v l = th.trapCause) ∧ (y = 0x011 → v l = th.trapPc) ∧ (y = 0x012 → v l = th.trapAddr) ∧ (y = 0x013 → v l = tm.trapvec) ∧
    (y = 0x018 → v l = (s.fn tm.fn).prehdl) ∧ (y = 0x019 → v l = (s.fn tm.fn).prebud) ∧
    (y = 0x020 → v l = tm.sperr) ∧ (y = 0x021 → v l = tm.dbgctl) ∧ (y = 0x022 → v l = tm.bpaddr) ∧
    (y = 0x031 → v l = th.tsm) ∧ (y = 0x032 → v l = th.txNest.setWidth 64) ∧ (y = 0x033 → v l = th.depth.setWidth 64) ∧ (y = 0x034 → v l = th.weight) ∧
    (∀ k, k < 8 → (y.toNat = 0x040 + k → v l = SMap.get 0 tm.rgnva k) ∧ (y.toNat = 0x048 + k → v l = SMap.get 0 tm.rgnctl k)) ∧
    (y = 0x800 → v l = BitVec.ofNat 64 (SMap.get 0 s.part.hvf tm.core)) ∧ (y = 0x801 → v l = BitVec.ofNat 64 (SMap.get 0 s.part.split tm.core)))

/-- MTS: a register of group, team, core, function or package scope takes the value of the lowest lane, one of thread scope each lane's
own; reserved bits are dropped, and a tenant's write of a read-only register changes nothing. A write of SY.FPMODE zeroes SRCNT; SY.SPERR is
cleared by a tenant's write with V; SY.RGNCTLk of a region that is not enabled becomes enabled only where the region fits (R5, R71, R72,
R127–R131, R145, R255). Of two groups' writes of a shared register in one cycle that of the higher group number stands (R127); a region that is
enabled is written back first (R72). The same writes made by parties outside the issue: SPERR_CLEAR, FPMODE_WRITE, RGNCTL_WRITE, HVF_WRITE. -/
def Obligations.SystemRegisterWrites : Prop := ∀ (sm : Bool) (d : BitVec 6) (y : BitVec 12) (f : Focus) (s : State),
  let i := Instr.mts sm d y
  let tm := s.team f.team
  let v := Safe.src i f s 0 (lowLane f.lanes)
  let low (v : Word) (n : Nat) : Word := BitVec.ofNat 64 (v.toNat % 2 ^ n)
  let p := Safe.popped i f s
  let does (e : State) : Prop := Safe.Does i f sm s e
  let team (h : Team → Team) : Prop := does (p.updTeam f.team h)
  let lanes (h : Word → Thread → Thread) : Prop :=
    does (Safe.onGrp f p fun g => overLanes f.lanes (fun l g => g.updTh l fun th => h (Safe.src i f s 0 l) th) g)
  let discarded : List Nat := [0x000, 0x002, 0x003, 0x004, 0x005, 0x006, 0x010, 0x011, 0x012, 0x019, 0x030, 0x031, 0x032, 0x033, 0x034]
  let fixed : List Nat := [0x000, 0x004, 0x005, 0x006, 0x030, 0x031, 0x032, 0x033, 0x802]
  (Safe.Issues i f s → p.mtsLater (Safe.iss i f s) y.toNat = true → does p) ∧
  (Safe.Issues i f s → p.mtsLater (Safe.iss i f s) y.toNat = false →
    (y = 0x001 → does (Safe.onGrp f p fun g => { g with fpmode := v &&& 0xFFFFFFFF0000000F, srcnt := 0 })) ∧
    (∀ k, k < 4 → y.toNat = 0x008 + k → does (Safe.onGrp f p fun g => { g with amax := SMap.set 0 g.amax k v })) ∧
    (y = 0x013 → team fun tm => { tm with trapvec := v &&& 0xFFFFFFFFFFFC }) ∧
    (y = 0x018 → does (p.updFn tm.fn fun c => { c with prehdl := low v 48 })) ∧
    (y = 0x020 → team fun tm => { tm with sperr := if tm.harbour then v &&& 0xC0000000000FFFFF else if v.getLsbD 63 then 0 else tm.sperr }) ∧
    (y = 0x021 → team fun tm => { tm with dbgctl := low v 2 }) ∧ (y = 0x022 → team fun tm => { tm with bpaddr := low v 48 }) ∧
    (∀ k, k < 8 → y.toNat = 0x040 + k → team fun tm => { tm with rgnva := SMap.set 0 tm.rgnva k (v &&& 0xFFFFFFFFFF80) }) ∧
    (∀ k, k < 8 → y.toNat = 0x048 + k → tm.rgnEn k = false → team fun tm => { tm with
      rgnctl := SMap.set 0 tm.rgnctl k (if v.getLsbD 48 = true ∧ tm.rgnFits k v = false then SMap.get 0 tm.rgnctl k &&& 0xFFFEFFFFFFFFFFFF
        else v &&& 0x18FFF00001FFF) }) ∧
    (∀ k, k < 8 → y.toNat = 0x048 + k → tm.rgnEn k = true → SMap.get 0 tm.rgnFill k = 0 → p.rgnParks f.team k = false →
      does ((p.rgnWriteBack f.team k).updTeam f.team fun tm => { tm with
        rgnFilled := SMap.set false tm.rgnFilled k false, rgnFill := SMap.set 0 tm.rgnFill k 0
        rgnctl := SMap.set 0 tm.rgnctl k (if v.getLsbD 48 = true ∧ tm.rgnFits k v = false then SMap.get 0 tm.rgnctl k &&& 0xFFFEFFFFFFFFFFFF
          else v &&& 0x18FFF00001FFF) })) ∧
    (tm.harbour = false → y.toNat ∈ discarded → does p) ∧
    (tm.harbour = true →
      (y = 0x002 → does { p with cache := { p.cache with tstick := if v.toNat % 2 ^ 16 = 0 then p.cache.tstick else low v 16 } }) ∧
      (y = 0x003 → does { p with cache := { p.cache with lease := if v.toNat % 2 ^ 16 = 0 then p.cache.lease else low v 16 } }) ∧
      (y = 0x019 → does (p.updFn tm.fn fun c => { c with prebud := low v 32 })) ∧
      (y = 0x800 → does { p with part := { p.part with hvf := SMap.set 0 p.part.hvf tm.core (v.toNat % 16) } }) ∧
      (y = 0x801 → v.toNat % 16 ≤ 8 → does { p with part := { p.part with split := SMap.set 0 p.part.split tm.core (v.toNat % 16) } }) ∧
      (y = 0x801 → 8 < v.toNat % 16 → does p) ∧
      (y = 0x010 → lanes fun v th => { th with trapCause := low v 8 }) ∧
      (y = 0x011 → lanes fun v th => { th with trapPc := low v 48, trapPt := { hdr := v.setWidth 48 } }) ∧
      (y = 0x012 → lanes fun v th => { th with trapAddr := low v 48 }) ∧ (y = 0x034 → lanes fun v th => { th with weight := v }) ∧
      (y.toNat ∈ fixed → lanes fun _ th => th))) ∧
  ∀ (n k : Nat) (w : BitVec 64),
    (s.hasTeam n = true → exec (.sperrClear n) s = .next (s.updTeam n fun tm => { tm with sperr := 0 })) ∧
    (s.hasGrp n k = true → exec (.fpmodeWrite n k w) s = .next (s.updGrp n k fun g => { g with fpmode := w &&& 0xFFFFFFFF0000000F, srcnt := 0 })) ∧
    (s.hasTeam n = true → k < 8 → (s.team n).rgnEn k = false → exec (.rgnctlWrite n k w) s = .next (s.updTeam n fun tm => { tm with
      rgnctl := SMap.set 0 tm.rgnctl k (if w.getLsbD 48 = true ∧ tm.rgnFits k w = false then SMap.get 0 tm.rgnctl k &&& 0xFFFEFFFFFFFFFFFF
        else w &&& 0x18FFF00001FFF) })) ∧
    (coreExists n = true → exec (.hvfWrite n w) s = .next { s with part := { s.part with hvf := SMap.set 0 s.part.hvf n (w.toNat % 16) } })

/-- NOP does nothing. IDEND ends the team's discardable period. YIELD gives up the group's place where another group of the core is READY.
TIMER arms an entry of the function's table of 64 and says so in p[K]; in a transaction it is held. HALTT halts every other group of its team
once their results exist, and HALTT_REL clears every halt mark. PREEND marks its lanes as having ended their save, and returns spent ones,
which may complete their group's arrival at a barrier (R52, R62, R253, R254, R258–R260). -/
def Obligations.SchedulingInstructions : Prop := ∀ (sm : Bool) (d : BitVec 5) (k : BitVec 3) (f : Focus) (s : State),
  let tm := s.team f.team
  (Safe.Issues (.nop sm) f s → Safe.Does (.nop sm) f sm s s) ∧
  (Safe.Issues (.idend sm) f s → Safe.Does (.idend sm) f sm s (s.updTeam f.team fun tm => { tm with discardable := false })) ∧
  (Safe.Issues (.yield sm) f s → Safe.Does (.yield sm) f sm s (if s.groupsOn tm.core (fun _ g => g.st = .ready) = [] then s
    else Safe.onGrp f s fun g => { g with st := .ready, since := s.clk.cycle, pace := g.pace.rest }.rewind)) ∧
  (let i := Instr.timer sm d k
   let addr := (Safe.src i f s 0 (lowLane f.lanes)).toNat % 2 ^ 48
   let at_ := Safe.src i f s 1 (lowLane f.lanes)
   let answers (s : State) (b : Bool) : State := Safe.onGrp f s fun g => overLanes f.lanes (fun l g => g.wrP k.toNat l b) g
   Safe.Issues i f s →
     ((Safe.grp f s).tx = none → addr % 128 = 0 → (s.fn tm.fn).timers.length < 64 → Safe.Does i f sm s
       (answers (s.updFn tm.fn fun c => { c with timers := c.timers ++ [{ addr := addr, at_ := at_, harbour := tm.harbour }] }) true)) ∧
     ((Safe.grp f s).tx = none → addr % 128 = 0 → 64 ≤ (s.fn tm.fn).timers.length → Safe.Does i f sm s (answers s false)) ∧
     (∀ x, (Safe.grp f s).tx = some x → x.parts &&& f.lanes ≠ 0 → ∃ t, exec i s = .next t ∧ Safe.OnlyGroup f s t ∧ Safe.GoesOn f sm s t ∧
       (Safe.grp f t).tx = some (x.updData fun e =>
         { e with held := e.held ++ [.timer addr at_ ((List.range (lanesOf f.lanes).length).map (s.clk.ids + ·))] }) ∧
       (Safe.grp f t).out = (Safe.grp f s).out ++ (lanesOf f.lanes).zipIdx.map fun e =>
         { id := s.clk.ids + e.2, seq := s.clk.seq, kind := .other, lane := e.1, lanes := f.lanes, file := .p, reg := k.toNat, val := 0, ready := false })) ∧
  (Safe.Issues (.haltt sm) f s → (∀ e ∈ ((s.updTeam f.team fun tm => tm.haltOthers f.grp s.clk.cycle).team f.team).groups, e.1 ≠ f.grp →
      e.2.unready 0xFFFFFFFF = false) → ∃ t, exec (.haltt sm) s = .next t ∧
    Safe.Moved f (Safe.place f s) sm ((s.updTeam f.team fun tm => tm.haltOthers f.grp s.clk.cycle).updTeam f.team fun tm =>
      tm.mapGroups fun k g => if k = f.grp then g else g.settle 0xFFFFFFFF) t ∧
    ∀ j, s.hasGrp f.team j = true → j ≠ f.grp →
      ((s.grp f.team j).st ≠ .done → (t.grp f.team j).halt = true) ∧
      ((s.grp f.team j).halt = false → ((s.grp f.team j).st = .ready ∨ (s.grp f.team j).st = .active) → (t.grp f.team j).st = .parked)) ∧
  (Safe.Issues (.halttRel sm) f s → ∃ t, exec (.halttRel sm) s = .next t ∧ Safe.Moved f (Safe.place f s) sm (s.unhalt f.team) t ∧
    ∀ j, (t.grp f.team j).halt = false) ∧
  (Safe.Issues (.preend sm) f s → Safe.DoesPlaced (.preend sm) f sm 0 s ((Safe.onGrp f s fun g => overLanes f.lanes (fun l g =>
    if (g.th l).spent then g.eret (laneBit l) false else g.updTh l fun th => { th with preended := true }) g).tryArrive f.team f.grp))

/-- Reservation records of a pair's matrix unit. OB_RES reads a descriptor and gives the lowest free handle of the team, or 63 when the team
has 16 or the pair 48; OB_SETS and OB_SETZ write SOFF and ZOFF; OB_REL and TILE_UNPIN join the matrix queue; TILE_FETCH binds a tile whose
pages translate, and TILE_PIN pins the next binding with its lines and bytes. A handle that names no record raises cause 0x0A (R262, R265–R272). -/
def Obligations.MatrixRecords : Prop := ∀ (sm : Bool) (d a b : BitVec 5) (f : Focus) (s : State),
  let core := (s.team f.team).core
  let p := s.pairOf core
  let w (i : Instr) (k : Nat) : Nat := (Safe.src i f s k (lowLane f.lanes)).toNat
  let queued (i : Instr) (op : MtxOp) : State := (s.enqueueMtx (Safe.iss i f s) op).settleMtx (core / 2) 16
  let record (k : Nat) (r : ObRec) : State := s.updPair (core / 2) fun p => p.setRec k (some r)
  (let i := Instr.obRes sm d a b
   let ea := w i 0 % 2 ^ 48
   let v := w i 1
   let role := v / 2 ^ 33 % 4
   ∀ x g0 g1 g2 g3, Safe.Issues i f s → Safe.quiet s → f.lanes ≠ 0 → v / 2 ^ 35 = 0 → role ≠ 3 → ea % 32 = 0 →
     s.check (Safe.iss i f s).rg core .load false ea = .ok x →
     (((s.keep (Safe.iss i f s).rg ea x).claimCp f.team core x).readDesc (Safe.iss i f s) x).1 = ([g0, g1, g2, g3], false) →
     descBad g0 g1 g2 g3 = false → (role ≠ 2 → bit g0 53 = false ∧ bit g0 54 = false) →
     (role = 2 → bit v 32 = false ∧ (bit g0 54 = true ∨ [0, 1, 2, 3, 4, 5, 6, 10, 28].contains (bf g0 52 48) = true)) →
     ∃ t, exec i s = .next t ∧ Safe.Accesses f s { t with mtx := s.mtx } ∧ Safe.MovesOn f sm s t ∧
       (∀ j, j ≠ core / 2 → (SMap.get {} t.mtx j : PairMtx) = SMap.get {} s.mtx j) ∧
       (16 ≤ p.recCount f.team ∨ p.freeRec = none → Safe.Comes f t .w (lowLane f.lanes) d.toNat 63 false ∧ t.pairOf core = p) ∧
       ∀ k, p.recCount f.team < 16 → p.freeRec = some k →
         Safe.Comes f t .w (lowLane f.lanes) d.toNat (BitVec.ofNat 64 (p.freeHandle f.team)) false ∧
         t.pairOf core = p.setRec k (some { team := f.team, handle := p.freeHandle f.team, d0 := BitVec.ofNat 64 g0, d1 := BitVec.ofNat 64 g1,
                                            d2 := BitVec.ofNat 64 g2, scale := BitVec.ofNat 32 v, sclp := bit v 32, role := role })) ∧
  (∀ (i : Iss) x, Safe.quiet s → x.kind = 0 → x.coh = 0 → (s.readDesc i x).1 =
    ((List.range 4).map fun j => s.rd (x.key + 8 * j) 8, (List.range 4).any fun j => s.isPoison (x.key + 8 * j) 8)) ∧
  (∀ k r, p.recOf f.team (w (.obRel sm a) 0) = some (k, r) → p.full = false → Safe.Issues (.obRel sm a) f s →
    Safe.Does (.obRel sm a) f sm s (queued (.obRel sm a) (.obRel k)) ∧ (p.queue = [] → (queued (.obRel sm a) (.obRel k)).pairOf core = p.setRec k none)) ∧
  (let i := Instr.obSets sm a b
   ∀ k r, p.recOf f.team (w i 0) = some (k, r) → w i 1 < 4096 → w i 1 % 64 = 0 → Safe.Issues i f s →
     Safe.Does i f sm s (record k { r with soff := w i 1 })) ∧
  (let i := Instr.obSetz sm a b
   ∀ k r, p.recOf f.team (w i 0) = some (k, r) → w i 1 < 1024 → w i 1 % 16 = 0 → Safe.Issues i f s →
     Safe.Does i f sm s (record k { r with zoff := w i 1 })) ∧
  (let i := Instr.tileUnpin sm a
   ∀ k r, handleBad (w i 0) = false → p.recOf f.team (w i 0 % 16) = some (k, r) → r.role ≤ 1 → p.full = false → Safe.Issues i f s →
     Safe.Does i f sm s (queued i (.unpin k (bit (w i 0) 8)))) ∧
  (let i := Instr.tileFetch sm a b
   let row0 := w i 1 % 2 ^ 32
   let k0 := w i 1 / 2 ^ 32
   ∀ k r xs, handleBad (w i 0) = false → p.recOf f.team (w i 0 % 16) = some (k, r) → r.role ≤ 1 → k0 % mStepK r.fmt = 0 →
     r.soff + tileScales r.fmt ≤ 4096 → r.zoff + tileZeros r.fmt ≤ 1024 → r.binds.length < 2 →
     s.xlatePages (Safe.iss i f s) .load tileBar (spanPages (r.tileSpans row0 k0)) = .ok xs → Safe.Issues i f s →
     ∃ t, exec i s = .next t ∧ Safe.GoesOn f sm s t ∧ t.mem = s.mem ∧ Safe.sameOut (Safe.grp f t) (Safe.grp f s) = Safe.grp f s ∧
       t.pairOf core = p.setRec k (some { r with binds := r.binds ++ [{ row0 := row0, k0 := k0, keep := bit (w i 0) 8, st := 1, grp := f.grp,
                                                                        seq := s.clk.seq, capS := r.soff, capZ := r.zoff, map := s.linesOf xs (r.tileSpans row0 k0) }] })) ∧
  (∀ i, i = .obRel sm a ∨ i = .obSets sm a b ∨ i = .obSetz sm a b → Safe.Issues i f s → Safe.calm f s → p.recOf f.team (w i 0) = none →
    ∃ t, exec i s = .next t ∧ Safe.TrapsTo f 0x0A (fun _ => 0) s t) ∧
  ∀ pair k r n e, SMap.get none (SMap.get {} s.mtx pair : PairMtx).recs k = some r → s.nextPin r = some (n, e) → s.lh.keyless = [] → s.ras.lost = [] →
    let pinned : Binding := { e with st := 2, lines := s.tileLines e, data := s.tileData e r, poison := (s.tileLines e).any fun l => s.isPoison (l * 128) 128 }
    ∃ t, exec (.tilePin pair k) s = .next t ∧ { t with clk := { t.clk with ids := s.clk.ids }, ras := { t.ras with chans := s.ras.chans } } =
      s.updPair pair fun p => p.setRec k (some { r with binds := r.binds.set n pinned })

/-- Accumulator banks. ACC_ACQ holds its group until ACC_GRANT has given it banks: as many as it asked for, the lowest free ones, numbered
from 0. ACC_REL and ACC_ZERO join the matrix queue, ACC_ZERO once it has made the tile clear; ACC_RD gives x[D] a row of the bank, two
32-bit elements or one FP64 element in a lane, zeros of a clear tile and NaN of a flagged row, after the operations before it. Without a grant ACC_REL raises cause 0x0C (R262, R273–R276). -/
def Obligations.AccumulatorBanks : Prop := ∀ (sm : Bool) (d : BitVec 6) (a b : BitVec 5) (f : Focus) (s : State),
  let core := (s.team f.team).core
  let p := s.pairOf core
  let w (i : Instr) (k : Nat) : Nat := (Safe.src i f s k (lowLane f.lanes)).toNat
  (let i := Instr.accAcq sm a
   Safe.Issues i f s →
     (p.granted.contains (f.team, f.grp) = true → Safe.Does i f sm s (s.updPair (core / 2) fun p => { p with granted := p.granted.erase (f.team, f.grp) })) ∧
     (p.granted.contains (f.team, f.grp) = false → 1 ≤ w i 0 → w i 0 ≤ 32 → p.grant f.team f.grp = [] →
       (∀ e ∈ p.reqs, ¬ (e.1 = f.team ∧ e.2.1 = f.grp)) → ∃ t, exec i s = .next t ∧
         Safe.Held f (s.updPair (core / 2) fun p => { p with reqs := p.reqs ++ [(f.team, f.grp, w i 0)] }) t)) ∧
  (∀ pair tm g n rest, let q : PairMtx := SMap.get {} s.mtx pair
    q.reqs = (tm, g, n) :: rest → n ≤ q.freeBanks.length → ∃ t, exec (.accGrant pair) s = .next t ∧ { t with mtx := s.mtx } = s ∧
      let r : PairMtx := SMap.get {} t.mtx pair
      r.reqs = rest ∧ r.granted = q.granted ++ [(tm, g)] ∧ r.recs = q.recs ∧ r.queue = q.queue ∧
      (∀ j, j < n → SMap.get none r.banks (q.freeBanks.getD j 0) = some { team := tm, grp := g, idx := j }) ∧
      ∀ k, k ∉ q.freeBanks.take n → SMap.get none r.banks k = SMap.get none q.banks k) ∧
  (let i := Instr.accRel sm
   let banks := (p.grant f.team f.grp).map fun e => e.1
   (Safe.Issues i f s → banks ≠ [] → p.full = false →
     Safe.Does i f sm s ((s.enqueueMtx (Safe.iss i f s) (.accRel banks)).settleMtx (core / 2) 16)) ∧
   (Safe.Issues i f s → banks = [] → Safe.calm f s → ∃ t, exec i s = .next t ∧ Safe.TrapsTo f 0x0C (fun _ => 0) s t)) ∧
  (let i := Instr.accZero sm a
   ∀ e, p.nameable f.team f.grp (w i 0) = some e → p.full = false → Safe.Issues i f s →
     let banks := p.tileBanks f.team f.grp e
     Safe.Does i f sm s (((s.updPair (core / 2) fun p => banks.foldl (fun p k => p.updBank k fun c =>
       { c with st := .clear, sA := 0x3F800000, sB := 0x3F800000 }) p).enqueueMtx (Safe.iss i f s) (.accZero banks)).settleMtx (core / 2) 16)) ∧
  (let i := Instr.accRd sm d a b
   let row := w i 1
   ∀ e, p.nameable f.team f.grp (w i 0) = some e → SMap.get none p.banks e.1 = some e.2 → p.queue = [] → e.2.poison.getLsbD (row % 64) = false →
     Safe.Issues i f s →
     let gives (v : Nat → Word) : Prop := ∃ t, exec i s = .next t ∧ Safe.GoesOn f sm s t ∧ t.mem = s.mem ∧ ∀ l, f.lanes.getLsbD l = true →
       (d.toNat < 60 → Safe.Comes f t .x l d.toNat (v l) false) ∧
       (60 ≤ d.toNat → ((Safe.grp f s).port l (d.toNat - 60)).pushed < (SMap.get {} (s.team f.team).streams (d.toNat - 60) : Stream).count →
         Safe.Comes f t .port l (d.toNat - 60) (v l) false)
     let el (j : Nat) : Nat := if e.2.flags.getLsbD (row % 64) = true then tileNan e.2.st else (SMap.get 0 e.2.val (64 * (row % 64) + j)).toNat
     (row < 64 → e.2.st = .clear → gives fun _ => 0) ∧
     (row < 64 → e.2.st = .fp32 ∨ e.2.st = .int32 → gives fun l => BitVec.ofNat 64 (el (2 * l) + 2 ^ 32 * el (2 * l + 1))) ∧
     (row < 128 → e.2.st = .fp64lo → gives fun l => BitVec.ofNat 64 (el (32 * (row / 64) + l))))

/-- MMA and MMA_ACC queue the product of the oldest bindings of two records, A with role 0 and B with role 1, of paired formats, into a bank
of the group's grant; a binding that a shoot-down has made stale is translated again first. MMA_RETIRE performs the oldest once both bindings
are pinned: the bank takes the update, and each binding goes unless it is kept; INT32 elements take the sum modulo 2^32, FP32 ones the product
rounded once and, accumulating, the sum rounded once. TILE_DRAIN and TILE_DRADD queue the writing of a tile to a record with role 2, in the
window or at pages that translate; DRAIN_DONE sends the stores of a plain drain out, one for each aligned 8-byte unit, and performs a summing
one at its destination (R151, R263, R264, R277–R279, R347). -/
def Obligations.MatrixProducts : Prop := ∀ (sm : Bool) (d a b : BitVec 5) (f : Focus) (s : State),
  let core := (s.team f.team).core
  let p := s.pairOf core
  let w (i : Instr) (k : Nat) : Nat := (Safe.src i f s k (lowLane f.lanes)).toNat
  let queues (i : Instr) (op : MtxOp) (sw hc : Bool) (recs : PairMtx → PairMtx) : Prop := ∃ t, exec i s = .next t ∧ t.mem = s.mem ∧
    (t.pairOf core).queue = p.queue ++ [{ team := f.team, grp := f.grp, lanes := f.lanes, seq := s.clk.seq, sw := sw, hc := hc, op := op }] ∧
    (t.pairOf core).recs = (recs p).recs ∧
    (∀ l r, r < 64 → (Safe.grp f t).xr l r = (Safe.grp f s).xr l r) ∧ (Safe.grp f t).w = (Safe.grp f s).w ∧ (Safe.grp f t).p = (Safe.grp f s).p ∧
    ∀ l, f.lanes.getLsbD l = true → ((Safe.grp f s).th l).pt = Safe.place f s → ((Safe.grp f s).th l).run = .running →
      ((Safe.grp f t).th l).pt = (Safe.place f s).next
  (∀ acc i, i = (if acc then Instr.mmaAcc sm d a b else Instr.mma sm d a b) → ∀ ra rb ca cb ca' cb' e, Safe.Issues i f s →
    p.recOf f.team (w i 0) = some (ra, ca) → p.recOf f.team (w i 1) = some (rb, cb) → ca.role = 0 → cb.role = 1 →
    p.unclaimed ra ca ≠ [] → p.unclaimed rb cb ≠ [] → mPairs ca.fmt cb.fmt = true → p.nameable f.team f.grp (w i 2) = some e →
    (mAcc ca.fmt = .fp64lo → p.bankOf f.team f.grp (w i 2 + 1) ≠ none) →
    (acc = false ∨ e.2.st = .clear ∨ (e.2.st = mAcc ca.fmt ∧ e.2.sA = ca.scaleBits ∧ e.2.sB = cb.scaleBits)) →
    s.restale (Safe.iss i f s) ca (ca.binds.length - (p.unclaimed ra ca).length) = .ok ca' →
    s.restale (Safe.iss i f s) cb (cb.binds.length - (p.unclaimed rb cb).length) = .ok cb' → p.full = false →
    ∃ hi cl, queues i (.mma acc (mAcc ca.fmt) e.1 hi cl ra rb) false false fun p => (p.setRec ra (some ca')).setRec rb (some cb')) ∧
  (∀ (i : Iss) r n, (∀ x ∈ r.binds, x.stale = false) → s.restale i r n = .ok r) ∧
  (∀ pair n e acc st bk hi cl ra rb ca cb ba bb k, let q : PairMtx := SMap.get {} s.mtx pair
    (q.ready.find? fun e => e.2.op.isMma) = some (n, e) → e.op = .mma acc st bk hi cl ra rb → SMap.get none q.recs ra = some ca →
    SMap.get none q.recs rb = some cb → ra ≠ rb → SMap.get none q.banks bk = some k → bk ∉ hi.toList ++ cl →
    ca.binds.head? = some ba → cb.binds.head? = some bb → ba.st = 2 → bb.st = 2 → ∃ u : State, exec (.mmaRetire pair) s = .next (u.settleMtx pair 16) ∧
      { u with mtx := s.mtx } = s ∧ (∀ j, j ≠ pair → (SMap.get {} u.mtx j : PairMtx) = SMap.get {} s.mtx j) ∧
      let v : PairMtx := SMap.get {} u.mtx pair
      v.queue = q.queue.eraseIdx n ∧ v.reqs = q.reqs ∧ v.granted = q.granted ∧ SMap.get none v.banks bk = some (s.mmaBank st acc ca cb ba bb k) ∧
      (∀ j, j ∉ hi.toList ++ cl → j ≠ bk → SMap.get none v.banks j = SMap.get none q.banks j) ∧
      (∀ j, j ∈ hi.toList ++ cl → SMap.get none v.banks j = (SMap.get none q.banks j).map fun c => { c with val := [], flags := 0, poison := 0 }) ∧
      SMap.get none v.recs ra = some (if ba.keep = true then ca else { ca with binds := ca.binds.drop 1, old := (ca.old + 1) % 2 }) ∧
      SMap.get none v.recs rb = some (if bb.keep = true then cb else { cb with binds := cb.binds.drop 1, old := (cb.old + 1) % 2 }) ∧
      ∀ j, j ≠ ra → j ≠ rb → SMap.get none v.recs j = SMap.get none q.recs j) ∧
  (∀ acc ca cb ba bb k r c, r < 64 → c < 64 →
    let x (q : Nat) : FV := FV.mul (s.tileValue ca ba (ba.row0 + r) (ba.k0 + q)).clean (s.tileValue cb bb (bb.row0 + c) (bb.k0 + q)).clean
    let xs := (List.range (mK ca.fmt)).map x
    let old := if acc then (SMap.get 0 k.val (64 * r + c)).toNat else 0
    let prod := f32.round .rne (xs.foldl (FV.add false) (.num false 0 0)).posZero
    SMap.get 0 (s.mmaBank .int32 acc ca cb ba bb k).val (64 * r + c) = BitVec.ofNat 64 (((old : Int) + (xs.map FV.toInt).sum) % 2 ^ 32).toNat ∧
    SMap.get 0 (s.mmaBank .fp32 acc ca cb ba bb k).val (64 * r + c) =
      BitVec.ofNat 64 (if acc then f32.round .rne (FV.add false (f32.decode old) (f32.decode prod)).posZero else prod)) ∧
  (∀ add i, i = (if add then Instr.tileDradd sm d a b else Instr.tileDrain sm d a b) → ∀ k r e, Safe.Issues i f s →
    p.recOf f.team (w i 2) = some (k, r) → r.role = 2 → p.nameable f.team f.grp (w i 0) = some e → drainLegal r e.2.st = true → p.full = false →
    let row0 := w i 1 % 2 ^ 32
    let col0 := w i 1 / 2 ^ 32
    let size := drainSize r.raw r.fmt e.2.st
    let rows := r.drainRows size row0 col0
    let op (lines : List TileLine) : MtxOp := .drain add e.2.st e.2.sA e.2.sB k (p.tileBanks f.team f.grp e) row0 col0 lines
    p.ready.find? (fun e => !e.2.op.isMma && !e.2.op.isDrain) = none →
    (r.sp = true → (∀ x ∈ rows, x.2.1 + x.2.2 * size ≤ (s.team f.team).spl * 128) → queues i (op []) false true id) ∧
    (r.sp = false → ∀ xs, s.xlatePages (Safe.iss i f s) .store (fun x => x.kind != 0 || x.coh = 2 || x.home = 1)
        (spanPages (rows.map fun x => (x.2.1 % 2 ^ 48, x.2.2 * size))) = .ok xs →
      let ls := s.linesOf xs (rows.map fun x => (x.2.1, x.2.2 * size))
      queues i (op ls) (ls.any fun l => l.coh = 1) (ls.any fun l => l.coh = 0) id)) ∧
  ∀ pair n e add st sA sB k bs row0 col0 ls r c, let q : PairMtx := SMap.get {} s.mtx pair
    let ds := q.ready.filter fun e => e.2.op.isDrain
    let us := s.drainUnits e st sA sB r c row0 col0 ls
    let size := drainSize r.raw r.fmt st
    let after (u : State) : State := (u.updPair pair fun p => { p with queue := p.queue.eraseIdx n }).settleMtx pair 16
    ds[(s.free 5).toNat % ds.length]? = some (n, e) → e.op = .drain add st sA sB k bs row0 col0 ls → SMap.get none q.recs k = some r →
    SMap.get none q.banks (bs.headD 0) = some c →
    (add = true → c.poison = 0 ∨ s.errHeld (s.team e.team).fn = false →
      exec (.drainDone pair) s = .next (after (s.performDrain e st sA sB r c row0 col0 ls))) ∧
    (add = false → exec (.drainDone pair) s = .next (after (s.sendUnits (s.team e.team) us))) ∧
    (s.sendUnits (s.team e.team) us).stores.length = s.stores.length + us.length ∧
    (∀ x ∈ us, x.team = e.team ∧ x.grp = e.grp ∧ x.performed = false ∧ x.remote = false ∧ x.rmw = none ∧ x.size ≤ 8) ∧
    ∀ x u, x ∈ r.drainRows size row0 col0 → u ∈ cutSpans 8 x.2.1 (x.2.2 * size) → r.sp = true → ∃ y ∈ us, y.key = u.1 ∧ y.size = u.2 ∧
      y.val = BitVec.ofNat 64 (drainRow s false r st sA sB c size x.1 x.2.2 0 / 2 ^ (8 * (u.1 - x.2.1)) % 2 ^ (8 * u.2))
/-- Steps that the device makes for a group. A group that has waited 32 cycles leaves the active set while another of its core is READY,
and a parked one whose dependences are satisfied, and that waits for no REPLAY, becomes READY; one READY for 1,024 cycles takes the place of the youngest active group of the lowest
priority. Behind a complete barrier it goes on; asleep for 100 µs it wakes, parked where it is halted. An inbound element joins its port
and an outbound one leaves its own. A result that arrives is written, unless a later write stands; a load of another
package's memory may be performed only then; poison is kept for the lane's next stop
point, where it is taken as cause 0x08; a load from a host whose link is down does not return (R51, R52, R54, R56, R82, R91, R95, R100, R206,
R210, R431, R448). A demand fault parks a group of a harbour core until REPLAY (R438). -/
def Obligations.GroupEvents : Prop := ∀ (t n l q op : Nat) (s : State), s.hasGrp t n = true →
  let tm := s.team t
  let g := s.grp t n
  let on (h : Group → Group) : State := s.updGrp t n h
  let isReady (tm' : Team) (h : Group) : Prop := tm'.core = tm.core ∧ tm'.st = .resident ∧ h.st = .ready ∧ h.halt = false ∧ h.barOff = none
  (tm.st = .resident → g.st = .active → g.pace.since ≠ 0 → g.pace.since + 31 ≤ s.clk.cycle → g.pace.holding = true ∨ s.issues t n = [] →
    (∃ e ∈ s.teams, ∃ h ∈ e.2.groups, isReady e.2 h.2) →
    exec (.groupPark t n) s = .next (on fun g => { g with st := .parked, since := s.clk.cycle, pace := g.pace.rest }.rewind)) ∧
  (tm.runs = true → g.st = .parked → g.halt = false → g.awaits = none → (∃ m, m ∈ s.issues t n) → (∀ k ∈ g.pace.needs, s.touch t k ≠ .absent) →
    (∀ k, k < 32 → (g.th k).run ≠ .exited → ((g.th k).waitRes = true → s.waits t n k = false) ∧ ((g.th k).run = .running → s.wordWaits t n k = false)) →
    exec (.groupUnpark t n) s = .next (on fun g => { g with st := .ready, since := s.clk.cycle, pace := g.pace.rest })) ∧
  (∀ a b, oldest (s.overdue tm.core) = some (t, n, a, b) →
    let act := s.groupsOn tm.core fun _ g => g.st = .active
    (act.length < activeCap tm.core →
      exec (.groupPromote t n) s = .next (on fun g => { g with st := .active, since := s.clk.cycle, pace := g.pace.rest })) ∧
    ∀ u k x y, activeCap tm.core ≤ act.length → youngest act = some (u, k, x, y) → exec (.groupPromote t n) s =
      .next ((s.updGrp u k fun g => { g with st := .ready, since := s.clk.cycle, pace := g.pace.rest }.rewind).updGrp t n fun g =>
        { g with st := .active, since := s.clk.cycle, pace := g.pace.rest })) ∧
  (tm.st = .resident → g.st = .barrier ∨ g.st = .ready ∨ g.st = .parked → g.cont = true → g.halt = false → ∃ h, exec (.barrierContinuation t n) s = .next (on fun _ => h) ∧
    h.st = .ready ∧ h.barOff = none ∧ h.cont = false ∧ (∀ k, (h.th k).pt = (g.th k).pt) ∧
    ∀ k off, k < 32 → (g.th k).run = .barv off → (h.th k).run = .running) ∧
  (g.st = .sleep → 100000 ≤ s.since g.sleepTime → exec (.txSleepTimeout t n) s =
    .next { on fun g => { g with st := if g.halt then .parked else .ready, since := s.clk.cycle, pace := g.pace.rest } with
      cache := { s.cache with wake := s.cache.wake.filter fun e => e.2 != (t, n) } }) ∧
  (let st : Stream := SMap.get {} tm.streams q
   let p := g.port l q
   let i := p.popped + p.got.length
   let w : Who := { t := t, g := n, lane := l, core := tm.core }
   l < 32 → q < 4 → st.en = true →
   (∀ x v e, st.out = false → (s.ext.hostDown = false ∨ x.kind ≠ 1) → tm.runs = true → g.st = .active → (g.th l).run ≠ .exited → i < st.count → p.got.length < 16 →
     s.check tm.regime tm.core .load false (st.addr tm.lin n l i) = .ok x →
     (((s.keep tm.regime (st.addr tm.lin n l i) x).claimCp t tm.core x).chargeAccess t tm.regime tm.core l true x).readAt w x (2 ^ st.esz) = ((v, false), e) →
     exec (.streamLoad t n l q) s =
       .next (e.updGrp t n fun g => g.updPort l q fun p => { p with got := p.got ++ [BitVec.ofNat 64 v] })) ∧
   ∀ x v rest, st.out = true → tm.st = .resident → p.push = some v :: rest →
     s.check tm.regime tm.core .store false (st.addr tm.lin n l p.stored) = .ok x →
     exec (.streamLoad t n l q) s =
       .next (((((s.keep tm.regime (st.addr tm.lin n l p.stored) x).claimCp t tm.core x).chargeAccess t tm.regime tm.core l false x).storeAt w x (2 ^ st.esz) v.toNat).updGrp t n
         fun g => g.updPort l q fun p => { p with push := p.push.drop 1, stored := p.stored + 1 })) ∧
  (∀ p, g.out.find? (fun r => decide (r.id = op)) = some p → (s.ext.hostDown = false ∨ p.remote ≠ 2 ∨ p.poison = true ∨ p.kind = .sf) →
    p.ready = true → p.lane < 32 → p.file = .x → p.reg < 60 → g.tx = none →
    let v : Word := if p.kind = .sf then p.val else match p.src with
      | some (k, m, sg) => BitVec.ofInt 64 (val sg (8 * m) (s.rd k m))
      | none => p.val
    let bad : Bool := if p.kind = .sf then p.poison else match p.src with
      | some (k, m, _) => p.poison || s.isPoison k m
      | none => p.poison
    ∃ h, exec (if p.kind = .sf then .sfuResult t n op else .loadReturn t n op) s = .next (on fun _ => h) ∧ (∀ r ∈ h.out, r.id ≠ op) ∧
      (bad = false → ∀ k r, r < 64 → h.xr k r = if k = p.lane ∧ r = p.reg ∧ p.live = true then v else g.xr k r) ∧
      (bad = true → (∀ k r, h.xr k r = g.xr k r) ∧
        ((g.th p.lane).run ≠ .exited → (h.th p.lane).poison = some ((g.th p.lane).poison.getD p.addr)))) ∧
  (∀ p, g.out.find? (fun r => decide (r.id = op) && decide (r.kind ≠ .sf) && r.ready) = some p → s.ext.hostDown = true → p.remote = 2 → p.poison = false →
    exec (.loadReturn t n op) s = .next s) ∧
  (∀ page, (g.st = .ready ∨ g.st = .active → (g.faultPark page s.clk.cycle).st = .parked ∧ (g.faultPark page s.clk.cycle).awaits.isSome = true) ∧
    (g.st ≠ .ready → g.st ≠ .active → g.faultPark page s.clk.cycle = g)) ∧
  ∀ a pt, l < 32 → (g.th l).run ≠ .exited → (g.th l).poison = some a → (g.th l).stopPt = some pt → s.poisonDue t n l = true → tm.runs = true →
    g.unready (laneBit l) = false → s.errHeld tm.fn = false → (g.th l).inTrap = false → (g.th l).inSave = false → g.tx = none → tm.trapvec ≠ 0 →
    ∃ u, exec (.poisonConsumed t n l) s = .next u ∧ u.mem = s.mem ∧
      let th := (u.grp t n).th l
      th.trapCause = 0x08 ∧ th.trapPc = (s.stopAt tm.regime pt).addr.setWidth 64 ∧ th.inTrap = true ∧ ((∀ r ∈ g.out, r.lanes &&& laneBit l = 0) → th.poison = none) ∧
      th.pt = .header (tm.trapvec.setWidth 48) ∧ th.run = .running ∧
      th.trapAddr = BitVec.ofNat 64 (if a < 2 ^ 50 then a else if a < 2 ^ 51 then a - 2 ^ 50 else a - 2 ^ 51)

/-- Steps that the device makes for a team. The dispatcher places the next team of a grid on the core that takes it: its groups start as
R33 says, the leader with its share; a returning team is restored, a discarded one starts anew. An item blocked for 100 µs reserves its core.
A batch pushes its next command as its record's. A team stopped by a demand fault is saved to a frame; without one its groups park. At its
end it releases what it holds and, its stores drained, its weight returns and its record is told. A kill stops its groups and then ends it, its record of R404 in between. A forced save discards a
discardable team, saves another to a frame, and kills it without one. A fill brings a region's next line; a timer past its time decrements
its record (R31, R33, R45–R47, R57–R63, R72, R260, R365, R419). -/
def Obligations.TeamEvents : Prop := ∀ (t id : Nat) (s : State),
  let tm := s.team t
  let g := s.grid id
  (∀ core, s.nextItem = some (.grid id, core) → bit (tdw g.img 0) 14 = false → g.nteams ≠ 0 → ∃ u, exec (.teamDispatch id) s = .next u ∧
    let n := s.clk.ids
    let k := g.next
    (u.team n).core = core ∧ (u.team n).st = .resident ∧ (u.team n).lin = k ∧ (u.team n).fn = g.fn ∧ (u.team n).harbour = g.harbour ∧
    (u.team n).entry = BitVec.ofNat 48 (recEntry g.img) ∧ (u.team n).streams = [] ∧ (u.team n).kill = none ∧
    (u.team n).groups.map (·.1) = List.range (recGpt g.img) ∧
    ∀ j, j < recGpt g.img → (u.grp n j).st = .ready ∧ (u.grp n j).tx = none ∧ (u.grp n j).enr = [] ∧ (u.grp n j).arr = [] ∧ (u.grp n j).p = [] ∧
      (∀ l r, l < 32 → r < 64 → (u.grp n j).xr l r = if r = 0 then BitVec.ofNat 64 l else 0) ∧
      (u.grp n j).wr 0 = BitVec.ofNat 64 (recArgs g.img) ∧ (u.grp n j).wr 1 = BitVec.ofNat 64 k ∧
      (u.grp n j).wr 2 = BitVec.ofNat 64 (k % dimX g.dims.toNat + 2 ^ 16 * (k / dimX g.dims.toNat % dimY g.dims.toNat) +
        2 ^ 32 * (k / dimX g.dims.toNat / dimY g.dims.toNat)) ∧
      (u.grp n j).wr 3 = BitVec.ofNat 64 j ∧ (u.grp n j).wr 4 = BitVec.ofNat 64 (recGpt g.img) ∧
      (u.grp n j).wr 5 = BitVec.ofNat 64 (dimTeams g.dims.toNat) ∧
      ∀ l, l < 32 → ((u.grp n j).th l).pt = .header (BitVec.ofNat 48 (recEntry g.img)) ∧ ((u.grp n j).th l).depth = BitVec.ofNat 4 (s.recDepth g) ∧
        ((u.grp n j).th l).weight = if j = 0 ∧ l = 0 ∧ recRoot g.img ≠ 0
          then BitVec.ofNat 64 ((recWeight g.img - 1) / g.nteams + if k < (recWeight g.img - 1) % g.nteams then 1 else 0) else 0) ∧
  (∀ core, s.nextItem = some (.team t, core) → tm.st = .saved →
    (∀ j, s.hasGrp t j = true → (s.grp t j).barOff ≠ none ∨ (s.grp t j).live = 0 ∨ ∃ l, l < 32 ∧ ((s.grp t j).th l).run ≠ .exited ∧ ∀ o, ((s.grp t j).th l).run ≠ .barv o) →
    ∃ u, exec (.teamDispatch t) s = .next u ∧ u.mem = s.mem ∧
    (u.team t).core = core ∧ (u.team t).st = .resident ∧ (u.team t).sp = tm.sp ∧
    ∀ j, s.hasGrp t j = true → (s.grp t j).st ≠ .done →
      (u.grp t j).st = (if (s.grp t j).halt then .parked else .ready) ∧ (u.grp t j).x = (s.grp t j).x ∧ (u.grp t j).w = (s.grp t j).w ∧
      (u.grp t j).p = (s.grp t j).p ∧ (u.grp t j).thr = (s.grp t j).thr) ∧
  (∀ p item t0 core, s.sched.queue.find? (fun e => decide ((s.readyItem e.2).1 = id)) = some (p, item) → s.blockedSince item = some t0 →
    s.coreFor item = some core → 100000 ≤ s.since t0 → (∀ r ∈ s.sched.reserved, r.2 ≠ id) →
    exec (.dispatchReserve id) s = .next { s with sched := { s.sched with reserved := s.sched.reserved ++ [(core, id)] } }) ∧
  (∀ core img qn a b, g.id = id → recKind g.img = 2 → g.st = .running → g.next < g.nteams → g.stuck = false → s.batchCore g = some core →
    let probe : Cmd := batchCmd s g core 0 g.next 0
    s.engBytes probe ((recAdesc g.img + 64 * g.next) % 2 ^ 48) 64 0 = .ok img a → a.engBytes probe ((recArgs g.img + g.next) % 2 ^ 48) 1 0 = .ok qn b →
    queueOk core qn = true → b.queued core qn < 64 → ∃ u c, exec (.engineBatchPush id) s = .next u ∧ u.eng.cmds = b.eng.cmds ++ [c] ∧ u.mem = b.mem ∧
      c.qn = qn ∧ c.core = core ∧ c.fn = g.fn ∧ c.img = BitVec.ofNat 512 img ∧ c.batch = true ∧ c.grid = id ∧ c.root = recRoot g.img ∧
      c.wfrag = BitVec.ofNat 64 (if recRoot g.img = 0 then 0 else
        (recWeight g.img - 1) / g.nteams + if g.next < (recWeight g.img - 1) % g.nteams then 1 else 0) ∧
      (b.sched = s.sched → (u.grid id).next = g.next + 1 ∧ (u.grid id).live = g.live + 1)) ∧
  (∀ d, tm.regions = [] → s.hasTeam t = true → tm.st = .resident → tm.kill = none → s.allExited t = true → s.teamIdle t = true →
    tm.released = false → tm.origin = .grid d → tm.carry = 0 →
    let r := s.releaseTeam t
    (r.teamDrained t = false → exec (.teamEnd t) s = .next r) ∧
    (r.teamDrained t = true →
    let q := (r.updGrid d fun h => { h with impl := h.impl + (r.team t).impl }).unqueue (.team t) t
    exec (.teamEnd t) s = .next (State.launch { q with teams := SMap.del t r.teams } (r.team t).fn (r.team t).harbour
      ((if (r.team t).root = 0 then [] else (r.team t).weights.map fun w => Deed.ret (r.team t).root w false) ++ [.itemEnd d 0])))) ∧
  (g.id = id → g ∈ s.sched.grids → s.retires g = true →
    let v := s.setRecState g (if g.failed then 5 else 4)
    exec (.gridRetire id) s = .next (State.launch { v with sched := { v.sched with grids := v.sched.grids.filter fun h => h.id != id } } g.fn g.harbour
      ((if recCrec g.img = true ∧ recRing g.img ≠ 63 then [.post (recRing g.img) (complRec (recTag g.img) (if g.failed then 1 else if g.empty then 2 else 0)
          (if g.failed then g.fault else 0) (recCarries g.img) g.impl (if recKind g.img = 1 then g.dims.toNat else 0) g.self)] else []) ++
       succDeeds g.img ++ (if recCarries g.img then [.ret (recRoot g.img) (if g.nteams = 0 then recWeight g.img else 1) g.failed] else []) ++
       (if s.recParent g = 0 then [] else [.decCpl (s.recParent g)])))) ∧
  (s.hasTeam t = true → tm.st = .resident → tm.faulted = true → tm.kill = none → s.saveReady t = true →
    (384 ≤ tm.core ∨ (s.fn tm.fn).nframes ≤ (s.fn tm.fn).used → ∃ u, exec (.demandFaultSave t) s = .next u ∧ u.mem = s.mem ∧
      (u.team t).faulted = false ∧ (u.team t).held = true ∧ ∀ j, s.hasGrp t j = true → (s.grp t j).st = .ready ∨ (s.grp t j).st = .active →
        (u.grp t j).st = .parked ∧ (u.grp t j).x = (s.grp t j).x) ∧
    (tm.core < 384 → (s.fn tm.fn).used < (s.fn tm.fn).nframes → ∃ u, exec (.demandFaultSave t) s = .next u ∧
      (u.team t).st = .saved ∧ (u.team t).faulted = false ∧ (u.team t).sp = tm.sp ∧
      ∀ j, s.hasGrp t j = true → (u.grp t j).st = if (s.grp t j).st = .done then .done else .saved)) ∧
  (s.hasTeam t = true →
    (tm.kill = none → exec (.teamKill t 0x47) s =
      .next (s.updTeam t fun tm => { tm with kill := some 0x47, killTime := s.clk.time, killAddr := 0, killKind := 0, killDetail := 0, killCount := 1 })) ∧
    (∀ c, tm.kill = some c → tm.killed = false → ∃ u, exec (.teamKill t c) s = .next u ∧ (u.team t).killed = true ∧ u.mem = s.mem ∧
      ∀ j, s.hasGrp t j = true → (u.grp t j).out = [] ∧ (u.grp t j).tx = none ∧
        (u.grp t j).st = .done) ∧
    ∀ c, tm.kill = some c → tm.killed = true → tm.released = false → tm.regions = [] → s.teamIdle t = true → (s.releaseTeam t).teamDrained t = true →
      let r := s.releaseTeam t
      let m := r.team t
      let e : ErrInfo := { time := some m.killTime, cause := c, snum := m.core, vf := m.fn, count := m.killCount, akind := m.killKind, addr := m.killAddr, item := r.teamItem t, tag := m.tag, detail := m.killDetail }
      exec (.teamKill t c) s = .next (r.dropTeam t c [.err e])) ∧
  (s.hasTeam t = true → tm.st = .resident → tm.kill = none → s.overBudget t = true → s.saveReady t = true →
    (tm.discardable = true → ∃ u, exec (.saveBudgetExpiry t) s = .next u ∧ (u.team t).st = .discarded ∧ (u.team t).groups = [] ∧ (u.team t).sp = []) ∧
    (tm.discardable = false → (s.fn tm.fn).used < (s.fn tm.fn).nframes → ∃ u, exec (.saveBudgetExpiry t) s = .next u ∧ (u.team t).st = .saved ∧
      (u.team t).saveSince = none ∧ ∀ j, s.hasGrp t j = true → (u.grp t j).st = if (s.grp t j).st = .done then .done else .saved) ∧
    (tm.discardable = false → (s.fn tm.fn).nframes ≤ (s.fn tm.fn).used → ∃ u, exec (.saveBudgetExpiry t) s = .next u ∧ (u.team t).kill = some 0x10 ∧
      { u with teams := s.teams } = s)) ∧
  (∀ k x v e, let i := tm.rgnLines k - SMap.get 0 tm.rgnFill k
    s.hasTeam t = true → tm.st = .resident → tm.kill = none → SMap.get 0 tm.rgnFill k ≠ 0 → (s.ext.hostDown = false ∨ x.kind ≠ 1) →
    s.check tm.regime tm.core .load false (tm.rgnVa k i) = .ok x →
    ((((s.keep tm.regime (tm.rgnVa k i) x).claimCp t tm.core x).charge tm.regime x 128).toChannel tm.fn tm.scls tm.dloff tm.regime.unit x).readAt (tm.unitWho t 0) x 128 = (v, e) →
    exec (.regionFillArrival t k) s = .next (e.updTeam t fun tm =>
      { tm with sp := memWrite tm.sp ((tm.rgnOff k + i) * 128) 128 v.1, rgnFill := SMap.set 0 tm.rgnFill k (SMap.get 0 (s.team t).rgnFill k - 1) }.updLine
        (tm.rgnOff k + i) fun l => { l with absent := false, modified := false, poison := v.2 })) ∧
  ∀ fn i e x a, (s.fn fn).timers[i]? = some e → e.stuck = false → e.at_ ≤ s.clk.time → s.reach fn e.harbour .store e.addr 8 true = (.ok x, a) →
    a.isPoison (x.key + 4) 4 = false →
    exec (.timerFire fn i) s = .next ((a.updFn fn fun f => { f with timers := f.timers.eraseIdx i }).launch fn e.harbour [.decPa x.pa e.addr])


/-- A store on its way is performed at its home, unless an earlier one of its thread to the line is still before it; through a twin descriptor it
goes to the backing that is active then, an atomic writes what it makes of the bytes there, a drained unit of the window stands in the window at
once. Once its parity deltas have been applied too it is acknowledged, and one that left the package no longer counts in SY.OSAT. Logical time
goes on by one for every SY.TSTICK cycles. Buckets gain what their rates give, up to their bursts (R75, R77, R82, R278, R324, R325, R340, R360).
A slice of a pool that has run its length is renewed when the next member with work is the current one; else its time is noted and its
teams leave: discardable ones are discarded, teams without a handler are to be saved by force, the others enter their handlers. SY.PREHDL and
SY.PREBUD are taken over, and work that cannot be pre-empted is measured from then on. Once the pool's cores are vacated the next member's slice
begins: the outgoing member's debt is settled, SY.HVF of the cores written, the member's saved and discarded teams queued. Bank-side work that
overruns a slice end by more than OVRLIM fails with 0x65 and the context is reset (R129, R362, R363, R368, R443). -/
def Obligations.StoresTimeAndSlices : Prop :=
  (∀ (op core fn : Nat) (s : State),
     (∀ e, s.stores.find? (fun d => decide (d.id = op)) = some e → s.ext.hostDown = true → e.remote = true → e.key < 2 ^ 61 → exec (.storeAck op) s = .next s) ∧
     (∀ e, s.stores.find? (fun d => decide (d.id = op)) = some e → (s.ext.hostDown = false ∨ e.remote = false ∨ 2 ^ 61 ≤ e.key) →
       (e.twin = none → s.storeKey e = e.key) ∧
       (∀ d act alt, e.twin = some (d, act, alt) → s.storeKey e = if s.rd d 8 / 2 ^ 63 % 2 = act then e.key else alt) ∧
       (e.performed = false → s.behind e = false → e.drain = none → s.lh.keyless = [] → ∃ u, exec (.storeAck op) s = .next u ∧
         (e.rmw = none → u.mem = memWrite s.mem (s.storeKey e) e.size e.val.toNat) ∧
         (∀ r, e.rmw = some r → s.isPoison (s.storeKey e) e.size = false →
           (∀ v, r.run (s.rd (s.storeKey e) e.size) = some v → u.mem = memWrite s.mem (s.storeKey e) e.size v) ∧
           (r.run (s.rd (s.storeKey e) e.size) = none → u.mem = s.mem)) ∧
         ∀ d ∈ u.stores, d.id = op → d.performed = true) ∧
       (∀ d, e.performed = false → s.behind e = false → e.drain = some d → d.sp = true → d.bad = false → ∃ u, exec (.storeAck op) s = .next u ∧
         u.mem = s.mem ∧ (u.team e.team).sp = memWrite (s.team e.team).sp e.key e.size e.val.toNat ∧ u.stores = s.stores.filter fun d => d.id != op) ∧
       (e.performed = true → e.deltas = [] → e.remote = false →
         exec (.storeAck op) s = .next { s with stores := s.stores.filter fun d => d.id != op }) ∧
       (e.performed = true → e.deltas = [] → e.remote = true → s.hasGrp e.team e.grp = true → exec (.storeAck op) s =
         .next (State.updGrp { s with stores := s.stores.filter fun d => d.id != op } e.team e.grp fun g =>
           g.updTh e.lane fun th => { th with osat := th.osat - 1 }))) ∧
     (∀ d, s.ras.deltas.find? (fun d => decide (d.id = op)) = some d → ∃ u, exec (.parityDeltaApply op) s = .next u ∧
       { u with clk := s.clk, ras := s.ras, stores := s.stores, eng := s.eng } = s ∧
       u.ras = { s.ras with deltas := s.ras.deltas.filter fun d => d.id != op, chans := u.ras.chans } ∧
       u.stores = s.stores.map (fun f => { f with deltas := f.deltas.filter fun d => d != op }) ∧
       u.eng = { s.eng with cmds := s.eng.cmds.map fun c => { c with deltas := c.deltas.filter fun d => d != op } }) ∧
     (let last := SMap.get 0 s.cache.ltick core
      coreExists core = true → last + s.cache.tstick.toNat ≤ s.clk.cycle → ∃ u, exec (.logicalTimeTick core) s = .next u ∧
        { u with cache := { u.cache with ltime := s.cache.ltime, ltick := s.cache.ltick } } = s ∧
        (∀ k, SMap.get 0 u.cache.ltime k = SMap.get 0 s.cache.ltime k + if k = core then 1 else 0) ∧
        SMap.get 0 u.cache.ltick core = last + s.cache.tstick.toNat) ∧
     (s.exists_ fn = true → ∃ u, exec (.sluiceTokenRefill fn) s = .next u ∧
       { u with fns := s.fns } = s ∧ (∀ k, k ≠ fn → u.fn k = s.fn k) ∧
       let c := s.fn fn
       let d := (s.clk.time - c.sluiceT).toNat
       u.fn fn = { c with mbal := min (1000 * c.mburst : Nat) (c.mbal + (c.mrate * d : Nat)), lbal := min (1000 * c.lburst : Nat) (c.lbal + (c.lrate * d : Nat)), sluiceT := s.clk.time })) ∧
  (∀ (k fn : Nat) (s : State),
     let p := s.pool k
     (p.en = true → p.cur ≠ 0 → p.endTime = none → p.curlen ≤ s.since p.start →
       let a := (s.updFn p.cur fun f =>
                 { f with preAt := f.prehdl, budAt := f.prebud, slacks := f.slacks ++ if (s.stuckFast p.cur).isEmpty then [] else [{ time := s.clk.time, lim := p.ovrlim, ids := s.stuckFast p.cur }] }).updPool k
                    fun p => { p with members := p.next.getD p.members, next := none }
       let v := a.updPool k fun p => { p with endTime := some s.clk.time, vacated := none }
       ∀ m b, a.nextMember (a.pool k) turnFuel (a.pool k).turns = (m, b) →
         (∀ len, m = some (p.cur, len) → exec (.sliceEnd k) s = .next (b.updPool k fun p => { p with start := s.clk.time, curlen := len })) ∧
         ((∀ len, m ≠ some (p.cur, len)) → (s.poolTeams k = [] → exec (.sliceEnd k) s = .next v) ∧
           ∀ t, s.poolTeams k = [t] → v.saveReady t = true → ∃ u, exec (.sliceEnd k) s = .next u ∧ (u.pool k).endTime = some s.clk.time ∧
             ((s.team t).discardable = true → (u.team t).st = .discarded) ∧
             ((s.team t).discardable = false → ((v.fn (s.team t).fn).preAt = 0 ∨ ∃ e ∈ (s.team t).groups, e.2.barOff.isSome = true ∨ e.2.halt = true ∨
                 ∃ l, l < 32 ∧ (e.2.th l).run.isRejoin = true) → u.team t = { s.team t with forceSave := true }) ∧
             ((s.team t).discardable = false → v.noHandler t = false → u.team t = { s.team t with entering := true }))) ∧
     (p.en = true → s.poolCores k ≠ [] → (p.cur = 0 ∨ p.endTime.isSome = true) → s.poolTeams k = [] → (s.fn p.cur).reset = none →
       ∀ s0, (p.endTime = none ∧ s0 = s ∨ ∃ t, p.endTime = some t ∧
           s0 = s.updFn p.cur fun f => { f with debt := if f.iface = .error then 0 else max f.debt (s.sliceDebt p t) }) →
       let a := s0.updPool k fun p => { p with members := p.next.getD p.members, next := none }
       ∀ m len b, a.nextMember (a.pool k) turnFuel (a.pool k).turns = (some (m, len), b) → m ≠ 0 →
         ∃ u, exec (.sliceStart k) s = .next u ∧ u.mem = s.mem ∧ u.teams = s.teams ∧ u.fns = b.fns ∧
           (u.pool k).cur = m ∧ (u.pool k).curlen = len ∧ (u.pool k).start = s.clk.time ∧ (u.pool k).endTime = none ∧
           (∀ c, SMap.get 0 u.part.hvf c = if c ∈ s.poolCores k then m else SMap.get 0 s.part.hvf c) ∧
           ∃ l, u.sched.queue = s.sched.queue ++ l) ∧
     (((s.fn fn).slacks.any fun e => s.slackRuns fn e && decide (1000 * e.lim < s.since e.time)) = true →
       let a := ((s.stuckFast fn).filter fun i => (s.fn fn).slacks.any fun e => e.ids.contains i).foldl (fun s i => s.updCmd i fun c =>
         { c with st := .done, started := true, failed := true, cause := 0x65, akind := 0, eaddr := 0, failTime := s.clk.time, detail := 0 }) s
       exec (.slackWatchdog fn) s =
         .next ((a.updFn fn fun c => { c with debt := 0, slacks := [] }).startReset fn { cause := 0x65, toErr := true, wait := false })))
/-- PUSH sends the eight uniform registers from wA as one command of the lowest lane, and gives every lane its flag; PUSHX sends for each lane
the eight thread registers from xA, in ascending order. A queue with 64 commands waiting, or too little weight, refuses with flag 1 and
sends nothing; else the command is accepted with flag 0 and its weight leaves the lane. Flags come as variable-latency results. In direct
mode the lines that the command will fill become absent and their counts rise. Inside a transaction the push is held, whichever its queue (R69, R95,
R283, R464). -/
def Obligations.Pushes : Prop := ∀ (sm r : Bool) (q a : BitVec 6) (p : BitVec 3) (f : Focus) (s : State),
  let tm := s.team f.team
  let image (i : Instr) (l : Nat) : BitVec 512 := BitVec.ofNat 512 (ofDwords ((List.range 8).map fun k => (Safe.src i f s k l).toNat))
  let weight (m : BitVec 512) : Nat := if tm.root = 0 then 0 else cmdWfrag m
  let flagged (t : State) (lanes : List Nat) (v : Nat → Word) (ready : Bool) : Prop :=
    ∀ l ∈ lanes, ∃ e ∈ (Safe.grp f t).out, e.kind = .eq ∧ e.file = .p ∧ e.reg = p.toNat ∧ e.lane = l ∧ e.val = v l ∧ e.ready = ready ∧ e.seq = s.clk.seq
  let sent (m : BitVec 512) (l : Nat) (c : Cmd) : Prop :=
    c.qn = q.toNat ∧ c.core = tm.core ∧ c.fn = tm.fn ∧ c.harbour = tm.harbour ∧ c.team = f.team ∧ c.grp = f.grp ∧ c.lane = l ∧ c.root = tm.root ∧
    c.img = m ∧ c.wfrag = BitVec.ofNat 64 (weight m) ∧ c.started = false ∧ c.failed = false ∧ c.rel = (if r then s.relStores f.team f.grp l else []) ∧
    c.st = (if c.rel = [] then .queued else .held) ∧ c.lines = spDst q.toNat m tm.spl
  let goes (t : State) : Prop := ∀ l, f.lanes.getLsbD l = true → ((Safe.grp f s).th l).pt = Safe.place f s → ((Safe.grp f s).th l).run = .running →
    ((Safe.grp f t).th l).pt = (Safe.place f s).next ∧ ((Safe.grp f t).th l).waitRes = sm
  let lined (t : State) (ms : List (BitVec 512)) : Prop := ∀ n, (t.team f.team).line n =
    let k := (ms.filter fun m => (spDst q.toNat m tm.spl).contains n).length
    if k = 0 then tm.line n else { tm.line n with pending := (tm.line n).pending + k, absent := true }
  (let i := Instr.push sm q a p r
   let low := lowLane f.lanes
   let m := image i low
   let full : Prop := 64 ≤ s.queued tm.core q.toNat ∨ s.weightOf f.team f.grp low < weight m
   Safe.Issues i f s → f.lanes ≠ 0 →
   ((Safe.grp f s).tx = none → tm.spFull q.toNat m = false →
     (full → ∃ t, exec i s = .next t ∧ Safe.OnlyGroup f s t ∧ goes t ∧ flagged t (lanesOf f.lanes) (fun _ => 1) true ∧
       t.weightOf f.team f.grp low = s.weightOf f.team f.grp low) ∧
     (¬ full → ∃ t c, exec i s = .next t ∧ { t with teams := s.teams, clk := s.clk, eng := s.eng } = s ∧ goes t ∧
       flagged t (lanesOf f.lanes) (fun _ => 0) true ∧ t.eng = { s.eng with cmds := s.eng.cmds ++ [c] } ∧ sent m low c ∧ lined t [m] ∧
       t.weightOf f.team f.grp low = s.weightOf f.team f.grp low - weight m)) ∧
   ((Safe.grp f s).tx = none → tm.spFull q.toNat m = true → ∃ t, exec i s = .next t ∧ Safe.Held f s t) ∧
   ∀ x, (Safe.grp f s).tx = some x → x.parts.getLsbD low = true → ∃ t ps, exec i s = .next t ∧ t.eng = s.eng ∧ t.mem = s.mem ∧ goes t ∧
     flagged t (lanesOf f.lanes) (fun _ => 0) false ∧
     (Safe.grp f t).tx = some (x.updData fun e => { e with held := e.held ++ [.push q.toNat m low f.lanes p.toNat r ps] })) ∧
  (let i := Instr.pushx sm q a p r
   let lanes := lanesOf f.lanes
   let ms := lanes.map (image i)
   Safe.Issues i f s → (Safe.grp f s).tx = none → (Safe.grp f s).pushed = 0 →
   (∀ n m, m ∈ ms → n ∈ spDst q.toNat m tm.spl → (tm.line n).pending + lanes.length ≤ 15) →
   (s.queued tm.core q.toNat + lanes.length ≤ 64 → (∀ l, f.lanes.getLsbD l = true → weight (image i l) ≤ s.weightOf f.team f.grp l) →
     ∃ t cs, exec i s = .next t ∧ t.mem = s.mem ∧ goes t ∧ flagged t lanes (fun _ => 0) true ∧ t.eng = { s.eng with cmds := s.eng.cmds ++ cs } ∧
       cs.length = lanes.length ∧ (∀ e ∈ lanes.zip cs, sent (image i e.1) e.1 e.2) ∧ lined t ms ∧
       ∀ l, t.weightOf f.team f.grp l = s.weightOf f.team f.grp l - if f.lanes.getLsbD l then weight (image i l) else 0) ∧
   (64 ≤ s.queued tm.core q.toNat → ∃ t, exec i s = .next t ∧ t.mem = s.mem ∧ t.eng = s.eng ∧ goes t ∧ flagged t lanes (fun _ => 1) true))

/-- How commands go and end. A message goes to this package's dies, or to a link; its one-group team starts with the payload. LKRUN goes
to the ledge core that it names, where its team starts once there is room. EVT posts its record. Data that arrive for a line are written,
and its count falls with the last of the data that the command has for it. Once a command is done, its error record, its CPL action,
its weight and its batch's count follow in this order, whether it completed or failed; a malformed one fails with 0x20, a row command with an
operand out of line under that operand's address. A TARGET with reserved bits names the record at its 48-bit address, rounded down: the model's
choice, log 189 (R33, R69, R284, R285, R289, R290, R297, R307). -/
def Obligations.CommandEnds : Prop := ∀ s : State,
  let change (c : Cmd) (h : Cmd → Cmd) : State := s.updCmd c.id h
  (∀ c, s.cmdFor s.item 3 0x30 = some c → let peer := bf (cdw c.img 2) 57 48
    let named := (SMap.get 0 s.ext.peer (1024 * c.fn + peer)).toNat
    (bf named 17 0 = Config.package → exec .amsg s = .next (change c fun c => { c with st := .sent, started := true })) ∧
    (bf named 17 0 ≠ Config.package → exec .amsg s = .next { change c fun c => { c with st := .spawned, started := true, away := true } with
      outbox := s.outbox ++ [.amsg { pkg := bf named 17 0, tag := bf named 47 32, vf := c.fn, cls := c.scls, stamp := s.stampNow c.dloff } c.img] })) ∧
  (∀ c core, s.eng.cmds.find? (fun d => decide (d.id = s.item)) = some c → c.qn = 3 → c.st = .sent →
    s.pickCore (s.amsgCores c) c.id { groups := 1, blocks := bf (cdw c.img 2) 63 61 + 1, lines := 0 } = some core →
    ∃ u, exec .amsgReceive s = .next u ∧ u.mem = s.mem ∧ let n := s.clk.ids
      (u.team n).core = core ∧ (u.team n).st = .resident ∧ (u.team n).fn = c.fn ∧ (u.team n).root = c.root ∧ (u.team n).spl = 0 ∧
      (u.team n).groups.map (·.1) = [0] ∧ (u.grp n 0).st = .ready ∧
      (∀ k, k < 5 → (u.grp n 0).wr k = BitVec.ofNat 64 (cdw c.img (3 + k))) ∧ (u.grp n 0).wr 5 = 0 ∧
      ∀ l, l < 32 → ((u.grp n 0).th l).pt = .header (BitVec.ofNat 48 (cmdAddr c.img 2)) ∧ ((u.grp n 0).th l).depth = 0 ∧
        ((u.grp n 0).th l).weight = if l = 0 ∧ c.root ≠ 0 then c.wfrag else 0) ∧
  (∀ c, s.cmdFor s.item 4 0x4C = some c →
    (∀ core, lkAny c.img = false → lkCore c.img = core → core ∈ s.ledgeCores c.fn →
      exec .lkrun s = .next (change c fun c => { c with st := .sent, started := true, pos := core })) ∧
    (lkAny c.img = true → s.ledgeCores c.fn ≠ [] → ∃ core, core ∈ s.ledgeCores c.fn ∧ (∀ k ∈ s.ledgeCores c.fn, s.freeBlocks k ≤ s.freeBlocks core) ∧
      exec .lkrun s = .next (change c fun c => { c with st := .sent, started := true, pos := core })) ∧
    (s.ledgeCores c.fn = [] ∨ lkAny c.img = false ∧ lkCore c.img ∉ s.ledgeCores c.fn → exec .lkrun s = .next (change c fun c =>
      { c with st := .done, started := true, failed := true, cause := 0x23, akind := 0, eaddr := 0, failTime := s.clk.time, detail := 0 }))) ∧
  (∀ c, s.eng.cmds.find? (fun d => decide (d.id = s.item)) = some c → c.qn = 4 → cmdCode c.img = 0x4C → c.st = .sent →
    s.roomOn c.pos { groups := lkGpt c.img, blocks := lkGpt c.img * lkRblk c.img, lines := lkSpl c.img } = true →
    ∃ u, exec .lkrunPlace s = .next u ∧ u.mem = s.mem ∧ let n := s.clk.ids
      (u.team n).core = c.pos ∧ (u.team n).st = .resident ∧ (u.team n).fn = c.fn ∧ (u.team n).harbour = false ∧ (u.team n).root = c.root ∧
      (u.team n).groups.map (·.1) = List.range (lkGpt c.img) ∧ ∀ j, j < lkGpt c.img → (u.grp n j).st = .ready ∧
        (u.grp n j).wr 0 = BitVec.ofNat 64 (cmdAddr c.img 3) ∧ (u.grp n j).wr 1 = 0 ∧ (u.grp n j).wr 2 = 0 ∧ (u.grp n j).wr 3 = BitVec.ofNat 64 j ∧
        (u.grp n j).wr 4 = BitVec.ofNat 64 (lkGpt c.img) ∧ (u.grp n j).wr 5 = 1 ∧
        ∀ l, l < 32 → ((u.grp n j).th l).pt = .header (BitVec.ofNat 48 (cmdAddr c.img 2)) ∧ ((u.grp n j).th l).depth = 0 ∧
          ((u.grp n j).th l).weight = if j = 0 ∧ l = 0 ∧ c.root ≠ 0 then c.wfrag else 0) ∧
  (∀ c, s.cmdFor s.item 7 0x70 = some c → exec .evt s = .next ((change c fun c => { c with st := .spawned, started := true }).launch c.fn c.harbour
    [.post (bf (cdw c.img 2) 5 0) (complRec (bf (cdw c.img 2) 63 32) 3 0 false 0 0 0), .cmdEnd c.id])) ∧
  (∀ a op, s.eng.arrivals.find? (fun b => decide (b.id = op)) = some a → s.hasTeam a.team = true →
    ∃ u, exec (.scratchpadArrival op) s = .next u ∧ u.mem = s.mem ∧ u.eng.arrivals = s.eng.arrivals.filter (fun b => b.id != op) ∧
      (u.team a.team).sp = (a.bytes.foldl (fun tm b => tm.spWrite b.1 1 b.2.toNat) (s.team a.team)).sp ∧
      let c := s.cmd a.cmd
      let more : Prop := c.due a.line = true ∨ ∃ b ∈ s.eng.arrivals, b.id ≠ op ∧ b.cmd = a.cmd ∧ b.line = a.line
      (a.line ∉ c.lines ∨ more → (∀ b ∈ a.bytes, b.1 / 128 = a.line) → (u.team a.team).line a.line =
        { (s.team a.team).line a.line with modified := ((s.team a.team).line a.line).modified || !a.bytes.isEmpty
                                           stamp := if a.bytes.isEmpty then ((s.team a.team).line a.line).stamp else s.stampNow (s.team a.team).dloff
                                           poison := ((s.team a.team).line a.line).poison && decide (a.bytes.length < 128) }) ∧
      (c.team = a.team → c.lines = [a.line] → ¬ more → (∀ b ∈ a.bytes, b.1 / 128 = a.line) →
        ((u.team a.team).line a.line).pending = ((s.team a.team).line a.line).pending - 1 ∧
        (((s.team a.team).line a.line).pending ≤ 1 → ((u.team a.team).line a.line).absent = false))) ∧
  ∀ c, s.eng.cmds.find? (fun d => decide (d.id = s.item)) = some c →
    (c.st = .done → (∀ b ∈ s.eng.arrivals, b.cmd ≠ c.id) → c.deltas = [] → c.lines = [] → c.far = 0 → ¬ (c.qn = 6 ∧ cmdCode c.img = 0x61) → c.qn < 8 → c.errs = [] →
      exec .commandCompletion s = .next (State.launch { s with eng := { s.eng with cmds := s.eng.cmds.filter fun d => d.id != c.id } } c.fn c.harbour
        ((if c.failed = true ∧ c.quiet = false then [c.record c.cause c.akind c.eaddr c.detail] else []) ++
         (if cmdCpl c.img = 1 then [.dec (bf (cdw c.img 1) 47 7 * 128)]
          else if cmdCpl c.img = 2 ∧ cmdRing c.img ≠ 63 then [.post (cmdRing c.img)
            (complRec (cmdTag c.img) (if c.failed then 1 else 0) (if c.failed then c.cause else 0) (c.root != 0 && c.wfrag != 0) 0 0 0)] else []) ++
         (if c.root = 0 ∨ c.wfrag = 0 ∨ c.quiet = true then [] else [.ret c.root c.wfrag.toNat c.failed]) ++
         (if c.batch then [.itemEnd c.grid (if c.failed then c.cause else 0)] else [])))) ∧
    (c.st ≠ .done → s.startable c = true → cmdBad c.qn c.img = true → c.qn < 8 →
      let row : Prop := c.qn = 4 ∧ 0x40 ≤ cmdCode c.img ∧ cmdCode c.img ≤ 0x43
      ((row → rowSkew c.img = none) → exec .commandCompletion s = .next (change c fun c =>
        { c with st := .done, started := true, failed := true, cause := 0x20, akind := 0, eaddr := 0, failTime := s.clk.time, detail := 0 })) ∧
      ∀ i, row → rowSkew c.img = some i → exec .commandCompletion s = .next (change c fun d =>
        { d with st := .done, started := true, failed := true, cause := 0x20, akind := 1, eaddr := cmdAddr c.img i, failTime := s.clk.time, detail := 0 }))

/-- One step of an engine command. When it starts, a shadow command captures the backings that it will write, and a direct one is taken only where it
may write every page of its destination (which earlier cases of the step, not these, reject). COPY moves the next piece of its rows and FILL writes its pattern there, by address; CHAIN applies its
operations to the next element. Members of a collective in this package get what R288 says of every rank's source: the fold in ascending
rank, the root's data, all data in rank order, or each its part of the fold; sources from other packages count where a link admits the tags of the entries
here. The parity deltas of its writes stand with the command. SHELF.READ writes a page and fails where it may not be read;
SHELF.APPEND takes the next pages of the log, copies each and stores the first one's number. After the last write the command is done, and one
that fails is done with its cause (R83, R84, R284, R286–R288, R314, R325, R327–R329, R391, R422). -/
def Obligations.EngineCommands : Prop := ∀ (s : State) (c : Cmd),
  let m := c.img
  let s0 := s.updCmd s.item fun c => { c with started := true }
  let sent (e : State) : State := e.updCmd s.item fun c => { c with deltas := c.deltas ++ (List.range (e.ras.sent - s.ras.sent)).map (s.ras.sent + ·) }
  let after (last : Bool) (e : State) : State := if last then (sent e).cmdDone s.item else sent (notePos c.id (c.pos + 1) e)
  let fails (e : State) (cause ak a k : Nat) : State := (sent e).updCmd s.item fun c =>
    { c with st := .done, started := true, failed := true, cause := cause, akind := ak, eaddr := a, failTime := e.clk.time, detail := k }
  let dsp := bit (cmdFlags m) 1
  let ssp := bit (cmdFlags m) 0
  let begun (vas : List Nat) : State := if c.pos = 0 then s0.captureAll c vas else s0
  let taken (vas : List Nat) : Prop := c.pos = 0 → (begun vas).rejected c vas = none
  let s1 := if dsp then s0 else begun (dstPages m)
  let lands (v : Nat) (p : Piece) (a e : State) : Prop :=
    (dsp = false ∧ ∃ x b, a.engDst c (p.dst % 2 ^ 48) 0 = .ok x b ∧ e = b.engStore c x p.n v ∧
      (x.kind = 0 → x.coh = 0 → e.mem = memWrite b.mem x.key p.n v)) ∨
    (dsp = true ∧ p.dst + p.n ≤ a.window c ∧ e.mem = a.mem ∧ ∃ q, e.eng.arrivals = a.eng.arrivals ++ [q] ∧ q.cmd = c.id ∧
      q.team = c.team ∧ q.line = p.dst / 128 ∧ q.bytes = (List.range p.n).map fun i => (p.dst + i, BitVec.ofNat 8 (v / 256 ^ i)))
  (∀ p v a, s.cmdFor s.item 0 0x01 = some c → (copyPieces m)[c.pos]? = some p → s1.engSrc c ssp p.src p.n 0 = .ok v a →
    (dsp = false → taken (dstPages m)) → (dsp = false → ∃ x b, a.engDst c (p.dst % 2 ^ 48) 0 = .ok x b) → (dsp = true → p.dst + p.n ≤ a.window c) →
    ∃ e, lands v p a e ∧ exec .copy s = .next (after (decide (c.pos + 1 = (copyPieces m).length)) e)) ∧
  (∀ p, s.cmdFor s.item 0 0x02 = some c → (copyPieces m)[c.pos]? = some p → (dsp = false → taken (dstPages m)) →
    (dsp = false → ∃ x b, s1.engDst c (p.dst % 2 ^ 48) 0 = .ok x b) → (dsp = true → p.dst + p.n ≤ s1.window c) →
    ∃ e v, (∀ i, i < p.n → v / 256 ^ i % 256 = cdw m 2 / 256 ^ ((p.dst + i) % 8) % 256) ∧ lands v p s1 e ∧
      exec .fill s = .next (after (decide (c.pos + 1 = (copyPieces m).length)) e)) ∧
  (∀ va vb a b, let fa := chainFmt (bf (cdw m 2) 50 48)
    let fb := chainFmt (bf (cdw m 2) 53 51)
    let fd := chainFmt (bf (cdw m 2) 56 54)
    let p : Piece := { dst := cmdAddr m 4 + c.pos * (fd.w / 8), n := fd.w / 8, src := 0 }
    let r := chainEl m (f32.round .rne (fa.decode va)) (f32.round .rne (fb.decode vb))
    s.cmdFor s.item 1 0x10 = some c → c.pos < bf (cdw m 6) 63 32 → p.dst % 128 + p.n ≤ 128 → (dsp = false → taken (dstPages m)) →
    s1.engSrc c ssp (wrapVa ssp (cmdAddr m 2 + c.pos * (fa.w / 8))) (fa.w / 8) 0 = .ok va a →
    (cmdAddr m 3 = 0 → vb = 0 ∧ b = a) → (cmdAddr m 3 ≠ 0 → a.engSrc c ssp (wrapVa ssp (cmdAddr m 3 + c.pos * (fb.w / 8))) (fb.w / 8) 0 = .ok vb b) →
    (dsp = false → ∃ x d, b.engDst c (p.dst % 2 ^ 48) 0 = .ok x d) → (dsp = true → p.dst + p.n ≤ b.window c) →
    ∃ e, lands (fd.round (if bf (cdw m 2) 58 57 = 1 then .rtz else .rne) (f32.decode r) % 256 ^ p.n) p b e ∧
      exec .chain s = .next (after (decide (c.pos + 1 = bf (cdw m 6) 63 32)) e)) ∧
  (∀ (remote : List (Nat × List (BitVec 64))) set a locals b, let n := set.length
    let mates := a.collMates c
    let src (r : Nat) : List Nat := match locals.find? fun e => e.1 = r with
      | some e => e.2
      | none => ((remote.find? fun e => e.1 = r).map fun e => e.2.map BitVec.toNat).getD []
    let fold (i : Nat) : Nat := collFolds (collFmt m) (collOp m) ((List.range n).map fun r => (src r).getD i 0)
    let cnt := collCount m
    let gives (i : Instr) (code : Nat) (out : Nat → List (Nat × Nat)) : Prop := s.cmdFor s.item 2 code = some c → s.collSet c = .ok set a →
      (code = 0x21 ∨ code = 0x22 → collRoot m < n) → (code = 0x24 → cnt % n = 0) → (∀ d ∈ mates, ∀ w x, b.collReach d (out (collRank d.img)) ≠ .wait w x) →
      exec i s = .next (mates.foldl (fun s d => (s.collSend d set).cmdWork d.id fun s => s.collDst d (out (collRank d.img))) b)
    (∀ d ∈ mates, a.startable d = true ∧ collAgree m d.img = true ∧ ∃ e, set[collRank d.img]? = some e ∧ a.entryHere c.fn e = true ∧ entryDie e = dieOf d.core) →
    (remote = [] ∨ ∀ e ∈ set, a.entryHere c.fn e = true → a.admitted (bf e 27 12) c.fn = true) →
    (∀ r e, set[r]? = some e → (∃ d ∈ mates, collRank d.img = r) ∨ (a.entryHere c.fn e = false ∧ ∃ q ∈ remote, q.1 = r)) →
    (∀ q ∈ remote, (∀ d ∈ mates, collRank d.img ≠ q.1) → q.1 < n → q.2.length = collNeeds m q.1) →
    a.collGather mates mates [] = (some locals, b) →
    gives (.allreduce s.item remote) 0x20 (fun _ => (List.range cnt).map fun i => (i, fold i)) ∧
    gives (.reduce s.item remote) 0x21 (fun k => if k = collRoot m then (List.range cnt).map fun i => (i, fold i) else []) ∧
    gives (.broadcast s.item remote) 0x22 (fun _ => (List.range cnt).map fun i => (i, (src (collRoot m)).getD i 0)) ∧
    gives (.allgather s.item remote) 0x23 (fun _ => (List.range n).flatMap fun r => (List.range cnt).map fun i => (r * cnt + i, (src r).getD i 0)) ∧
    gives (.reducescatter s.item remote) 0x24 (fun k => (List.range (cnt / n)).map fun i => (i, fold (k * (cnt / n) + i)))) ∧
  (s.cmdFor s.item 6 0x60 = some c → c.pos < cdw m 4 → let page := cdw m 2 + c.pos
    let pages := (List.range (cdw m 4)).map fun k => (cmdAddr m 3 + 4096 * k) % 2 ^ 48
    let va := (cmdAddr m 3 + 4096 * c.pos) % 2 ^ 48
    taken pages → (∀ e, s.shelfFault c.fn page = some e → exec .shelfRead s = .next (fails (begun pages) e 5 page c.pos)) ∧
    ∀ e, s.shelfFault c.fn page = none → ((List.range 32).foldl (fun (w : Work Unit) j => w.bind fun _ s =>
        s.engWrite c false (va + 128 * j) 128 (s.rd (shelfKeyOf page (128 * j)) 128) c.pos) (.ok () (begun pages))) = .ok () e →
      exec .shelfRead s = .next (after (decide (c.pos + 1 = cdw m 4)) e)) ∧
  (s.cmdFor s.item 6 0x61 = some c → let n := cdw m 3
    let g := s.fn c.fn
    (c.pos = 0 → (g.logLen = 0 ∨ g.logBase / 2 ^ 38 ∉ s.ras.shelfLost) →
      (g.logRoom < n → exec .shelfAppend s = .next (fails s0 0x4E 5 g.logHead 0)) ∧
      (n ≤ g.logRoom → SMap.get 0 s.lh.shelfKey c.fn = 0 → exec .shelfAppend s = .next (fails s0 0x4D 5 g.logHead 0)) ∧
      (n ≤ g.logRoom → SMap.get 0 s.lh.shelfKey c.fn ≠ 0 → exec .shelfAppend s = .next
        (sent ((s0.setFn c.fn { g with logHead := g.logHead + n }).updCmd c.id fun c => { c with spn := g.logHead, pos := 1 })))) ∧
    (∀ v a, 1 ≤ c.pos → c.pos ≤ n → c.spn / 2 ^ 38 ∉ s.ras.shelfLost → s0.engBytes c ((cmdAddr m 2 + 4096 * (c.pos - 1)) % 2 ^ 48) 4096 (c.pos - 1) = .ok v a →
      exec .shelfAppend s = .next (sent (notePos c.id (c.pos + 1) (a.perform none (shelfKeyOf (c.spn + (c.pos - 1)) 0) 4096 v)))) ∧
    ∀ x a, c.pos = n + 1 → c.spn / 2 ^ 38 ∉ s.ras.shelfLost → s0.engReach c .store (cmdAddr m 4) 0 = .ok x a →
      exec .shelfAppend s = .next ((sent (a.engStore c x 8 c.spn)).cmdDone s.item))

/-- One step of a bank-side command: ROWCOPY, ROWOP and ROWZERO write the next row of the destination in one event with what the co-located
source rows give, once no earlier command of the thread has a row to do in that bank; SCRUB checks the next row; a row that cannot be reached fails the command there. ALLOC answers with code 2 without a pool,
with code 1 without room, else with a live grant of zeroed rows, in the order of the slice's requests; FREE zeroes the rows of a live grant and ends it, and fails for a number
that is not live. WALK makes one output row of the next lookup record: for each element the banks' parts in ascending bank number, each
from the bank's listed rows in list order (R83, R294, R298–R306, R308–R310, R325, R434). -/
def Obligations.BankCommands : Prop := ∀ (s : State) (c : Cmd),
  let m := c.img
  let i := c.pos
  let s0 := s.updCmd s.item fun c => { c with started := true }
  let sent (e : State) : State := e.updCmd s.item fun c => { c with deltas := c.deltas ++ (List.range (e.ras.sent - s.ras.sent)).map (s.ras.sent + ·) }
  let ends (e : State) : State := let d := e.cmd c.id
    if i + 1 < cdw m 4 then sent (notePos c.id (i + 1) e)
    else if d.cause = 0 then (sent e).cmdDone s.item else (sent e).cmdFail s.item d.cause d.akind d.eaddr d.detail
  let wrote (e : State) (d : Nat) (v : BitVec 8192) : State := ends (e.perform none d 1024 v.toNat)
  let at_ (dw k : Nat) (a : State) (d : Nat) (v : BitVec 8192) (b : State) : Prop := a.rowSrc c dw k d = .ok v b
  (∀ d a v b, s0.bankBehind c i = false → s.cmdFor s.item 4 0x40 = some c → s0.rowReach c .store true 3 i = .ok d a → at_ 2 i a d v b → exec .rowcopy s = .next (wrote b d v)) ∧
  (∀ d a, s0.bankBehind c i = false → s.cmdFor s.item 4 0x42 = some c → s0.rowReach c .store true 3 i = .ok d a → exec .rowzero s = .next (wrote a d 0)) ∧
  (∀ d a x b, s0.bankBehind c i = false → s.cmdFor s.item 4 0x41 = some c → s0.rowReach c .store true 3 i = .ok d a → at_ 2 i a d x b →
    (cmdFlags m = 3 → exec .rowop s = .next (wrote b d (~~~x))) ∧
    ∀ y e, at_ 5 i b d y e →
      (cmdFlags m = 0 → exec .rowop s = .next (wrote e d (x &&& y))) ∧ (cmdFlags m = 1 → exec .rowop s = .next (wrote e d (x ||| y))) ∧
      (cmdFlags m = 2 → exec .rowop s = .next (wrote e d (x ^^^ y))) ∧
      ∀ z h, at_ 6 i e d z h → cmdFlags m = 4 → exec .rowop s = .next (wrote h d ((x &&& y) ||| (x &&& z) ||| (y &&& z)))) ∧
  (∀ (e : State) (d v : Nat), (e.perform none d 1024 v).mem = memWrite e.mem d 1024 v) ∧
  (∀ d a, s0.bankBehind c i = false → s.cmdFor s.item 4 0x43 = some c → s0.rowReach c .load false 3 i = .ok d a → a.stripeBusy (d / 64) = false → exec .scrub s = .next (ends (a.scrubRow d))) ∧
  (∀ cause ak ad k e, s0.bankBehind c i = false → c.cause = 0 → cause ≠ 0x4B → s0.rowReach c .store true 3 i = .fail cause ak ad k e →
    (s.cmdFor s.item 4 0x40 = some c → exec .rowcopy s = .next ((sent e).cmdFail s.item cause ak ad k)) ∧
    (s.cmdFor s.item 4 0x41 = some c → exec .rowop s = .next ((sent e).cmdFail s.item cause ak ad k)) ∧
    (s.cmdFor s.item 4 0x42 = some c → exec .rowzero s = .next ((sent e).cmdFail s.item cause ak ad k))) ∧
  (∀ x a, s.cmdFor s.item 4 0x48 = some c → s0.allocBehind c = false → s0.engReach c .store (cmdAddr m 2) 0 (fun x => x.coh = 2) = .ok x a →
    let answer (e : State) (l : List Nat) : State := (sent (l.zipIdx.foldl (fun e w => e.engStore c { x with key := x.key + 8 * w.2 } 8 w.1) e)).cmdDone s.item
    let n := (bf (cdw m 4) 31 0 + 63) / 64 * 64
    let nt := bf (cdw m 4) 35 32
    ((SMap.get (0, 0) a.part.nbpool c.fn).2 = 0 → exec .alloc s = .next (answer a [0x200, 0, 0, 0, 0, 0, 0, 0])) ∧
    ((SMap.get (0, 0) a.part.nbpool c.fn).2 ≠ 0 → a.grantRows c.fn n nt = none → exec .alloc s = .next (answer a [0x100, 0, 0, 0, 0, 0, 0, 0])) ∧
    ∀ id l, (SMap.get (0, 0) a.part.nbpool c.fn).2 ≠ 0 → a.grantRows c.fn n nt = some (id, l) → ∃ e : State, (a.lh.keyless = [] → e.mem = ((l.flatMap (·.2)).foldl
        (fun e k => memWrite e k 1024 0) a.mem)) ∧
      e.part.allocs = a.part.allocs ++ [{ slice := c.fn, id := id, bases := l.map fun e => e.1, nrows := n }] ∧
      exec .alloc s = .next (answer e [n * 2 ^ 32 + nt * 2 ^ 16, id, (l.getD 0 (0, [])).1, (l.getD 1 (0, [])).1, (l.getD 2 (0, [])).1, (l.getD 3 (0, [])).1, 0, 0])) ∧
  (s.cmdFor s.item 4 0x49 = some c → s0.allocBehind c = false →
    ((∀ a ∈ s.part.allocs, ¬ (a.slice = c.fn ∧ a.id = cdw m 2)) → exec .free s = .next ((sent s0).cmdFail s.item 0x20 0 0 0)) ∧
    ∀ a, s.part.allocs.find? (fun a => decide (a.slice = c.fn) && decide (a.id = cdw m 2)) = some a →
      let rows := a.bases.flatMap fun b => (s0.tensorRows c.fn b a.nrows).getD []
      s0.rowsNamed c rows = false → ∃ e : State, exec .free s = .next ((sent e).cmdDone s.item) ∧ (s.lh.keyless = [] → e.mem = rows.foldl (fun e k => memWrite e k 1024 0) s.mem) ∧
        e.part.allocs = s.part.allocs.filter fun d => !(d.slice = c.fn && d.id = a.id)) ∧
  (∀ d a r ids b ws e rows h x f y g, s.cmdFor s.item 5 0x50 = some c →
    let base := (cmdAddr m 2 + 64 * i) % 2 ^ 48
    let osz := if r.ofmt = 0 then 4 else r.esz
    let banks := (List.range 16384).filter fun k => rows.any fun q => q.1 = k
    (List.range 8).foldl (fun (w : Work (List Nat)) j => w.bind fun l s => (s.engLoad c ((base + 8 * j) % 2 ^ 48) 8 i).bind fun v s => .ok (l ++ [v]) s)
      (.ok [] (if i = 0 then s0.captureAll c (s0.walkPages c) else s0)) = .ok d a → lookupOf d = some r → a.engWords c r.idx r.nidx i = .ok ids b →
    (if r.pool = 3 then b.engWords c r.wlist r.nidx i else .ok [] b) = .ok ws e →
    ids.foldl (fun (w : Work (List (Nat × List Nat))) v => w.bind fun l s => (s.tableRow c r v i).bind fun q s => .ok (l ++ [q]) s) (.ok [] e) = .ok rows h →
    r.out % 128 + r.rowlen * osz ≤ 128 → h.engDst c (r.out % 2 ^ 48) i = .ok x f → f.engDst c (r.out % 2 ^ 48) i = .ok y g →
    ∃ v, (∀ j, j < r.rowlen → v / 256 ^ (osz * j) % 256 ^ osz = r.combine (banks.map fun k =>
        r.part ((rows.zipIdx.filter fun p => p.1.1 = k).map fun p => (p.1.2.getD j 0, ws.getD p.2 0))) % 256 ^ osz) ∧
      let z := g.engStore c y (r.rowlen * osz) v
      exec .walk s = .next (if i + 1 < cdw m 3 then sent (notePos c.id (i + 1) z) else match (z.cmd c.id).errs with
        | [] => (sent z).cmdDone s.item
        | (cause, ad, k, _) :: _ => (sent z).cmdFail s.item cause 1 ad k))

/-- The host port and the event rings. An enqueue write is refused as unsupported with a record for the harbour, answered busy, or accepted,
and then begins its acceptance; a posted one is discarded with a record. A window of a function that does not exist answers Unsupported
Request; the MSI-X table is read and written by doublewords, and a vector unmasked while pending is sent. The first writer of a ring, the oldest
withheld record of its function before any other, has its record written, withheld while its function is descheduled, or discarded for a disabled ring; a record counts toward the ring's
vector, which is sent at CCOUNT or once CTIME has passed since the record that found none pending. The oldest page request goes to the fault ring (R343, R369, R385–R390, R462). -/
def Obligations.HostPorts : Prop := ∀ (fn len off bar ring : Nat) (pasid wr : Bool) (img : BitVec 1024) (v : BitVec 64) (s : State), fn < 16 →
  let c := s.fn fn
  let answers (o : Out) : State := { s with outbox := s.outbox ++ [o] }
  let refused : ErrInfo := { cause := 0x26, dom := 1, skind := 6, snum := 16 }
  (len ≠ 128 ∨ off % 128 ≠ 0 ∨ s.exists_ fn = true ∧ pasid = false →
    exec (.enqueueWrite fn len off pasid img) s = .next ((answers (.enqueue fn 2)).postErr refused)) ∧
  (len = 128 → off % 128 = 0 → (s.exists_ fn = true → pasid = true) →
    (c.made = false ∨ c.reset.isSome = true ∨ c.iface = .error ∨ c.iqDepth ≤ s.ingress fn → exec (.enqueueWrite fn len off pasid img) s = .next (answers (.enqueue fn 1))) ∧
    (c.made = true → c.reset = none → c.iface ≠ .error → s.ingress fn < c.iqDepth → exec (.enqueueWrite fn len off pasid img) s =
      .next ((answers (.enqueue fn 0)).launch fn false [if recBad img true then .keepFailed img else .enqueue img]))) ∧
  exec (.postedEnqueueWrite fn) s = .next (s.postErr refused) ∧
  (s.exists_ fn = false → exec (.hostBarRequest fn bar off wr v) s = .next (answers (.bar fn true 0))) ∧
  (s.exists_ fn = true → s.lh.spdmOnly = false → c.iface ≠ .error → 0x1000 ≤ off → off < 0x1400 → let i := (off - 0x1000) / 8
    (i % 2 = 0 → exec (.hostBarRequest fn 0 off false v) s = .next (answers (.bar fn false (SMap.get 0 c.msix i))) ∧
      exec (.hostBarRequest fn 0 off true v) s = .next (s.updFn fn fun c => { c with msix := SMap.set 0 c.msix i v })) ∧
    (i % 2 = 1 → exec (.hostBarRequest fn 0 off false v) s =
        .next (answers (.bar fn false (SMap.get 0 c.msix i + if c.masked.getLsbD (i / 2) then 0x100000000 else 0))) ∧
      ∃ u, exec (.hostBarRequest fn 0 off true v) s = .next u ∧ u.mem = s.mem ∧ (u.fn fn).masked.getLsbD (i / 2) = v.getLsbD 32 ∧
        SMap.get 0 (u.fn fn).msix i = v &&& 0xFFFFFFFF ∧
        u.outbox = s.outbox ++ if v.getLsbD 32 = false ∧ c.msixPend.getLsbD (i / 2) = true then [.msix fn (i / 2)] else [])) ∧
  (s.exists_ fn = true → s.lh.spdmOnly = false → exec (.hostBarRequest fn 0 0x2000 false v) s = .next (answers (.bar fn false c.msixPend))) ∧
  (let r := c.ring ring
   (ring = 63 ∨ s.descheduled fn = true ∨ c.withheld = [] → s.nextWriter fn ring = (s.ringWriters fn ring).head?.map fun e => (some e.1, e.2)) ∧
   (∀ w l, ring ≠ 63 → s.descheduled fn = false → c.withheld = w :: l → s.nextWriter fn ring = if w.ring = ring then some (none, w.record) else none) ∧
   (fn ≠ 0 ∨ ring ≠ 63 → s.ringWriters fn ring = r.wait) ∧
   (∀ id rec, ring < 64 → s.nextWriter fn ring = some (id, rec) →
    (r.en = true → (ring = 63 ∨ s.descheduled fn = false) → (s.ext.hostDown = false ∨ s.ringKey fn r.base < 2 ^ 60) → s.ringRoom fn ring = true →
      exec (.ringRecordWrite fn ring) s = .next ((((s.fillSlots fn ring rec).countSlots fn ring).coalesce fn ring).popRing fn ring id)) ∧
    (∀ k, id = some k → r.en = true → ring ≠ 63 → s.descheduled fn = true → c.withheld.length < 256 → ∃ u, exec (.ringRecordWrite fn ring) s = .next u ∧
      { u with fns := s.fns } = s ∧ (u.fn fn).withheld = c.withheld ++ [{ ring := ring, record := rec }] ∧ ((u.fn fn).ring ring).wait = r.wait.eraseP fun e => decide (e.1 = k)) ∧
    (r.en = false → ring ≠ 63 → s.errHeld fn = false → ∃ u e, exec (.ringRecordWrite fn ring) s = .next u ∧ u = (s.popRing fn ring id).postErr e ∧
      e.cause = 0x25 ∧ e.vf = fn ∧ e.tag = rec.toNat / 2 ^ 96 % 2 ^ 32) ∧
    (r.en = false → ring = 63 → fn ≠ 0 → exec (.ringRecordWrite fn ring) s = .next (s.popRing fn ring id))) ∧
   (∀ (w : BitVec 512), let t := s.fillSlots fn ring w
     let slot (k : Nat) : Nat := s.ringKey fn ((r.base + 32 * ((r.widx.toNat + k) % 2 ^ r.log2n)) % 2 ^ 48)
     let ph := r.widx.toNat / 2 ^ r.log2n % 2
     (ring ≠ 63 → s.lh.keyless = [] → t.mem = memWrite s.mem (slot 0) 32 (w.toNat / 2 ^ 64 % 2 ^ 191 * 2 ^ 64 + s.clk.time.toNat + ph * 2 ^ 255)) ∧
     (ring = 63 → s.lh.keyless = [] → t.mem = memWrite (memWrite s.mem (slot 0) 32 (w.toNat % 2 ^ 255 + ph * 2 ^ 255)) (slot 1) 32 (w.toNat / 2 ^ 256 % 2 ^ 255 + ph * 2 ^ 255)) ∧
     ((t.countSlots fn ring).fn fn).ring ring = { (t.fn fn).ring ring with widx := ((t.fn fn).ring ring).widx + if ring = 63 then 2 else 1 }) ∧
   (let t := s.coalesce fn ring
    (r.pend + 1 < max 1 r.ccount → (t.fn fn).ring ring = { r with pend := r.pend + 1, timer := if r.pend = 0 then some s.clk.time else r.timer } ∧
      t.outbox = s.outbox) ∧
    (max 1 r.ccount ≤ r.pend + 1 → (t.fn fn).ring ring = { r with pend := 0, timer := none } ∧ (c.iface ≠ .error →
      (c.masked.getLsbD r.vec = false → t.outbox = s.outbox ++ [.msix fn r.vec]) ∧
      (c.masked.getLsbD r.vec = true → r.vec < 64 → t.outbox = s.outbox ∧ (t.fn fn).msixPend.getLsbD r.vec = true)))) ∧
   ∀ t0, (ring = 63 ∨ s.descheduled fn = false) → r.timer = some t0 → r.pend ≠ 0 → r.ctime ≠ 0 → r.ctime ≤ s.since t0 → ∃ u, exec (.coalesceTimer fn ring) s = .next u ∧ u.mem = s.mem ∧
     (u.fn fn).ring ring = { r with pend := 0, timer := none } ∧
     (c.iface ≠ .error → c.masked.getLsbD r.vec = false → u.outbox = s.outbox ++ [.msix fn r.vec])) ∧
  ∀ q rest base log2n vec ven idx x a b, c.backlog = q :: rest → c.fring = some (base, log2n, vec, ven, idx) → s.hubReach .load (idx + 4) 4 = some x →
    (c.fwidx - BitVec.ofNat 32 (s.rd x.key 4)).toNat < 2 ^ log2n →
    s.hubWrites (base + 32 * (c.fwidx.toNat % 2 ^ log2n)) [q.addr % 2 ^ 48, fn * 2 ^ 12 + q.stage * 2 ^ 8 + q.kind * 2 ^ 4, q.time.toNat, 0] = some a →
    a.hubWrite idx 4 (c.fwidx + 1).toNat = some b → ∃ u, exec (.faultRingWrite fn) s = .next u ∧ u.mem = b.mem ∧ (u.fn fn).backlog = rest ∧
      (u.fn fn).fwidx = c.fwidx + 1 ∧
      (ven = false → u.outbox = b.outbox) ∧ (ven = true → (b.fn fn).iface ≠ .error → (b.fn fn).masked.getLsbD vec = false → u.outbox = b.outbox ++ [.msix fn vec])

/-- The links. A packet on a link that carries traffic is refused with 0x68 where no admission entry has its tag and function, with 0x67 while
its function is in reset, with 0x05 in another slice's bank and with 0x60 at an address that maps nothing; else it reads or writes memory in
one event and is answered, a message joins its function's queue, its end comes back to its sender, and a refusal fails its sender's access or
message. A packet that arrives begins the link's count of replays anew. Such a store leaves SY.OSAT, such a
result comes as poison, each with a record. After eight replays a link retrains; where that fails it is down. A ring that the host refuses
is disabled. A stream's keys go with its integrity, and all of them with the host link; the functions concerned are reset into ERROR
(R289, R388, R391, R406, R444–R449). -/
def Obligations.Links : Prop := ∀ (link op : Nat) (p : LinkPacket) (s : State),
  let goes (u : State) : Prop := exec (.longshoreIngress link p) s = .next u
  let replies (a : State) (ok : Bool) (v : Nat) : State := { a with outbox := a.outbox ++ [.link p.id ok (BitVec.ofNat 64 v)] }
  let asks : Prop := (∀ a b c, p.kind ≠ .ended a b c) ∧ ∀ a b, p.kind ≠ .nack a b
  let up : Prop := link < 16 ∧ link ∉ s.ext.linkDown ∧ link ∉ s.ext.retrain
  let admitted : Prop := ∃ i, i < 64 ∧ SMap.get none s.ext.admission (64 * link + i) = some (p.tag, p.vf)
  (¬ up → goes s) ∧
  (let t : State := { s with ext := { s.ext with replays := SMap.set 0 s.ext.replays link 0 } }
  (up → ¬ admitted → (asks → goes (replies t false 0x68)) ∧ (¬ asks → goes t)) ∧
  (up → admitted → asks → (t.fn p.vf).reset.isSome = true → goes (replies t false 0x67)) ∧
  (up → admitted → (t.fn p.vf).reset = none →
    (t.resolve p.addr = none → (∃ o, p.kind = .load ∨ p.kind = .store ∨ p.kind = .red o ∨ p.kind = .amo o) →
      ∃ e : ErrInfo, e.cause = 0x60 ∧ e.akind = 3 ∧ e.addr = p.addr ∧ goes ((replies t false 0x60).postErr e)) ∧
    (∀ k, t.resolve p.addr = some k → t.sliceOf (keyBank k) ≠ p.vf → (∃ o, p.kind = .load ∨ p.kind = .store ∨ p.kind = .red o ∨ p.kind = .amo o) →
      goes (replies t false 0x05)) ∧
    (∀ k, t.resolve p.addr = some k → t.sliceOf (keyBank k) = p.vf → t.lh.keyless = [] → t.ras.lost = [] → let n := p.size
      let m := t.rd k n
      let ok : Prop := t.isPoison k n = false
      let a := t.askChan p.vf p.cls p.stamp k 2000
      let wrote (v : Nat) : State := if n = 0 then a else a.perform none k n (v % 2 ^ (8 * n))
      (p.kind = .load → ok → goes (replies a true m)) ∧ (p.kind = .load → ¬ ok → goes (replies a false m)) ∧
      (p.kind = .store → goes (replies (wrote p.data.toNat) true 0)) ∧
      (∀ o, p.kind = .red o → goes (replies (wrote (amoOp n o m p.data.toNat)) true 0)) ∧
      (∀ o, p.kind = .amo o → ok → goes (replies (wrote (amoOp n o m p.data.toNat)) true m)) ∧
      (∀ o, p.kind = .amo o → ¬ ok → goes (replies a false m)) ∧
      (∀ v, p.kind = .cas v → ok → goes (replies (if m = v.toNat % 2 ^ (8 * n) then wrote p.data.toNat else a) true m))) ∧
    (∀ img root scls dloff, p.kind = .message img root scls dloff → ∃ u c, goes u ∧ u.eng.cmds = t.eng.cmds ++ [c] ∧ u.mem = t.mem ∧ c.qn = 3 ∧
      c.fn = p.vf ∧ c.root = root ∧ c.img = img ∧ c.st = .sent ∧ c.scls = scls ∧ c.dloff = dloff ∧ c.far = p.id + 1 ∧ c.wfrag = BitVec.ofNat 64 (if root = 0 then 0 else cmdWfrag img))) ∧
  (up → admitted → ∀ a cause, p.kind = .nack a cause → goes ((t.failRemote a cause false).failMsg a cause))) ∧
  (∀ cause, ((s.cmd op).away = false → s.failMsg op cause = s) ∧ ((s.cmd op).away = true → (s.cmd op).st = .spawned → s.failMsg op cause = s.updCmd op fun c =>
    { c with st := .done, started := true, failed := true, cause := cause, akind := 0, eaddr := 0, failTime := s.clk.time, detail := 0 })) ∧
  (up → admitted → ∀ a cause units c, p.kind = .ended a cause units → s.eng.cmds.find? (fun c => decide (c.id = a) && c.away && decide (c.st = .spawned)) = some c →
    goes ((State.updCmd { s with ext := { s.ext with replays := SMap.set 0 s.ext.replays link 0 } } a fun c => { c with st := .done, failed := decide (cause ≠ 0), cause := cause, quiet := true }).launch c.fn c.harbour
      (if c.root = 0 ∨ units = 0 then [] else [.ret c.root units (decide (cause ≠ 0))]))) ∧
  (∀ e host cause, s.stores.find? (fun d => decide (d.id = op) && d.remote && decide ((decide (d.key < 2 ^ 61)) = host)) = some e → s.hasGrp e.team e.grp = true →
    cause ≠ 0x69 → ∃ u r, s.failRemote op cause host = u ∧ u = State.postErr r { errOf cause with snum := (s.team e.team).core, vf := (s.team e.team).fn } ∧
      r.mem = s.mem ∧ r.stores = s.stores.filter (fun d => d.id != op) ∧ ((r.grp e.team e.grp).th e.lane).osat = ((s.grp e.team e.grp).th e.lane).osat - 1) ∧
  (∀ t n q host cause, (∀ d ∈ s.stores, d.id ≠ op) → s.pendAt op = some (t, n, q) → q.ready = true → q.poison = false → q.remote = (if host then 2 else 1) →
    s.failRemote op cause host = State.postErr (s.updGrp t n fun g => { g with out := g.out.map fun r =>
      if r.remote ≠ 0 ∧ r.ready = true ∧ r.id = op then { r with poison := true } else r })
      { errOf cause with snum := (s.team t).core, vf := (s.team t).fn }) ∧
  (∀ t0, s.issuedAt op = some t0 → 1000000 ≤ s.since t0 → exec (.remoteAckTimeout op) s = .next (s.failRemote op 0x69 false)) ∧
  (up → (SMap.get 0 s.ext.replays link < 8 → exec (.flitCheckFailure link) s =
      .next { s with ext := { s.ext with replays := SMap.set 0 s.ext.replays link (SMap.get 0 s.ext.replays link + 1) } }) ∧
    (8 ≤ SMap.get 0 s.ext.replays link → exec (.flitCheckFailure link) s = .next { s with ext := { s.ext with retrain := s.ext.retrain ++ [link] } })) ∧
  (link ∈ s.ext.retrain → let a : State := { s with ext := { s.ext with retrain := s.ext.retrain.filter fun l => l != link, replays := SMap.set 0 s.ext.replays link 0 } }
    let note (a : State) (cause : Nat) : State := a.postErr { errOf cause with skind := 6, snum := link }
    exec (.linkRetrainDone link true) s = .next (note a 0x6A) ∧
    let d := note { a with ext := { a.ext with linkDown := a.ext.linkDown ++ [link] } } 0x6B
    ∃ ids : List Nat, (∀ i ∈ ids, i ∈ d.outside false ∨ ∃ c ∈ d.eng.cmds, c.away = true ∧ c.id = i) ∧
      exec (.linkRetrainDone link false) s = .next (ids.foldl (fun (u : State) i => (u.failRemote i 0x6B false).failMsg i 0x6B) d)) ∧
  (∀ fn n, s.ringOfRec op = some (fn, n) → ((s.fn fn).ring n).en = true → 2 ^ 60 ≤ s.ringKey fn ((s.fn fn).ring n).base → ∃ r u, exec (.hostWriteError op) s = .next u ∧
    u = State.postErr r { errOf 0x6C with skind := 6, snum := 16, vf := if n = 63 then 0 else fn } ∧ { r with fns := s.fns } = s ∧
    (r.fn fn).ring n = { (s.fn fn).ring n with en := false, wait := if fn = 0 ∧ n = 63 then ((s.fn fn).ring n).wait else [] }) ∧
  (s.ringOfRec op = none → exec (.hostWriteError op) s = .next (s.failRemote op 0x6C true)) ∧
  (∀ stream, let a : State := { s with lh := { s.lh with ide := s.lh.ide.filter fun e => e.1 != stream } }
    ((∀ e ∈ s.lh.ide, e.1 ≠ stream) → exec (.ideIntegrityFailure stream) s = .next a) ∧
    ∀ fn sess, s.lh.ide.filter (fun e => decide (e.1 = stream)) = [(stream, fn, sess)] → exec (.ideIntegrityFailure stream) s = .next (a.toError fn 0x6E)) ∧
  (∀ fn cause, fn ≠ 0 → s.exists_ fn = true → (s.fn fn).iface ≠ .error → cause ≠ 0 → s.toError fn 0 = s.startReset fn { toErr := true } ∧
    s.toError fn cause = (s.postErr { errOf cause with skind := 6, snum := 16, vf := fn }).startReset fn { toErr := true }) ∧
  (s.ext.hostDown = false → let d : State := { s with ext := { s.ext with hostDown := true }, lh := { s.lh with ide := [] } }
    let a := (List.range 16).foldl (fun s f => s.toError f 0) (d.postErr { errOf 0x6D with skind := 6, snum := 16 })
    exec .hostLinkDown s = .next ((a.outside true).foldl (fun s i => s.failRemote i 0x6D true) a))


/-- Channels, damaged memory and the shelf. A channel serves, of the requests that its timing allows, one of the least class, and of two the
one whose stamp precedes, then the lower function, then the earlier; at every fourth service, where one has waited 8 µs, the earliest such
(when a request's timing allows it is open: log entry 147). The XOR of the other lines of a stripe with no delta outstanding, its parity line's
among them, is what the line itself holds. A line found uncorrectable is rebuilt from that and written in place once no delta of the stripe is
outstanding, or poisoned, with a record and an entry of the fault-address queue. A parity row that fails is noted, then rewritten; the
patrol checks a row once its stripe is quiet; a first lost stack leaves low-water mode, a second one is fatal; a lost shelf module is recorded. The eighth correction in a row is
recorded, and the 256th of a unit's SRAMs; a clean line of a cache is fetched again, a dirty one, a line of a scratchpad or a binding poisoned; a
group whose wake entry is damaged wakes (R320, R321, R323–R326, R424–R428, R433, R434). -/
def Obligations.DamagedMemory : Prop := ∀ (chan line bank row stack modl : Nat) (s : State),
  let ready : List ChanReq := s.ras.chans.filter fun r => decide (r.chan = chan) && (s.free (2 ^ 29 + r.seq)).getLsbD 0
  let old : List ChanReq := ready.filter fun r => decide (8000 ≤ s.since r.arrived)
  let left : Nat := SMap.get 0 s.ras.guard chan
  let serve (r : ChanReq) (g : Nat) : State :=
    let a : State := { s with ras := { s.ras with chans := s.ras.chans.filter fun q => q.seq != r.seq, guard := SMap.set 0 s.ras.guard chan g } }
    let d := (s.nowStamp + 2 ^ 16 - r.stamp) % 2 ^ 16
    let k := 64 * r.req + 4 * r.fn + r.cls
    if 0 < d ∧ d < 2 ^ 15 then { a with part := { s.part with misses := SMap.set 0 s.part.misses k (min (SMap.get 0 s.part.misses k + 1) (2 ^ 32 - 1)) } } else a
  let early (a b : Nat) : Prop := 0 < (b + 2 ^ 16 - a) % 2 ^ 16 ∧ (b + 2 ^ 16 - a) % 2 ^ 16 < 2 ^ 15
  let goes (i : Instr) (u : State) : Prop := exec i s = .next u
  let found (d : Damage) (u : State) : Prop := goes (.reconstructingRead d) u
  (ready = [] → goes (.channelCommandIssue chan) s) ∧
  (left = 0 → old ≠ [] → ∃ r ∈ old, (∀ q ∈ old, r.seq ≤ q.seq) ∧ goes (.channelCommandIssue chan) (serve r 3)) ∧
  (left ≠ 0 ∨ old = [] → ready ≠ [] → ∃ r ∈ ready, (∀ q ∈ ready, r.cls ≤ q.cls) ∧ goes (.channelCommandIssue chan) (serve r (left - 1))) ∧
  (∀ a b : ChanReq, left ≠ 0 → ready = [a, b] → a.cls = b.cls →
    (early b.stamp a.stamp → goes (.channelCommandIssue chan) (serve b (left - 1))) ∧
    (early a.stamp b.stamp → goes (.channelCommandIssue chan) (serve a (left - 1))) ∧
    (¬ early a.stamp b.stamp → ¬ early b.stamp a.stamp → (b.fn < a.fn ∨ b.fn = a.fn ∧ b.seq < a.seq) → goes (.channelCommandIssue chan) (serve b (left - 1))) ∧
    (¬ early a.stamp b.stamp → ¬ early b.stamp a.stamp → (a.fn < b.fn ∨ a.fn = b.fn ∧ a.seq ≤ b.seq) → goes (.channelCommandIssue chan) (serve a (left - 1)))) ∧
  (let calm : Prop := ∀ d ∈ s.ras.deltas, d.row ≠ parityRowOf (lineRow line)
   let whole : Prop := lineBank line / 1024 ∉ s.ras.lost ∧ (dataRow (lineBank line / 1024) (lineRow line % 2 ^ 16)).isSome = true
   let rebuilt := (State.lineErr { s with mem := memWrite s.mem (64 * line) 64 (s.rd (64 * line) 64) } 0x41 0 line).faqPut 1 line
   let a := s.setPoison (line * 64) 64
   let damaged := (a.lineErr 0x42 1 line).faqPut 1 line
   line ∈ a.ras.poison ∧ a.mem = s.mem ∧ (line < 2 ^ 34 → whole → calm → s.rebuilt line = s.sealedLine line) ∧ (line < 2 ^ 34 → whole →
    (¬ calm → goes (.reconstructingRead (.line line)) s) ∧
    (calm → s.ras.lost ≠ [] ∨ parityRowOf (lineRow line) ∈ s.ras.parityBad → goes (.reconstructingRead (.line line)) damaged) ∧
    (calm → s.ras.lost = [] → parityRowOf (lineRow line) ∉ s.ras.parityBad →
      goes (.reconstructingRead (.line line)) rebuilt ∨ goes (.reconstructingRead (.line line)) damaged ∨
      goes (.reconstructingRead (.line line)) ((a.lineErr 0x43 2 line).faqPut 2 line)))) ∧
  (bank < 16384 → row < 65536 → bank / 1024 ∉ s.ras.lost → let key := bank * 2 ^ 16 + row
    let noted : State := { s with ras := { s.ras with parityBad := s.ras.parityBad ++ [key] } }
    (row / 4096 = bank / 1024 →
      (key ∉ s.ras.parityBad → goes (.parityRowRebuild bank row) noted) ∧
      (key ∈ s.ras.parityBad → ∃ v : State, goes (.parityRowRebuild bank row) ((v.lineErr 0x52 0 (key * 16)).faqPut 3 (key * 16)) ∧
        v.ras.parityBad = s.ras.parityBad.filter fun r => r != key) ∧
      (s.keylessLine (bank * 2 ^ 20) = false → goes (.patrolScrub bank row) s ∨ (key ∉ s.ras.parityBad ∧ goes (.patrolScrub bank row) noted))) ∧
    (row / 4096 ≠ bank / 1024 → goes (.parityRowRebuild bank row) s ∧
      (s.keylessLine (bank * 2 ^ 20) = false → 
        let a := s.askChan 0 3 (s.stampNow 0) (bankKey bank row 0) 2000
        goes (.patrolScrub bank row) (if s.stripeBusy (bankKey bank row 0 / 64) then a else a.scrubRow (bankKey bank row 0))))) ∧
  (stack < 16 → stack ∉ s.ras.lost →
    (s.ras.lost = [] → (∀ c ∈ s.eng.cmds, ¬ (c.qn = 4 ∧ cmdCode c.img = 0x4C ∧ c.st = .sent ∧ (c.pos - 512) / 8 = stack)) →
      let a := (s.slicesOn stack).foldl (fun (u : State) sl => u.postErr { errOf 0x49 with skind := 2, snum := stack, slice := sl, vf := sl })
        ({ s with ras := { s.ras with lost := [stack] } } : State)
      goes (.stackLoss stack) ((s.ras.deltas.filter fun d => decide (d.row / 2 ^ 26 = stack)).foldl (fun (u : State) d => u.dropDelta d.id) { a with
        teams := a.teams.map fun (e : Nat × Team) =>
          (e.1, if e.2.st = .resident ∧ 512 ≤ e.2.core ∧ e.2.core < 640 ∧ (e.2.core - 512) / 8 = stack then e.2.askKill s.clk.time 0x49 0 0 else e.2) })) ∧
    (∀ d, (s.dropDelta d).ras.deltas = s.ras.deltas.filter fun e => e.id != d) ∧
    (s.ras.lost ≠ [] → ∃ u : State, goes (.stackLoss stack) u ∧ u.ras.fatal = true ∧ ∀ n, n ≠ 0 → (s.fn n).made = true → (u.fn n).iface = .error)) ∧
  (stack ∈ s.ras.lost → goes (.stackLoss stack) s) ∧
  (line < 2 ^ 34 → lineBank line / 1024 ∉ s.ras.lost → let n := SMap.get 0 s.ras.ce (lineRow line) + 1
    let counts (k : Nat) : State := { s with ras := { s.ras with ce := SMap.set 0 s.ras.ce (lineRow line) k } }
    (n < 8 → found (.fixedLine line) (counts n)) ∧ (8 ≤ n → found (.fixedLine line) (((counts 0).lineErr 0x40 0 line).faqPut 0 line)) ∧
    ((dataRow (lineBank line / 1024) (lineRow line % 2 ^ 16)).isSome = true → s.keylessLine line = false →
      found (.tagLine line) (((s.setPoison (line * 64) 64).lineErr 0x43 2 line).faqPut 2 line))) ∧
  (∀ kind num, unitExists kind num = true → let n := SMap.get 0 s.ras.sram (4096 * kind + num) + 1
    let counts (k : Nat) : State := { s with ras := { s.ras with sram := SMap.set 0 s.ras.sram (4096 * kind + num) k } }
    (n < 256 → found (.fixed kind num) (counts n)) ∧
    (n = 256 → found (.fixed kind num) ((counts 0).postErr { errOf 0x44 with skind := kind, snum := num })) ∧
    (kind = 1 ∨ kind = 2 → line < 2 ^ 33 → (∃ e : ErrInfo, e.cause = 0x45 ∧ e.cls = 0 ∧ found (.cacheLine kind num line false) (s.postErr e)) ∧
      ∃ e : ErrInfo, e.cause = 0x46 ∧ e.cls = 1 ∧ found (.cacheLine kind num line true) ((s.setPoison (line * 128) 128).postErr e))) ∧
  (∀ core c, s.l1 core line = some c →
    (c.dirty = false → ∃ e : ErrInfo, e.cause = 0x45 ∧ e.cls = 0 ∧ found (.l1Line core line) ((s.l1Drop core line).postErr e)) ∧
    (c.dirty = true → ∃ e : ErrInfo, e.cause = 0x46 ∧ e.cls = 1 ∧ found (.l1Line core line) ((s.l1Put { c with poison := true }).postErr e))) ∧
  (∀ t n, s.hasTeam t = true → (s.team t).st = .resident → n < (s.team t).spl → ∃ e : ErrInfo, e.cause = 0x46 ∧ e.cls = 1 ∧ e.vf = (s.team t).fn ∧ e.akind = 4 ∧
    e.addr = 128 * n ∧ found (.window t n) ((s.updTeam t fun tm => tm.updLine n fun l => { l with poison := true }).postErr e)) ∧
  (∀ pair k i r b, SMap.get none (SMap.get {} s.mtx pair : PairMtx).recs k = some r → r.binds[i]? = some b → b.st = 2 →
    ∃ e : ErrInfo, e.cause = 0x46 ∧ e.cls = 1 ∧ e.vf = (s.team r.team).fn ∧
      found (.tile pair k i) ((s.updPair pair fun p => p.setRec k (some { r with binds := r.binds.set i { b with poison := true } })).postErr e)) ∧
  (∀ t n k, s.hasGrp t n = true → (k, t, n) ∈ s.cache.wake → ∃ e : ErrInfo, e.cause = 0x47 ∧ e.cls = 2 ∧ e.vf = (s.team t).fn ∧
    found (.wake t n) (State.postErr { s.updGrp t n fun g => g.wake s.clk.cycle with
      cache := { s.cache with wake := s.cache.wake.filter fun e => e.2 != (t, n) } } e)) ∧
  (modl < 4 → (modl ∈ s.ras.shelfLost → goes (.shelfModuleLoss modl) s) ∧
    (modl ∉ s.ras.shelfLost → goes (.shelfModuleLoss modl)
      (({ s with ras := { s.ras with shelfLost := s.ras.shelfLost ++ [modl] } } : State).postErr { errOf 0x50 with skind := 5 })))

/-- Translations. A walk that succeeds is kept by its unit, of a TWIN page with both backings; a fetch's that fails traps. The host's reply gives a page its address, or asks for it
by a page request, once for a page, or refuses it to those who wait; a translation that has not come in 10 ms, and a failed page request, refuse it too; then what waited for the
page is tried again. A unit that has no access left through a function's translations acknowledges a shoot-down and drops the entries
concerned; one that has not done so in 100 µs is fenced, its teams are killed, and once they have gone it counts as having done so
(R333, R338, R341, R342, R345, R347, R441, R442). -/
def Obligations.Translations : Prop := ∀ (core fn va req reply ha code cmd unit : Nat) (s : State),
  let goes (i : Instr) (u : State) : Prop := exec i s = .next u
  (s.focus = none → coreExists core = true → fn < 16 → let rg : Regime := { unit := unitOf core, fn := fn, harbour := decide (640 ≤ core) }
    ∀ kind, (∀ x, s.walk rg (va % 2 ^ 48) = .ok x → goes (.pageWalk core fn va kind) (s.keep rg (va % 2 ^ 48) x)) ∧
      ∀ e, s.walk rg (va % 2 ^ 48) = .error e → goes (.pageWalk core fn va kind) s) ∧
  (∀ f, s.focus = some f → (s.team f.team).core = core → (s.team f.team).fn = fn → (Safe.place f s).addr.toNat = va → let rg : Regime := { (s.team f.team).regime with who := 64 * f.team + f.grp + 1 }
    (∀ x, s.check rg core .fetch false va = .ok x → goes (.pageWalk core fn va 2) ((s.keep rg va x).passed f.team f.grp)) ∧
    (∀ c, s.check rg core .fetch false va = .error (.trap c none) → Safe.calm f s → c ≠ 0x08 →
      ∃ t, goes (.pageWalk core fn va 2) t ∧ Safe.TrapsTo f c (fun _ => BitVec.ofNat 64 va) s t)) ∧
  (∀ x rg, (x.desc = none ∨ x.backs.isSome = true) → rg.unit ∉ s.part.gated → (∀ e ∈ s.cache.tlb, e.covers rg va = false) → x.entry rg va ∈ (s.keep rg va x).cache.tlb ∧
    { s.keep rg va x with cache := s.cache, ext := s.ext } = s ∧ (x.kind ≠ 1 → (s.keep rg va x).ext = s.ext) ∧
    (s.keep rg va x).ext = { s.ext with atc := (s.keep rg va x).ext.atc }) ∧
  (∀ r, s.ext.ats.find? (fun q => decide (q.id = req)) = some r →
    let ended : State := { s with ext := { s.ext with ats := s.ext.ats.filter fun q => q.id != req } }
    let refused : State := State.retryPage { ended with ext := { ended.ext with
      atsBad := s.ext.atsBad ++ (r.who.map fun w => (r.fn, r.page, w)).filter fun e => !s.ext.atsBad.contains e } } r.fn 3 (r.page * 4096) 4096
    (r.pri = false →
      goes (.atsReply req 0 ha) { ended with ext := { ended.ext with
        atc := s.ext.atc.filter (fun e => !(decide (e.1 = r.unit) && decide (e.2.1 = r.fn) && decide (e.2.2.1 = r.page))) ++
          [(r.unit, r.fn, r.page, ha % 2 ^ 48 / 4096 * 4096)] } } ∧
      ((∀ q ∈ s.ext.ats, ¬ (q.pri = true ∧ q.fn = r.fn ∧ q.page = r.page)) → goes (.atsReply req 1 ha) { s with
        ext := { s.ext with ats := s.ext.ats.map fun (q : AtsReq) => if q.id = req then { q with pri := true } else q }
        outbox := s.outbox ++ [.pri r.fn r.page] }) ∧
      ((∃ q ∈ s.ext.ats, q.pri = true ∧ q.fn = r.fn ∧ q.page = r.page) → goes (.atsReply req 1 ha) (ended.awaitPri r.fn r.page r.who)) ∧
      (2 ≤ reply → goes (.atsReply req reply ha) refused) ∧
      (10000000 ≤ s.since r.since → goes (.atsTimeout req) refused) ∧
      (s.since r.since < 10000000 → goes (.atsTimeout req) s) ∧ goes (.priResponse req code) s) ∧
    (r.pri = true → goes (.atsReply req reply ha) s ∧ goes (.atsTimeout req) s ∧
      goes (.priResponse req 0) (ended.retryPage r.fn 3 (r.page * 4096) 4096) ∧ (code ≠ 0 → goes (.priResponse req code) refused))) ∧
  ((∀ q ∈ s.ext.ats, q.id ≠ req) → goes (.atsReply req reply ha) s ∧ goes (.atsTimeout req) s ∧ goes (.priResponse req code) s) ∧
  (∀ stage base size, let u := s.retryPage fn stage base size
    let waits (tm : Team) : Bool := decide (tm.fn = fn) && tm.waitPage.any fun w => decide (w.1 = stage) && decide (base ≤ w.2 * 4096) && decide (w.2 * 4096 < base + size)
    u.mem = s.mem ∧ u.teams = s.teams.map (fun (e : Nat × Team) => (e.1, if waits e.2 = true then { e.2 with held := false, waitPage := none } else e.2)) ∧
    u.eng.cmds = s.eng.cmds.map (fun (c : Cmd) => if c.fn = fn ∧ c.st = .parked then { c with st := .queued } else c) ∧
    ∀ e ∈ s.teams, waits e.2 = true → e.2.st = .saved → e.2.byFault = true → ∃ q ∈ u.sched.queue, q.2 = .team e.1) ∧
  (∀ h, s.part.shoots.find? (fun g => decide (g.cmd = cmd)) = some h → unit < 322 → unit ∉ h.acked →
    let acks (shoots : List Shoot) : Prop := shoots = s.part.shoots.map fun (g : Shoot) => if g.cmd = cmd then { g with acked := g.acked ++ [unit] } else g
    let concerns (a n : Nat) : Bool := h.all || (decide (a < h.base + h.len) && decide (h.base < a + n))
    let goesOut (e : Tlb) : Bool := decide (e.fn = h.fn) && ((decide (h.stage % 2 = 1) && concerns e.va e.size) || (decide (2 ≤ h.stage) && e.ipas.any fun p => concerns p.1 p.2))
    let kept (w : WalkEnt) : Bool := !(decide (unit < 192) && decide (w.die = unit / 48) && decide (w.fn = h.fn))
    (s.unitBusy unit h.fn = true → goes (.shootdownAck cmd unit) s) ∧
    (s.unitBusy unit h.fn = false → ∃ u : State, goes (.shootdownAck cmd unit) u ∧ acks u.part.shoots ∧ u.mem = s.mem ∧
      (∀ e, e ∈ u.cache.tlb ↔ e ∈ s.cache.tlb ∧ ¬ (e.unit = unit ∧ goesOut e = true)) ∧ u.cache.walks = s.cache.walks.filter kept ∧
      u.ext.atc = s.ext.atc.filter fun e => !(decide (e.1 = unit) && decide (e.2.1 = h.fn))) ∧
    (s.since h.since < 100000 → goes (.shootdownTimeout cmd unit) s) ∧
    (100000 ≤ s.since h.since → unit ∉ s.part.fenced → ∃ u : State, goes (.shootdownTimeout cmd unit) u ∧ unit ∈ u.part.fenced ∧ u.mem = s.mem ∧
      (∀ e ∈ s.unitTeams unit, (e.1, { e.2.askKill s.clk.time 0x64 0 0 with faulted := false }) ∈ u.teams) ∧
      (∀ e ∈ s.teams, e.1 ∉ (s.unitTeams unit).map Prod.fst → e ∈ u.teams) ∧
      (s.unitTeams unit = [] → acks u.part.shoots ∧ ∀ e, e ∈ u.cache.tlb ↔ e ∈ s.cache.tlb ∧ e.unit ≠ unit) ∧
      (s.unitTeams unit ≠ [] → u.part.shoots = s.part.shoots ∧ u.cache = s.cache)) ∧
    (100000 ≤ s.since h.since → unit ∈ s.part.fenced → (s.unitTeams unit ≠ [] → goes (.shootdownTimeout cmd unit) s) ∧
      (s.unitTeams unit = [] → goes (.shootdownTimeout cmd unit) { s with
        cache := { s.cache with tlb := s.cache.tlb.filter (fun e => e.unit != unit), walks := s.cache.walks.filter kept }
        ext := { s.ext with atc := s.ext.atc.filter fun e => e.1 != unit }
        part := { s.part with shoots := s.part.shoots.map fun (g : Shoot) => if g.cmd = cmd then { g with acked := g.acked ++ [unit] } else g } })))

/-- Messages to Lighthouse. An SPDM request that is malformed is answered InvalidRequest, one out of order UnexpectedRequest; the others go
through version, capabilities and algorithms, report the digest, the chain, a signed challenge, measurements (a part whose start-up has stopped
because it is decommissioned reports indices 1 and 29 only; log entries 121–123 give the codes), open and close sessions, and set IDE keys, which end with their session. A TDISP
request of a function that is no interface, or in another state than it asks for, is answered with an error; the others lock, start, stop,
relock and report (R371, R373, R374, R379, R380, R449, R450). -/
def Obligations.LighthouseMessages : Prop := ∀ (slot op sess stream fn : Nat) (signed wf : Bool) (s : State),
  let goes (i : Instr) (u : State) : Prop := exec i s = .next u
  let answers (u : State) (code : Nat) (data : List (BitVec 384)) : State := { u with outbox := u.outbox ++ [.spdm code data] }
  let invalid : State := answers s 0x7F [1]
  let unexpected : State := answers s 0x7F [4]
  let digest : BitVec 384 := Config.sha384 (s.chain.flatMap fun d => bytesOf 48 d.toNat)
  let open_ : Prop := s.lh.spdm = .algs
  let stands (e : Bool) : Prop := (sess, e) ∈ s.lh.sessions
  goes .getVersion (answers { s with lh := { s.lh with spdm := .version } } 0x04 [0x1300]) ∧
  (∀ i ∈ [Instr.getCapabilities false, .negotiateAlgorithms false, .getDigests false, .getCertificate slot false, .challenge slot false,
      .getMeasurements op signed false, .keyExchange false, .finish sess false, .endSession sess false], goes i invalid) ∧
  (slot ≠ 0 → goes (.getCertificate slot wf) invalid ∧ goes (.challenge slot wf) invalid) ∧
  (s.lh.spdm ≠ .version → goes (.getCapabilities true) unexpected) ∧ (s.lh.spdm ≠ .caps → goes (.negotiateAlgorithms true) unexpected) ∧
  (s.lh.spdm = .version → goes (.getCapabilities true) (answers { s with lh := { s.lh with spdm := .caps } } 0x61 [Config.spdmData 0 0])) ∧
  (s.lh.spdm = .caps → goes (.negotiateAlgorithms true) (answers { s with lh := { s.lh with spdm := .algs } } 0x63 [0x80, 0x02, 0x10, 0x02])) ∧
  (¬ open_ → ∀ i ∈ [Instr.getDigests true, .getCertificate 0 true, .challenge 0 true, .keyExchange true], goes i unexpected) ∧
  (open_ → goes (.getDigests true) (answers s 0x01 [digest]) ∧ goes (.getCertificate 0 true) (answers s 0x02 s.chain) ∧
    (∃ r : BitVec 384, goes (.challenge 0 true) (answers s 0x03 ([digest, r] ++ s.signature [digest, r]))) ∧
    ∃ r : BitVec 384, goes (.keyExchange true) (answers { s with lh := { s.lh with sessions := s.lh.sessions ++ [(s.lh.nextSess, false)], nextSess := s.lh.nextSess + 1 } }
      0x64 [BitVec.ofNat 384 s.lh.nextSess, r])) ∧
  (let shown (i : Nat) : Prop := (1 ≤ i ∧ i ≤ 19 ∨ 29 ≤ i ∧ i ≤ 31) ∧ (s.lh.fuseLcs = 5 → s.lh.up = 1 → i = 1 ∨ i = 29)
   let reply (d : List (BitVec 384)) : State := answers s 0x60 (d ++ if signed then s.signature d else [])
   goes (.getMeasurements 0 signed true) (reply [if s.lh.fuseLcs = 5 ∧ s.lh.up = 1 then 2 else 22]) ∧
   goes (.getMeasurements 0xFF signed true) (reply (s.measShown.map fun i => SMap.get 0 s.lh.meas i)) ∧ (∀ i, i ∈ s.measShown ↔ shown i) ∧
   (op ≠ 0 → op ≠ 0xFF → (shown op → goes (.getMeasurements op signed true) (reply [SMap.get 0 s.lh.meas op])) ∧
     (¬ shown op → goes (.getMeasurements op signed true) invalid))) ∧
  (¬ stands false → goes (.finish sess true) unexpected) ∧
  (stands false → goes (.finish sess true) (answers { s with lh := { s.lh with sessions := s.lh.sessions.map fun e => if e.1 = sess then (sess, true) else e } } 0x65 [])) ∧
  (let lh' : Lh := { s.lh with sessions := s.lh.sessions.filter fun e => e.1 != sess, ide := s.lh.ide.filter fun e => e.2.2 != sess }
   let closed : State := ((List.range 16).filter fun f => (s.fn f).isLocked && (s.fn f).lockSess = sess).foldl (fun (u : State) f => u.toError f 0) { s with lh := lh' }
   (stands true → goes (.endSession sess true) (answers closed 0x6C [])) ∧
   (stands true ∨ stands false → goes (.securedMessageFailure sess) (closed.postErr { errOf 0x70 with skind := 7 }))) ∧
  (¬ stands true → goes (.endSession sess true) unexpected ∧ (¬ stands false → goes (.securedMessageFailure sess) s) ∧
    (fn < 16 → goes (.ideKm sess stream fn) unexpected)) ∧
  (16 ≤ fn → goes (.ideKm sess stream fn) invalid) ∧
  (fn < 16 → stands true → goes (.ideKm sess stream fn)
    (answers { s with lh := { s.lh with ide := s.lh.ide.filter (fun e => e.1 != stream) ++ [(stream, fn, sess)] } } 0x7E [])) ∧
  (let iface : Prop := fn ≠ 0 ∧ s.exists_ fn = true
   let c := s.fn fn
   let tells (u : State) (code v : Nat) : State := { u with outbox := u.outbox ++ [.tdisp fn code v] }
   let error : State := tells s 0x7F 0
   (¬ iface → ∀ i ∈ [Instr.lockInterfaceRequest fn sess, .startInterfaceRequest fn, .stopInterfaceRequest fn, .getDeviceInterfaceState fn,
      .relockRequest fn, .getDeviceInterfaceReport fn], goes i error) ∧
   (iface →
     (c.iface ≠ .unlocked → goes (.lockInterfaceRequest fn sess) error) ∧
     (c.iface = .unlocked → goes (.lockInterfaceRequest fn sess) (tells (s.setFn fn { c with iface := .locked, lockSess := sess }) 0x03 0)) ∧
     (c.iface ≠ .locked → goes (.startInterfaceRequest fn) error) ∧
     (c.iface = .locked → goes (.startInterfaceRequest fn) (tells (s.setFn fn { c with iface := .run }) 0x06 0)) ∧
     goes (.stopInterfaceRequest fn) (s.startReset fn { stop := true }) ∧
     goes (.getDeviceInterfaceState fn) (tells s 0x05 (match c.iface with | .unlocked => 0 | .locked => 1 | .run => 2 | .error => 3)) ∧
     (c.iface ≠ .run → goes (.relockRequest fn) error) ∧ (c.iface = .run → goes (.relockRequest fn) (s.setFn fn { c with relock := true })) ∧
     (c.iface = .unlocked ∨ c.iface = .error → goes (.getDeviceInterfaceReport fn) error) ∧
     (c.iface = .locked ∨ c.iface = .run → let l := s.reportFields fn
       l.take 2 = [c.repver, fn] ∧ goes (.getDeviceInterfaceReport fn) { s with
         outbox := s.outbox ++ [.report fn (l ++ [(Config.sha384 (l.flatMap (bytesOf 2048))).toNat])] })))

/-- Power, reset and the part's life. Package reset leaves all at its reset value but the fuses, the bad-page list and the shelf's pages; then
each step of the start-up begins once the one before it is done: indices 1 and 29 are measured; index 2, and the firmware of both harbour cores
is released where the image verifies; 4–19, and slice 0 has its keys in every stack and its buddy; 3 and 31; the host port. A part fused dead
stops after the first, one without a sound image after the second, and neither runs harbour code. Above the power limit and near a die's junction limit the clock falls by 100 MHz, not below 700;
5 % under the limit it rises once a millisecond to 1,400. A pair at rest is gated, and drops its translations. The manufacturing flow
provisions the fuse once; a nonce lives 60 s (R26–R29, R331, R375, R377, R384). -/
def Obligations.PowerAndReset : Prop := ∀ (imageOk : Bool) (avg die temp pair : Nat) (s : State),
  let goes (i : Instr) (u : State) : Prop := exec i s = .next u
  let clock (n : Nat) (s : State) : State := { s with ras := { s.ras with clockMhz := n } }
  let down : State := clock (max 700 (s.ras.clockMhz - 100)) s
  (∃ u : State, goes (.packageReset imageOk) u ∧ u.lh.fuseLcs = s.lh.fuseLcs ∧ u.lh.lcs = s.lh.fuseLcs ∧ u.lh.bad = s.lh.bad ∧
    u.lh.nonce = none ∧ u.lh.sessions = [] ∧ u.lh.ide = [] ∧ u.lh.keyless = [] ∧ u.lh.shelfKey = [] ∧ u.lh.keys = [] ∧
    u.lh.up = 1 ∧ u.lh.imageOk = imageOk ∧ u.lh.harbourRun = false ∧ u.lh.spdmOnly = true ∧ (u.lh.idKey = true ↔ s.lh.fuseLcs ≠ 5) ∧
    u.ras.shelf = s.ras.shelf ∧ u.ras.shelfLost = s.ras.shelfLost ∧ u.inbox = s.inbox ∧ u.outbox = s.outbox ∧
    (∀ k, k < 2 ^ 60 → memRead u.mem k 1 = 0) ∧ (∀ k, 2 ^ 60 ≤ k → memRead u.mem k 1 = memRead s.mem k 1) ∧
    ({ u with clk := State.reset.clk, mem := State.reset.mem, lh := State.reset.lh, inbox := State.reset.inbox, outbox := State.reset.outbox,
              ras := { u.ras with shelf := State.reset.ras.shelf, shelfLost := State.reset.ras.shelfLost } } : State) = State.reset ∧
    { u.clk with ids := State.reset.clk.ids, fresh := State.reset.clk.fresh, seq := State.reset.clk.seq } = State.reset.clk ∧
    SMap.get 0 u.lh.meas 1 = Config.sha384 (bytesOf 48 0 ++ Config.measured 1) ∧
    SMap.get 0 u.lh.meas 29 = Config.sha384 (bytesOf 48 0 ++ (bytesOf 1 s.lh.fuseLcs ++ bytesOf 48 Config.dbgKeyHash.toNat)) ∧
    ∀ i, i ≠ 1 → i ≠ 29 → SMap.get 0 u.lh.meas i = 0) ∧
  (let u := s.bootOn
   let more (is : List Nat) : Prop := ∀ i, SMap.get 0 u.lh.meas i = if i ∈ is then
     Config.sha384 (bytesOf 48 (SMap.get 0 s.lh.meas i).toNat ++ Config.measured i) else SMap.get 0 s.lh.meas i
   (s.lh.up = 1 → s.lh.fuseLcs = 5 → u = s) ∧
   (s.lh.up = 1 → s.lh.fuseLcs ≠ 5 → more [2] ∧
     (s.lh.imageOk = true → u.lh.up = 2 ∧ u.lh.harbourRun = true ∧ u.lh.spdmOnly = false ∧
       ∀ core, core = 640 ∨ core = 641 → ∃ t, (u.team t).core = core ∧ (u.team t).harbour = true ∧ (u.team t).st = .resident ∧ (u.team t).origin = .firmware) ∧
     (s.lh.imageOk = false → u.lh.up = 0 ∧ u.lh.harbourRun = s.lh.harbourRun ∧ u.lh.spdmOnly = s.lh.spdmOnly ∧ u.teams = s.teams)) ∧
   (s.lh.up = 2 → more ((List.range 16).map (· + 4)) ∧ u.lh.up = 3 ∧
     ∀ k, k < 16 → SMap.get 0 u.lh.keys (keyAt k k 0) = s.lh.nextKey ∧ SMap.get 0 u.lh.keys (keyAt (buddy k) k 0) = s.lh.nextKey) ∧
   (s.lh.up = 3 → more [3, 31] ∧ u.lh.up = 4) ∧ (s.lh.up = 4 → u.lh.up = 5) ∧ (s.lh.up = 0 ∨ 5 ≤ s.lh.up → u = s)) ∧
  (s.ras.limitW < avg → goes (.powerClockDown avg) down) ∧ (avg ≤ s.ras.limitW → goes (.powerClockDown avg) s) ∧
  (100 * avg ≤ 95 * s.ras.limitW → s.ras.clockMhz < 1400 → 1000000 ≤ s.since s.ras.lastUp → goes (.powerClockUp avg)
    { s with ras := { s.ras with clockMhz := s.ras.clockMhz + 100, lastUp := s.clk.time } }) ∧
  (95 * s.ras.limitW < 100 * avg ∨ 1400 ≤ s.ras.clockMhz ∨ s.since s.ras.lastUp < 1000000 → goes (.powerClockUp avg) s) ∧
  ((if 16 ≤ die ∧ die < 32 then 95 else 105) ≤ temp → goes (.dieJunctionLimit die temp) down) ∧
  (goes (.dieJunctionLimit die temp) down ∨ goes (.dieJunctionLimit die temp) s) ∧
  (pair < 192 → goes (.powerGating pair false) { s with part := { s.part with gated := s.part.gated.filter fun p => p != pair } } ∧
    (pair ∉ s.part.gated → s.teamsOn (2 * pair) = [] → s.teamsOn (2 * pair + 1) = [] → (SMap.get {} s.mtx pair : PairMtx).queue = [] →
      goes (.powerGating pair true) { s with
        part := { s.part with gated := s.part.gated ++ [pair] }
        cache := { s.cache with tlb := s.cache.tlb.filter fun e => e.unit != pair }
        sched := { s.sched with reserved := s.sched.reserved.filter fun r => r.1 / 2 != pair } }) ∧
    (s.teamsOn (2 * pair) ≠ [] ∨ s.teamsOn (2 * pair + 1) ≠ [] ∨ (SMap.get {} s.mtx pair : PairMtx).queue ≠ [] → goes (.powerGating pair true) s)) ∧
  (s.lh.fuseLcs = 1 → goes .manufacturingFlow { s with lh := { s.lh with fuseLcs := 2, lcs := 2 } }) ∧
  (s.lh.fuseLcs ≠ 1 → goes .manufacturingFlow s) ∧
  (∀ n t, s.lh.nonce = some (n, t) → (60000000000 ≤ s.since t → goes .nonceExpiry { s with lh := { s.lh with nonce := none } }) ∧
    (s.since t < 60000000000 → goes .nonceExpiry s)) ∧
  (s.lh.nonce = none → goes .nonceExpiry s)

/-- Commands of the manager on functions and units. They end one at a time in the order of acceptance; RESULT is checked before one begins and is
written before it completes, and where it can be written no more the command ends with PST 1, without the effects of that step; the first check
that fails gives PST, and nothing has changed. VFCREATE makes a function whose rings it reads,
VFRESET resets a context, rekeys a keyless slice, or destroys; PAIRS gives idle pairs an owner and MESH ports, SLICEMAP banks that read zero;
ARTW writes a range entry that fits; STITCH sets the ports of sound plans; SLUICE fills buckets; POOL sets up or disables a pool; ROOTS writes
a root, drops the function's translations in the same step and is complete as a SHOOT is; SHOOT waits for every unit; REPLAY tries parked accesses again; NBPOOL sets a pool of
pages that resolve (R316, R332, R345, R348–R354, R356–R361, R61, R372, R373, R377, R383, R463; checks that no rule orders, a RESULT that fails at the end, ROOTS: log entries 103–107, 180, 207). -/
def Obligations.UnitCommands : Prop := ∀ (c : Cmd) (s : State),
  let m := c.img
  let f := bf (cdw m 2) 3 0
  let due (code : Nat) : Prop := s.cmdFor s.item 8 code = some c ∧ s.partTurn c = true ∧ (c.started = true ∨ s.resultOk m = true)
  let done (i : Instr) (d : Nat) (u : State) : Prop := exec i s = .next (if u.resultOk m then u.partEnd c.id 0 d else (if c.started then u else s).partEnd c.id 1 0)
  let no (i : Instr) (pst : Nat) : Prop := exec i s = .next (s.partEnd c.id pst 0)
  let goesOn (i : Instr) (u : State) : Prop := exec i s = .next (u.updCmd c.id fun c => { c with started := true })
  let order (i : Instr) (checks : List (Bool × Nat)) (good : Prop) : Prop := (∀ p, refusal checks = some p → no i p) ∧ (refusal checks = none → good)
  let kinds : List (Nat × Instr) := [(0x80, .vfcreate), (0x81, .vfreset), (0x82, .pairs), (0x83, .slicemap), (0x84, .artw), (0x85, .stitch), (0x86, .sluice),
    (0x87, .pool), (0x88, .roots), (0x89, .shoot), (0x8A, .replay), (0x8B, .nbpool), (0x8D, .faq), (0x8E, .query), (0x90, .sramsplit), (0x91, .limits),
    (0x93, .ringload), (0x94, .pfconf), (0x95, .fring)]
  (∀ k ∈ kinds, (s.cmdFor s.item 8 k.1 = none → exec k.2 s = .next s) ∧ (s.cmdFor s.item 8 k.1 = some c →
    (s.partTurn c = false → exec k.2 s = .next s) ∧ (s.partTurn c = true → c.started = false → s.resultOk m = false → no k.2 1))) ∧
  (∀ (u : State) (pst d : Nat), (u.cmd c.id).isUnlock = false → let a := cdw (u.cmd c.id).img 7
    let close (v : State) : State := v.updCmd c.id fun c =>
      { c with st := .done, started := true, pst := pst, detail := d, failTime := v.clk.time, failed := decide (pst ≠ 0), cause := if pst = 0 then 0 else 0x29 }
    (a = 0 ∨ u.resultOk (u.cmd c.id).img = false → u.partEnd c.id pst d = close u) ∧
    (∀ x, a ≠ 0 → a < 2 ^ 48 → a % 8 = 0 → u.hubReach .store a 8 = some x → u.partEnd c.id pst d = close (u.perform none x.key 8 (2 ^ 63 + d % 256 * 256 + pst)))) ∧
  (due 0x80 → order .vfcreate [(!okBits m 0 (vfMasks 0xF) || decide (f = 0) || !vfRanges m, 1), ((s.fn f).made, 6), (decide (s.lh.lcs = 1 ∨ s.lh.lcs = 4), 9)]
    ((s.readRings (cdw m 3) (List.range 64) = none → no .vfcreate 1) ∧
     ∀ l, s.readRings (cdw m 3) (List.range 64) = some l → ((s.setFn f {}).setFunction f m l = none → no .vfcreate 1) ∧
      (∀ n u, (s.setFn f {}).setFunction f m l = some (n, u) → done .vfcreate (min n 255) u ∧ (∀ k, k ≠ f → u.fn k = s.fn k) ∧
       { u.fn f with rings := [] } = ({ made := true, bandLo := bf (cdw m 2) 12 8, bandHi := bf (cdw m 2) 20 16, iqDepth := bf (cdw m 2) 42 32, ringTab := cdw m 3,
                                        s2root := some (cdw m 4), frames := cdw m 5, nframes := cdw m 6 } : Fn) ∧
       SMap.get 0 u.lh.shelfKey f = if s.lh.lcs = 2 ∨ s.lh.lcs = 3 then s.lh.nextKey else 0))) ∧
  (due 0x81 → let away := bit (cdw m 2) 8
    (c.pos = 0 → order .vfreset [(!okBits m 0 [0x10F] || (decide (f = 0) && away), 1), (!s.exists_ f, 6), (away && (s.fn f).isLocked, 5), (away && s.holdsUnits f, 3)]
      (goesOn .vfreset ((s.startReset f { cause := 0x66, toErr := (s.fn f).isLocked }).updCmd c.id fun c => { c with pos := 1 }))) ∧
    (c.pos ≠ 0 → ((s.fn f).reset.isSome = true → goesOn .vfreset s) ∧
      ((s.fn f).reset = none → (away = true → ∃ u : State, done .vfreset 0 u ∧ (u.fn f).made = false ∧ (∀ k, k ≠ f → u.fn k = s.fn k) ∧ SMap.get 0 u.lh.shelfKey f = 0) ∧
        (away = false → (f ∉ s.lh.keyless → done .vfreset 0 s) ∧ (f ∈ s.lh.keyless → s.lh.lcs ≠ 2 → s.lh.lcs ≠ 3 → done .vfreset 0 s) ∧
          (f ∈ s.lh.keyless → (s.lh.lcs = 2 ∨ s.lh.lcs = 3) → ∃ u : State, done .vfreset 0 u ∧ f ∉ u.lh.keyless ∧
          (∀ k ∈ s.stacksOf f, SMap.get 0 u.lh.keys (keyAt k k f) = s.lh.nextKey ∧ SMap.get 0 u.lh.keys (keyAt (buddy k) k f) = s.lh.nextKey) ∧ ∀ k, k < 2 ^ 40 → s.sliceOf (keyBank k) = f → memRead u.mem k 1 = 0))))) ∧
  (due 0x82 → (ownerOf (cdw m 2) = none → no .pairs 1) ∧ ∀ o, ownerOf (cdw m 2) = some o → let ps := pairMask m
    let fs := ownerFns o ++ ps.flatMap fun p => ownerFns (s.pairOwner p)
    order .pairs [(!okBits m 3 [0x10F, m64, m64, m64], 1), (!s.ownerExists o, 6), (s.lockedOut m fs, 5),
        (decide (o ≠ 0) && ps.any fun p => decide (s.pairOwner p ≠ 0 ∧ s.pairOwner p ≠ o), 2), (ps.any fun p => s.part.fenced.contains p || !s.pairIdle p, 3)]
      (∃ u : State, done .pairs 0 (u.commitRelock m fs) ∧ u.mem = s.mem ∧ u.fns = s.fns ∧ ∀ p,
        (p ∈ ps → u.pairOwner p = o ∧ (s.pairOwner p ≠ o → SMap.get 0 u.part.ports p = 0)) ∧
        (p ∉ ps → u.pairOwner p = s.pairOwner p ∧ SMap.get 0 u.part.ports p = SMap.get 0 s.part.ports p))) ∧
  (due 0x83 → let named : ArtEntry := { d2 := BitVec.ofNat 64 (cdw m 3), d3 := BitVec.ofNat 64 (cdw m 4) }
    let bs := named.banks.filter fun b => s.sliceOf b ≠ f
    let ls := (ledgeMask m).filter fun k => SMap.get 0 s.part.ledgeSlice k ≠ f
    let was := (bs.map s.sliceOf ++ ls.map fun k => SMap.get 0 s.part.ledgeSlice k).eraseDups
    order .slicemap [(!okBits m 3 [0xF, m32 * 2 ^ 32 + 0xFFFF, m32, m64, m64], 1), (decide (f ≠ 0 ∧ (s.lh.lcs = 1 ∨ s.lh.lcs = 4)), 9), (s.lockedOut m (f :: was), 5),
        (decide (f ≠ 0) && was.any fun k => decide (k ≠ 0), 2), (bs.any fun b => s.part.art.any fun e => e.2.en && e.2.names b, 4),
        (ls.any fun k => s.ledgeBusy k || s.part.fenced.contains (k - 320), 3)]
      (∃ u : State, done .slicemap 0 (u.commitRelock m (f :: was)) ∧ u.fns = s.fns ∧ (∀ b, u.sliceOf b = if b ∈ bs then f else s.sliceOf b) ∧
        (∀ k, SMap.get 0 u.part.ledgeSlice k = if k ∈ ls then f else SMap.get 0 s.part.ledgeSlice k) ∧
        ∀ k, memRead u.mem k 1 = if f ≠ 0 ∧ k < 2 ^ 40 ∧ keyBank k ∈ bs then 0 else memRead s.mem k 1)) ∧
  (due 0x84 → let e := imageOf m
    let old := s.artEntry f
    order .artw [(!okBits m 3 imageMasks || decide (8 < e.gr) || decide (e.rowbase % 64 ≠ 0), 1), (s.lockedOut m [old.slice, e.slice], 5),
        (old.en && decide (e ≠ old) && decide (e ≠ { old with d0 := old.d0 &&& ~~~ 0x8000 }), 4), (e.en && !s.artFits f e true, 4)]
      (∃ u : State, done .artw 0 (u.commitRelock m [old.slice, e.slice]) ∧ { u with part := s.part } = s ∧ { u.part with art := s.part.art } = s.part ∧
        ∀ n, u.artEntry n = if n = f then e else s.artEntry n)) ∧
  (due 0x85 → let plans := s.readPlans (cdw m 2) (bf (cdw m 3) 18 16 + 1)
    (ownerOf (cdw m 3) = none ∨ plans = none → no .stitch 1) ∧ ∀ o ps, ownerOf (cdw m 3) = some o → plans = some ps → let spots := ps.flatMap fun p => p.tiles.map p.pair
    order .stitch [(!okBits m 3 [m48, 0x7010F] || decide (cdw m 2 % 64 ≠ 0) || decide (3 < bf (cdw m 3) 18 16), 1), (!s.ownerExists o, 6), (s.lockedOut m (ownerFns o), 5),
        (ps.any fun p => decide (6 < p.row0 + p.rows ∨ 8 < p.col0 + p.cols), 4), (spots.any fun p => decide (s.pairOwner p ≠ o) || s.part.fenced.contains p, 2),
        (!(ps.all Plan.sound && apart ps), 4), (spots.any fun p => !s.pairIdle p || s.collBusy p, 3)]
      (∃ u : State, done .stitch 0 (u.commitRelock m (ownerFns o)) ∧ { u with part := s.part } = s ∧ { u.part with ports := s.part.ports } = s.part ∧
        (∀ k, k ∉ spots → SMap.get 0 u.part.ports k = SMap.get 0 s.part.ports k) ∧ ∀ k ∈ spots, ∃ p ∈ ps, ∃ t ∈ p.tiles, k = p.pair t ∧
          SMap.get 0 u.part.ports k = p.port t.1 t.2 0 + 4 * p.port t.1 t.2 1 + 16 * p.port t.1 t.2 2 + 64 * p.port t.1 t.2 3)) ∧
  (due 0x86 → order .sluice [(!okBits m 0 [0xF, m64, m64, m32], 1), (!s.exists_ f, 6)]
    (done .sluice 0 (s.updFn f fun c => { c with
      mburst := bf (cdw m 3) 63 32, mrate := bf (cdw m 3) 31 0, lburst := bf (cdw m 4) 63 32, lrate := bf (cdw m 4) 31 0, debtmax := cdw m 5,
      mbal := ((1000 * bf (cdw m 3) 63 32 : Nat) : Int), lbal := ((1000 * bf (cdw m 4) 63 32 : Nat) : Int), sluiceT := s.clk.time }))) ∧
  (due 0x87 → let k := bf (cdw m 2) 2 0
    let en := bit (cdw m 2) 8
    let ms := if en then membersOf (cdw m 4) else []
    let now := (s.pool k).next.getD (s.pool k).members
    let moved := (ms.filter fun f => !now.contains f) ++ now.filter fun f => !ms.contains f
    let len := cdw m 3
    let budget := bf (cdw m 5) 31 0
    let ovr := bf (cdw m 5) 63 32
    order .pool [(!okBits m 0 [0x107, m32, m64, m64] ||
          (en && (decide (len < 100 ∨ 100000 < len ∨ budget < 1000 ∨ 1000000 < budget ∨ ovr < 100 ∨ 100000 < ovr) || decide (ms.eraseDups.length ≠ ms.length))), 1),
        (ms.any fun f => !s.exists_ f, 6), (moved.any fun f => (s.fn f).isLocked, 5), (!en && s.part.owner.any fun e => decide (e.2 = 256 + k), 3)]
      (∃ u : State, done .pool 0 u ∧ u.mem = s.mem ∧ (∀ j, j ≠ k → u.pool j = s.pool j) ∧
        (∀ g, u.fn g = if g ∈ ms then { s.fn g with prebud := BitVec.ofNat 64 budget } else s.fn g) ∧ (en = false → u.pool k = {}) ∧
        (en = true → let p := u.pool k
          p.en = true ∧ p.slicelen = len ∧ p.budget = budget ∧ p.ovrlim = ovr ∧ p.next.getD p.members = ms ∧ p.cur = (s.pool k).cur ∧
          ((s.pool k).cur ≠ 0 → p.members = (s.pool k).members)))) ∧
  (∀ k ∈ [(0x88, Instr.roots), (0x89, .shoot)], due k.1 → ∀ h, s.part.shoots.find? (fun h => decide (h.cmd = c.id)) = some h →
    (s.shootDone h = false → goesOn k.2 s) ∧ (s.shootDone h = true → done k.2 0 (s.endShoot h) ∧ ∀ u, u < 322 → u ∈ h.acked)) ∧
  (due 0x88 → (∀ h ∈ s.part.shoots, h.cmd ≠ c.id) → let stage := bf (cdw m 2) 9 8
    order .roots [(!okBits m (if stage = 2 then 3 else 0) [0x30F, m48] || decide (stage ≠ 1 ∧ stage ≠ 2) || decide (cdw m 3 % 4096 ≠ 0), 1), (!s.exists_ f, 6),
        (decide (stage = 2) && s.lockedOut m [f], 5)]
      (∃ u : State, goesOn .roots (u.commitRelock m [f]) ∧ u.mem = s.mem ∧ (∀ k, k ≠ f → u.fn k = s.fn k) ∧ (∀ e ∈ u.cache.tlb, e ∈ s.cache.tlb ∧ e.fn ≠ f) ∧
        u.part.shoots = s.part.shoots ++ [{ cmd := c.id, fn := f, stage := stage, all := true, since := s.clk.time }] ∧
        u.fn f = if stage = 1 then { s.fn f with s1root := some (cdw m 3) } else { s.fn f with s2root := some (cdw m 3) })) ∧
  (due 0x89 → ((∀ h ∈ s.part.shoots, h.cmd ≠ c.id) → order .shoot [(!okBits m 0 [0x1030F, m48, m48] || decide (bf (cdw m 2) 9 8 = 0) ||
          (!bit (cdw m 2) 16 && (decide (cdw m 3 % 4096 ≠ 0) || decide (cdw m 4 % 4096 ≠ 0))), 1), (!s.exists_ f, 6)]
      (goesOn .shoot { s with part := { s.part with shoots := s.part.shoots ++
        [{ cmd := c.id, fn := f, stage := bf (cdw m 2) 9 8, all := bit (cdw m 2) 16, base := cdw m 3, len := cdw m 4, since := s.clk.time }] } }))) ∧
  (due 0x8A → let every := bit (cdw m 2) 8
    order .replay [(!okBits m 0 [0x10F], 1), (!every && !s.exists_ f, 6)]
      ((every = false → done .replay 0 (s.replayFn f)) ∧ (every = true → done .replay 0 (((List.range 16).filter s.exists_).foldl (fun (u : State) f => u.replayFn f) s)))) ∧
  (let u := s.replayFn f
   u.mem = s.mem ∧ (u.fn f).noted = [] ∧ (∀ e ∈ u.teams, e.2.fn = f → e.2.held = false ∧ e.2.waitPage = none) ∧
   (∀ d ∈ u.eng.cmds, d.fn = f → d.st ≠ .parked) ∧ ∀ e ∈ s.teams, e.2.fn = f → e.2.st = .saved → e.2.byFault = true → ∃ q ∈ u.sched.queue, q.2 = .team e.1) ∧
  (due 0x8B → order .nbpool [(!okBits m 3 [0xF, m48, m48] || decide (cdw m 3 % 65536 ≠ 0) || decide (cdw m 4 % 65536 ≠ 0), 1), (s.lockedOut m [f], 5),
        (s.part.allocs.any fun a => decide (a.slice = f), 3), (decide (2 ^ 48 < cdw m 3 + cdw m 4) || !s.poolResolves f (cdw m 3) (cdw m 4), 4)]
      (done .nbpool 0 (({ s with part := { s.part with nbpool := SMap.set (0, 0) s.part.nbpool f (cdw m 3, cdw m 4) } } : State).commitRelock m [f])))

/-- Commands of the manager on tables and claims. SHELFLOG places an empty log, sets a quota or trims; FAQ sets up the fault-address queue; QUERY
writes the miss counters out; CLAIM records a host claim or finds the page claimed, and CANCEL takes it back; SRAMSPLIT and LIMITS set their
registers; READ writes a pool record or an entry image; RINGLOAD reads ring-table entries again; PFCONF configures the physical function, once;
FRING sets a fault ring up; a table that cannot be read, or an index word that cannot be written, gives PST 1 (R28, R65, R321, R329, R330, R344, R351, R370, R387, R461–R463; the order of checks, the leaf of a claim, a RESULT that fails at the end: log entries 103, 177, 182, 207). -/
def Obligations.TableCommands : Prop := ∀ (c : Cmd) (s : State),
  let m := c.img
  let f := bf (cdw m 2) 3 0
  let due (code : Nat) : Prop := s.cmdFor s.item 8 code = some c ∧ s.partTurn c = true ∧ (c.started = true ∨ s.resultOk m = true)
  let done (i : Instr) (d : Nat) (u : State) : Prop := exec i s = .next (if u.resultOk m then u.partEnd c.id 0 d else (if c.started then u else s).partEnd c.id 1 0)
  let no (i : Instr) (pst : Nat) : Prop := exec i s = .next (s.partEnd c.id pst 0)
  let order (i : Instr) (checks : List (Bool × Nat)) (good : Prop) : Prop := (∀ p, refusal checks = some p → no i p) ∧ (refusal checks = none → good)
  (due 0x8C → let a := cdw m 3
    let n := cdw m 4
    let g := s.fn f
    (bf (cdw m 2) 9 8 = 3 → no .shelflogSetLog 1) ∧
    (bf (cdw m 2) 9 8 = 0 → order .shelflogSetLog [(!okBits m 3 [0x30F, 2 ^ 40 - 1, 2 ^ 40 - 1], 1), (!s.exists_ f, 6), (decide (805306368 < a % 2 ^ 38 + n), 1),
        (s.lockedOut m [f], 5), (decide (g.logHead ≠ g.logStart), 3)]
      (done .shelflogSetLog 0 ((s.setFn f { g with logBase := a, logLen := n, logHead := a, logStart := a }).commitRelock m [f]))) ∧
    (bf (cdw m 2) 9 8 = 1 → order .shelflogSetQuota [(!okBits m 3 [0x30F, 2 ^ 40 - 1, 2 ^ 40 - 1], 1), (!s.exists_ f, 6), (s.lockedOut m [f], 5)]
      (done .shelflogSetQuota 0 ((s.setFn f { g with quota := n }).commitRelock m [f]))) ∧
    (bf (cdw m 2) 9 8 = 2 → order .shelflogTrim [(!okBits m 0 [0x30F, 2 ^ 40 - 1, 2 ^ 40 - 1], 1), (!s.exists_ f, 6), (decide (a < g.logStart ∨ g.logHead < a), 1)]
      (∃ u : State, done .shelflogTrim 0 u ∧ u.mem = s.mem ∧ u.fn f = { g with logStart := a } ∧ (∀ k, k ≠ f → u.fn k = s.fn k) ∧
        ∀ p, SMap.get none u.ras.shelf p = if g.logStart ≤ p ∧ p < a then none else SMap.get none s.ras.shelf p))) ∧
  (due 0x8D → order .faq [(!okBits m 0 [m48, 0x1FFFF, m48] || decide (cdw m 2 % 16 ≠ 0) ||
          !decide (cdw m 3 ∈ [1024, 2048, 4096, 8192, 16384, 32768, 65536]) || decide (cdw m 4 % 8 ≠ 0), 1),
        ((s.hubReach .store (cdw m 2) 16).isNone || (s.hubReach .rw (cdw m 4) 8).isNone, 1)]
      ((s.hubWrite (cdw m 4) 8 0 = none → no .faq 1) ∧ ∀ u, s.hubWrite (cdw m 4) 8 0 = some u →
        done .faq 0 { u with part := { u.part with faq := some (cdw m 2, cdw m 3, cdw m 4), faqW := 0 } })) ∧
  (due 0x8E → let a := cdw m 2 % 2 ^ 48
    let total (k : Nat) : Nat := min ((s.part.misses.filter fun e => e.1 % 64 = k).foldl (fun n e => n + e.2) 0) (2 ^ 32 - 1)
    let counts := (List.range 32).map fun i => total (2 * i) + 2 ^ 32 * total (2 * i + 1)
    order .query [(!okBits m 0 [2 ^ 49 - 1] || decide (a % 8 ≠ 0), 1)] ((s.hubWrites a counts = none → no .query 1) ∧
      ∀ u, s.hubWrites a counts = some u → done .query 0 (if bit (cdw m 2) 48 then { u with part := { u.part with misses := [] } } else u))) ∧
  (due 0x8F → let base := (s.leafPage f (cdw m 3)).1
    let size := (s.leafPage f (cdw m 3)).2.1
    let leaf := (s.leafPage f (cdw m 3)).2.2
    let held := s.part.claims.filter s.claimOpen
    let mine := held.find? fun e => e.on f base size
    (bit (cdw m 2) 8 = false → exec .claimCancel s = .next s ∧
      order .claim [(!okBits m 0 [0x10F, m48], 1), (!s.exists_ f, 6), (mine.isNone && decide (4096 ≤ held.length), 3)]
      ((mine = none → done .claim 0 { s with part := { s.part with claims := held ++ [{ fn := f, base := base, size := size, e := leaf, host := true }] } }) ∧
       (∀ e, mine = some e → e.host = true → done .claim 2 { s with part := { s.part with claims := held } }) ∧
       (∀ e, mine = some e → e.host = false → ∃ v : State, done .claim 1 (v.retryPage f 2 base size) ∧ v.mem = s.mem ∧ (f, base, size, leaf) ∈ v.part.stay ∧
         ∀ e, e ∈ v.part.claims ↔ e ∈ held ∧ e.on f base size = false))) ∧
    (bit (cdw m 2) 8 = true → exec .claim s = .next s ∧ order .claimCancel [(!okBits m 0 [0x10F, m48], 1), (!s.exists_ f, 6)]
      (done .claimCancel 0 { s with part := { s.part with
        claims := s.part.claims.filter fun e => !(e.on f (cdw m 3 / 4096 * 4096) 4096 && e.host) } }))) ∧
  (due 0x90 → order .sramsplit [(!okBits m 0 [0xF, m64, m64, m64] || decide (8 < cdw m 2), 1)]
      (∃ u : State, done .sramsplit 0 u ∧ { u with part := s.part } = s ∧ { u.part with split := s.part.split } = s.part ∧
        ∀ core, SMap.get 0 u.part.split core = if core / 2 ∈ pairMask m then cdw m 2 else SMap.get 0 s.part.split core)) ∧
  (due 0x91 → order .limits [(!okBits m 0 [0xFFFF] || decide (cdw m 2 < 1600 ∨ 3200 < cdw m 2) || decide (cdw m 2 % 50 ≠ 0), 1)]
      (done .limits 0 { s with ras := { s.ras with limitW := cdw m 2 } })) ∧
  (due 0x92 → let kind := bf (cdw m 3) 1 0
    let k := bf (cdw m 3) 11 8
    let pool := s.pool k
    let record := [pool.slicelen * 2 ^ 32 + (if pool.en then 256 else 0) + pool.cur % 16, ofNibbles (pool.next.getD pool.members),
      pool.ovrlim * 2 ^ 32 + pool.budget, pool.curlen / 1000 * 2 ^ 32]
    let image := [(s.artEntry k).d0.toNat, (s.artEntry k).d1.toNat, (s.artEntry k).d2.toNat, (s.artEntry k).d3.toNat]
    let fits := [(!okBits m 0 [m48, 0xF03] || decide (cdw m 2 % 32 ≠ 0), 1)]
    (kind = 0 ∨ kind = 3 → no .readPoolRecord 1) ∧
    (kind = 1 → order .readPoolRecord fits ((8 ≤ k ∨ s.hubWrites (cdw m 2) record = none → no .readPoolRecord 1) ∧
      (∀ u, k < 8 → s.hubWrites (cdw m 2) record = some u → done .readPoolRecord 0 u))) ∧
    (kind = 2 → order .readEntryImage fits ((s.hubWrites (cdw m 2) image = none → no .readEntryImage 1) ∧
      (∀ u, s.hubWrites (cdw m 2) image = some u → done .readEntryImage 0 u)))) ∧
  (due 0x93 → let which := if bit (cdw m 2) 16 then List.range 64 else [bf (cdw m 2) 13 8]
    order .ringload [(!okBits m 0 [0x13F0F], 1), (!(s.fn f).made, 6)] ((s.readRings (s.fn f).ringTab which = none → no .ringload 1) ∧
      ∀ l, s.readRings (s.fn f).ringTab which = some l → (s.loadRings f l = none → no .ringload 1) ∧
        ∀ n u, s.loadRings f l = some (n, u) → done .ringload (min n 255) u)) ∧
  (due 0x94 → order .pfconf [(!okBits m 0 (vfMasks 0) || !vfRanges m, 1), ((s.fn 0).made, 6)]
      ((s.readRings (cdw m 3) (List.range 64) = none → no .pfconf 1) ∧
       ∀ l, s.readRings (cdw m 3) (List.range 64) = some l → (s.setFunction 0 m l = none → no .pfconf 1) ∧
        (∀ n u, s.setFunction 0 m l = some (n, u) → done .pfconf (min n 255) u ∧ (∀ k, k ≠ 0 → u.fn k = s.fn k) ∧
         { u.fn 0 with rings := (s.fn 0).rings } = { s.fn 0 with made := true, bandLo := bf (cdw m 2) 12 8, bandHi := bf (cdw m 2) 20 16, iqDepth := bf (cdw m 2) 42 32, ringTab := cdw m 3, s2root := if cdw m 4 = 0 then (s.fn 0).s2root else some (cdw m 4), frames := cdw m 5, nframes := cdw m 6 }))) ∧
  (due 0x95 → let n := bf (cdw m 4) 3 0
    order .fring [(!okBits m 0 [0xF, m48, 0xF + 0x3F * 2 ^ 48 + 2 ^ 63, m48] || decide (n < 4 ∨ 12 < n) || decide (cdw m 3 % (32 * 2 ^ n) ≠ 0) || decide (cdw m 5 % 8 ≠ 0), 1),
        (!s.exists_ f, 6), ((s.hubReach .store (cdw m 3) 32).isNone || (s.hubReach .rw (cdw m 5) 8).isNone, 1)]
      ((s.hubWrite (cdw m 5) 8 0 = none → no .fring 1) ∧ ∀ u, s.hubWrite (cdw m 5) 8 0 = some u → done .fring 0 (u.updFn f fun c =>
        { c with fring := some (cdw m 3, n, bf (cdw m 4) 53 48, bit (cdw m 4) 63, cdw m 5), fwidx := 0 })))

/-- Commands of the migration engine and of Lighthouse. MBEGIN stages an image of an enabled entry that moves it to banks that no entry names;
MCOPY and MDIRTY copy a unit of 1 KB to a step; MSWITCH copies the dirty ones and replaces the entry in one step; MRELEASE zeroes the banks left
behind and returns them to slice 0; MABORT leaves the entry as it was. LHFUSE, LHNONCE and LHMEAS write out fuses, a fresh nonce, a measurement;
LHBAD reads and changes the bad-page list; LHUNLOCK, with a fresh nonce and a good signature, zeroises the tenants' keys, and once no interface
is locked extends index 30 and moves the lifecycle, then opens debug and completes (R331, R375, R380, R381, R455–R458; log entries 120, 121,
126, 207, 216). -/
def Obligations.MigrationAndKeyCommands : Prop := ∀ (c : Cmd) (s : State),
  let m := c.img
  let due (qn code : Nat) : Prop := s.cmdFor s.item qn code = some c ∧ s.partTurn c = true ∧ (c.started = true ∨ s.resultOk m = true)
  let done (i : Instr) (d : Nat) (u : State) : Prop := exec i s = .next (if u.resultOk m then u.partEnd c.id 0 d else (if c.started then u else s).partEnd c.id 1 0)
  let no (i : Instr) (pst : Nat) : Prop := exec i s = .next (s.partEnd c.id pst 0)
  let goesOn (i : Instr) (u : State) : Prop := exec i s = .next (u.updCmd c.id fun c => { c with started := true })
  let order (i : Instr) (checks : List (Bool × Nat)) (good : Prop) : Prop := (∀ p, refusal checks = some p → no i p) ∧ (refusal checks = none → good)
  (∀ k ∈ [(9, 0xB0, Instr.mbegin), (9, 0xB1, .mcopy), (9, 0xB2, .mdirty), (9, 0xB3, .mswitch), (9, 0xB4, .mrelease), (9, 0xB5, .mabort), (10, 0xA0, .lhfuse),
      (10, 0xA1, .lhnonce), (10, 0xA2, .lhunlock), (10, 0xA3, .lhmeas)], (s.cmdFor s.item k.1 k.2.1 = none → exec k.2.2 s = .next s) ∧
    (s.cmdFor s.item k.1 k.2.1 = some c → (s.partTurn c = false → exec k.2.2 s = .next s) ∧
      (s.partTurn c = true → c.started = false → s.resultOk m = false → no k.2.2 1))) ∧
  (due 9 0xB0 → let n := bf (cdw m 2) 3 0
    let e := imageOf m
    let old := s.artEntry n
    order .mbegin [(!okBits m 0 imageMasks, 1), (s.part.mig.isSome, 3), (!old.en, 6),
        (decide (e.base ≠ old.base ∨ e.limit ≠ old.limit ∨ e.slice ≠ old.slice ∨ e.gr ≠ old.gr ∨ e.rowbase ≠ old.rowbase) || !e.en || decide (e.gr < 2), 1),
        (!s.artFits n e false || (e.banks.any fun b => old.names b) || (s.part.art.any fun o => decide (o.1 ≠ n) && o.2.en && e.banks.any fun b => o.2.names b), 4)]
      (done .mbegin 0 { s with part := { s.part with mig := some { entry := n, image := e, old := old } } })) ∧
  (∀ g, s.part.mig = some g → g.entry = bf (cdw m 2) 3 0 →
    let fine : Prop := okBits m 0 [0xF] = true
    let tally : Nat := min (s.cmd c.id).detail 255
    let a (u : Nat) : Nat := g.old.base + 1024 * u
    let src (u : Nat) : Nat := (s.artEntry g.entry).resolve (a u)
    let dst (u : Nat) : Nat := g.image.resolve (a u)
    (s.lh.keyless = [] → s.ras.lost = [] → s.part.faq = none → ∀ u, src u ≠ dst u → (s.copyUnit g u).2.mem = memWrite s.mem (dst u) 1024 (memRead s.mem (src u) 1024)) ∧
    (∀ u, src u = dst u → s.copyUnit g u = (false, s)) ∧
    (due 9 0xB1 → (¬ fine → c.started = false → no .mcopy 1) ∧ (fine ∨ c.started = true →
      ((g.old.limit - g.old.base) / 1024 ≤ c.pos → done .mcopy tally s) ∧
      (c.pos < (g.old.limit - g.old.base) / 1024 → goesOn .mcopy (((s.copyUnit g c.pos).2).updCmd c.id fun c' =>
        { c' with pos := c.pos + 1, detail := c'.detail + if (s.copyUnit g c.pos).1 then 1 else 0 })))) ∧
    (due 9 0xB2 → (¬ fine → c.started = false → no .mdirty 1) ∧
      (fine → c.started = false → goesOn .mdirty { s with part := { s.part with mig := some { g with todo := g.dirtyUnits } } }) ∧
      (c.started = true → (g.todo = [] → done .mdirty tally s) ∧ ∀ u t, g.todo = u :: t → ∃ v : State, goesOn .mdirty v ∧ v.mem = (s.copyUnit g u).2.mem ∧
        v.part.mig = (s.copyUnit g u).2.part.mig.map fun g => { g with todo := t })) ∧
    (due 9 0xB3 → (okBits m 3 [0xF] = false → no .mswitch 1) ∧ (okBits m 3 [0xF] = true →
      (s.lockedOut m [g.old.slice] = true → no .mswitch 5) ∧ (s.lockedOut m [g.old.slice] = false →
        (g.switched = true → done .mswitch 0 (s.commitRelock m [g.old.slice])) ∧
        (g.switched = false → ∃ (n : Nat) (u : State), done .mswitch (min n 255) (u.commitRelock m [g.old.slice]) ∧ u.mem = (s.copyUnits g g.dirtyUnits).2.mem ∧
          u.artEntry g.entry = g.image ∧ (∀ k, k ≠ g.entry → u.artEntry k = s.artEntry k))))) ∧
    (due 9 0xB4 → (okBits m 3 [0xF] = false → no .mrelease 1) ∧ (okBits m 3 [0xF] = true →
      (s.lockedOut m [g.old.slice] = true → no .mrelease 5) ∧ (s.lockedOut m [g.old.slice] = false →
        let bs := if g.switched then g.old.banks.filter fun b => !(s.artEntry g.entry).names b else []
        ∃ u : State, done .mrelease 0 (u.commitRelock m [g.old.slice]) ∧ u.part.mig = none ∧ u.part.art = s.part.art ∧ u.fns = s.fns ∧
          (∀ b, u.sliceOf b = if b ∈ bs then 0 else s.sliceOf b) ∧
          ∀ k, memRead u.mem k 1 = if k < 2 ^ 40 ∧ keyBank k ∈ bs then 0 else memRead s.mem k 1))) ∧
    (due 9 0xB5 → (¬ fine → no .mabort 1) ∧ (fine → done .mabort 0 { s with part := { s.part with mig := none } }))) ∧
  ((∀ g, s.part.mig = some g → g.entry ≠ bf (cdw m 2) 3 0) →
    (due 9 0xB1 → okBits m 0 [0xF] = true → no .mcopy 6) ∧ (due 9 0xB2 → okBits m 0 [0xF] = true → no .mdirty 6) ∧
    (due 9 0xB3 → okBits m 3 [0xF] = true → no .mswitch 6) ∧ (due 9 0xB4 → okBits m 3 [0xF] = true → no .mrelease 6) ∧
    (due 9 0xB5 → okBits m 0 [0xF] = true → no .mabort 6)) ∧
  (let writes (i : Instr) (fine : Bool) (a : Nat) (words : List Nat) (then_ : State → State) : Prop :=
    (fine = false → no i 1) ∧ (fine = true → (s.hubWrites a words = none → no i 1) ∧ ∀ u, s.hubWrites a words = some u → done i 0 (then_ u))
   let fine (masks : List Nat) (align a : Nat) : Bool := okBits m 0 masks && decide (a % align = 0)
   let k := cdw m 3
   (due 10 0xA0 → writes .lhfuse (fine [m48] 64 (cdw m 2)) (cdw m 2)
      (dwordsIn 2 Config.devid.toNat ++ [s.lh.fuseLcs] ++ dwordsIn 6 Config.dbgKeyHash.toNat ++ List.replicate 7 0) fun u => u) ∧
   (due 10 0xA1 → ∃ n : BitVec 256, writes .lhnonce (fine [m48] 32 (cdw m 2)) (cdw m 2) (dwordsIn 4 n.toNat)
      fun u => { u with lh := { u.lh with nonce := some (n, u.clk.time) } }) ∧
   (due 10 0xA3 → writes .lhmeas (fine [m48, 0xFF] 64 (cdw m 2) && decide (1 ≤ k ∧ k ≤ 31)) (cdw m 2)
      ([k + SMap.get 0 s.lh.ext k % 2 ^ 16 * 2 ^ 16] ++ dwordsIn 6 (SMap.get 0 s.lh.meas k : BitVec 384).toNat ++ [0]) fun u => u) ∧
   (due 10 0xA4 → let entry : BitVec 36 := BitVec.ofNat 36 k
     (cdw m 2 % 4 = 3 → no .lhbadRead 1) ∧
     (cdw m 2 % 4 = 0 → writes .lhbadRead (fine [3, m48] 8 k) k (s.lh.bad.length :: s.lh.bad.map BitVec.toNat) fun u => u) ∧
     (cdw m 2 % 4 = 1 → (okBits m 0 [3, 2 ^ 36 - 1] = false → no .lhbadAdd 1) ∧ (okBits m 0 [3, 2 ^ 36 - 1] = true →
       (entry ∈ s.lh.bad → done .lhbadAdd 0 s) ∧ (entry ∉ s.lh.bad → 8192 ≤ s.lh.bad.length → no .lhbadAdd 3) ∧
       (entry ∉ s.lh.bad → s.lh.bad.length < 8192 → done .lhbadAdd 0 { s with lh := { s.lh with bad := s.lh.bad ++ [entry] } }))) ∧
     (cdw m 2 % 4 = 2 → (okBits m 0 [3, 2 ^ 36 - 1] = false → no .lhbadRemove 1) ∧
       (okBits m 0 [3, 2 ^ 36 - 1] = true → done .lhbadRemove 0 { s with lh := { s.lh with bad := s.lh.bad.filter fun e => e != entry } }))) ∧
   (∀ (u : State) (pst d : Nat), (u.cmd c.id).isUnlock = true → let l := (u.partEnd c.id pst d).lh
     l.nonce = none ∧ l.failed = if pst = 0 ∨ pst = 9 then u.lh.failed else u.lh.failed + 1) ∧
   (due 10 0xA2 →
     (∀ level nonce, c.pos ≠ 0 → s.lh.unlocking = some (level, nonce) →
       (c.pos = 1 → (∃ f, f < 16 ∧ ((s.fn f).reset.isSome = true ∨ (s.fn f).isLocked = true)) → goesOn .lhunlock s) ∧
       (c.pos = 1 → (∀ f, f < 16 → (s.fn f).reset = none ∧ (s.fn f).isLocked = false) → ∃ l : Lh,
         goesOn .lhunlock (({ s with lh := l } : State).updCmd c.id fun c => { c with pos := 2 }) ∧ l.debugLevel = s.lh.debugLevel ∧
         l.lcs = (if level ≤ 2 then 3 else if level = 3 then 4 else 5) ∧ l.fuseLcs = (if level ≤ 2 then s.lh.fuseLcs else if level = 3 then 4 else 5) ∧
         l.idKey = (s.lh.idKey && decide (level < 4)) ∧
         SMap.get 0 l.meas 30 = Config.sha384 (bytesOf 48 (SMap.get 0 s.lh.meas 30 : BitVec 384).toNat ++ (bytesOf 1 1 ++ bytesOf 1 level ++ nonce ++
           bytesOf 48 Config.dbgKeyHash.toNat))) ∧
       (c.pos ≠ 1 → done .lhunlock 0 { s with lh := { s.lh with debugLevel := level, unlocking := none } })) ∧
     (c.pos = 0 ∨ s.lh.unlocking = none → (16 ≤ s.lh.failed → no .lhunlock 9) ∧ (s.lh.failed < 16 → fine [m48] 64 (cdw m 2) = false → no .lhunlock 1) ∧
     (s.lh.failed < 16 → fine [m48] 64 (cdw m 2) = true → s.hubReads (cdw m 2) 32 = none → no .lhunlock 1) ∧
     ∀ d, s.lh.failed < 16 → fine [m48] 64 (cdw m 2) = true → s.hubReads (cdw m 2) 32 = some d →
       let level := d.headD 0
       let b := tokenBytes d
       let nonce := (b.drop 0x10).take 0x20
       let num (o : Nat) : BitVec 384 := BitVec.ofNat 384 (memRead ((b.zipIdx.map fun e => (e.2, e.1)).filter fun e => e.2 != 0) o 48)
       let shaped : Prop := 1 ≤ level ∧ level ≤ 4 ∧ d.getD 1 0 = 0 ∧ d.getD 30 0 = 0 ∧ d.getD 31 0 = 0
       let allowed : Prop := s.lh.fuseLcs ≠ 5 ∧ (level < 4 → s.lh.fuseLcs = 2)
       let fresh : Prop := ∃ n t, s.lh.nonce = some (n, t) ∧ s.since t < 60000000000 ∧ nonce = bytesOf 32 n.toNat
       let signed : Prop := Config.sha384 (4 :: (b.drop 0x30).take 0x60) = Config.dbgKeyHash ∧ Config.ecdsaValid (Config.sha384 (bytesOf 16 Config.devid.toNat ++
         bytesOf 1 s.lh.fuseLcs ++ nonce ++ bytesOf 1 level)) (num 0x30) (num 0x60) (num 0x90) (num 0xC0) = true
       (¬ shaped → no .lhunlock 1) ∧ (shaped → ¬ allowed → no .lhunlock 9) ∧ (shaped → allowed → ¬ fresh → no .lhunlock 8) ∧
       (shaped → allowed → fresh → ¬ signed → no .lhunlock 7) ∧
       (shaped → allowed → fresh → signed → ∃ u : State, goesOn .lhunlock (u.updCmd c.id fun c => { c with pos := 1 }) ∧ u.lh.nonce = none ∧
         u.lh.unlocking = some (level, nonce) ∧ u.lh.shelfKey = [] ∧ u.lh.ide = [] ∧
         ∀ store k n, 1 ≤ n → n ≤ 15 → SMap.get 0 u.lh.keys (keyAt store k n) = 0 ∧ n ∈ u.lh.keyless))))

/-- What each operand of an instruction is: of a thread register, uniform register or predicate that has no result outstanding, what stands
there, p7 being true; of a port, the element at the head of the lane's inbound queue, the next one for a second reader of the port, and zero
past COUNT. A register with a result outstanding gives each element its old or its new value (R54, R100, R105). -/
def Obligations.OperandReads : Prop := ∀ (i : Instr) (f : Focus) (s : State) (k l r : Nat) (file : RegFile),
  let g := Safe.grp f s
  (opOf i).rd[k]? = some (file, r) →
  (¬ (file = .x ∧ 60 ≤ r) → (∀ q ∈ g.out, q.live = true → q.isFor file l r = false) →
    (file = .x → Safe.src i f s k l = g.xr l r) ∧ (file = .w → Safe.src i f s k l = g.wr r) ∧
    (file = .p → Safe.src i f s k l = if g.pr r l = true then 1 else 0)) ∧
  (file = .p → r = 7 → g.pr r l = true) ∧
  (¬ (file = .x ∧ 60 ≤ r) → ∀ v, (∀ q ∈ g.out, q.live = true → q.isFor file l r = true → q.ready = true ∧ q.poison = false ∧ q.val = v) →
    ((opOf i).ew = 8 ∨ (opOf i).ew = 16 ∨ (opOf i).ew = 32 ∨ (opOf i).ew = 64) → ∀ e, e < 64 / (opOf i).ew →
    let elem (x : Word) : Nat := x.toNat / 2 ^ ((opOf i).ew * e) % 2 ^ (opOf i).ew
    elem (Safe.src i f s k l) = elem (g.stands file l r) ∨ elem (Safe.src i f s k l) = elem v) ∧
  (file = .x → 60 ≤ r → let p := g.port l (r - 60)
    let before := (((opOf i).rd.take k).filter fun o => decide (o.1 = .x ∧ o.2 = r)).length
    ((SMap.get {} (s.team f.team).streams (r - 60) : Stream).count ≤ p.popped + before → Safe.src i f s k l = 0) ∧
    (p.popped + before < (SMap.get {} (s.team f.team).streams (r - 60) : Stream).count → ∀ v, p.got[before]? = some v → Safe.src i f s k l = v))

/-- The package right after reset (R5, R27, R28, R129, R131, R315, R370): every bank, ledge core and range entry belongs to slice 0, every pair to
the physical function; no function is created, and the enqueue port answers each of them busy, the window of a virtual one Unsupported
Request; the range table and the pool records read zero; SY.TSTICK is 64, SY.LEASE 16, SY.PREBUD 20,000, SY.PREHDL, SY.HVF and SY.SRAMSPLIT 0;
the power limit is 3,200 W, the clock 1,400 MHz; interfaces are unlocked; no team runs. That memory reads zero is the model's choice (log entry 5). -/
def Obligations.ResetValues : Prop :=
  let s := State.reset
  s.teams = [] ∧ s.sched.grids = [] ∧ s.eng.cmds = [] ∧ s.part.mig = none ∧ s.ras.fatal = false ∧
  s.cache.tstick = 64 ∧ s.cache.lease = 16 ∧ s.ras.limitW = 3200 ∧ s.ras.clockMhz = 1400 ∧
  (∀ b, s.sliceOf b = 0) ∧ (∀ k, SMap.get 0 s.part.ledgeSlice k = 0) ∧ (∀ p, s.pairOwner p = 0) ∧
  (∀ n, (s.artEntry n).d0 = 0 ∧ (s.artEntry n).d1 = 0 ∧ (s.artEntry n).d2 = 0 ∧ (s.artEntry n).d3 = 0) ∧
  (∀ k, let p := s.pool k
    p.en = false ∧ p.slicelen = 0 ∧ p.cur = 0 ∧ p.members = [] ∧ p.next = none ∧ p.ovrlim = 0 ∧ p.budget = 0 ∧ p.curlen = 0) ∧
  (∀ c, SMap.get 0 s.part.hvf c = 0 ∧ SMap.get 0 s.part.split c = 0) ∧
  (∀ f, (s.fn f).made = false ∧ (s.fn f).prehdl = 0 ∧ (s.fn f).prebud = 20000 ∧ (s.fn f).iface = .unlocked) ∧
  (∀ f img, f < 16 → exec (.enqueueWrite f 128 0 true img) s = .next { s with outbox := s.outbox ++ [.enqueue f 1] }) ∧
  (∀ f bar off wr v, f ≠ 0 → f < 16 → exec (.hostBarRequest f bar off wr v) s = .next { s with outbox := s.outbox ++ [.bar f true 0] }) ∧
  ∀ a n, s.rd a n = 0

/-- The memory of the package right after reset is in canonical form. -/
def Obligations.ResetIsCanonical : Prop := Safe.canonical State.reset

/-- Every step keeps memory in canonical form: whatever the step does, equal memories stay equal data. -/
def Obligations.StepsKeepMemoryCanonical : Prop := ∀ s t : State, Safe.canonical s → step s = .next t → Safe.canonical t

/-- A step runs what stands at the focus (R92–R94, R97, R115, R333): the word there, at a clause header read as a header, else as an instruction
word; a word that decodes to nothing is the illegal header or instruction; where the unit holds no translation of the code's page, the walk
for it. With no focus it is a step of the device, before all of them a deed of an outside party that has landed; a fatal error lets nothing
but a package reset on (R403, R410). What follows, settling what waited, time, the choice of the next to move, is the model's (log entries
3 and 4). -/
def Obligations.StepsRunWhatTheyFetch : Prop := ∀ s : State,
  let then_ (o : Host.Outcome State Fault Refusal) : Prop := step s = after o
  (∀ t : State, after (.next t) = .next t.upkeep.tick.reschedule) ∧
  (s.inbox = [] → s.ras.fatal = false → ∀ f, s.focus = some f →
    let pt := Safe.place f s
    let word := s.fetchWord (s.team f.team).regime pt.addr.toNat
    (∀ w i, word = some w → pt.pos ≠ 0 → decodeInstr w = .ok i → then_ (exec i s)) ∧
    (∀ w e, word = some w → pt.pos ≠ 0 → decodeInstr w = .error e → then_ (exec (.illegalInstruction (BitVec.ofNat 32 w)) s)) ∧
    (∀ w i, word = some w → pt.pos = 0 → decodeHeader w = .ok i → then_ (exec i s)) ∧
    (∀ w e, word = some w → pt.pos = 0 → decodeHeader w = .error e → then_ (exec (.illegalClauseHeader (BitVec.ofNat 32 w)) s)) ∧
    (word = none → then_ (exec (.pageWalk (s.team f.team).core (s.team f.team).fn pt.addr.toNat 2) s)) ∧
    (∀ e x, s.cache.tlb.find? (fun e => e.covers (s.team f.team).regime pt.addr.toNat) = some e → s.ofTlb e pt.addr.toNat = .ok x → x.x = true →
      s.wrongSlice (s.team f.team).regime x = false → word = some (s.rd x.key 4))) ∧
  (s.inbox = [] → s.ras.fatal = false → s.focus = none →
    (∀ e, s.pickEvent = some e → e ∈ s.enabled ∧ then_ (exec e.1 { s with item := e.2 })) ∧ (s.pickEvent = none → s.enabled = [] ∧ then_ (.next s))) ∧
  (∀ e rest, s.inbox = e :: rest → (s.ras.fatal = false ∨ ∃ ok, e = .packageReset ok) → then_ (exec e { s with inbox := rest, focus := none })) ∧
  (s.ras.fatal = true → (∀ ok rest, s.inbox ≠ .packageReset ok :: rest) → step s = .fault .fatalPackage)

/-- Words written out from the encodings of R93, R102–R114: an ADD, an FADD, an LD, an ST, a BR, an MMA and others stand for what they say. -/
def Obligations.DecodedWords : Prop :=
  decodeTableWord 32 0x00000003 = some (.clauseHeader false false 0 false false false false false false false false 0 3) ∧
  decodeTableWord 32 0x01041020 = some (.add false 1 1 0 true 0 false false) ∧
  decodeTableWord 32 0x2020D48A = some (.fadd false 8 13 18 false 1 false 2) ∧
  decodeTableWord 32 0x4B107000 = some (.rfal false 4 7) ∧
  decodeTableWord 32 0xD80C1003 = some (.ld true 3 1 0 3) ∧
  decodeTableWord 32 0x590C1003 = some (.st false 3 1 0 3) ∧
  decodeTableWord 32 0x5E142268 = some (.amo false 5 2 9 2 true 0) ∧
  decodeTableWord 32 0x61000005 = some (.fenceRel false 1) ∧
  decodeTableWord 32 0x685FFFF0 = some (.br false 2 true 0xFFFF0) ∧
  decodeTableWord 32 0x7820D480 = some (.mma false 8 13 18) ∧
  decodeTableWord 32 0x7C20D400 = some (.push false 8 13 2 false) ∧
  decodeTableWord 32 0x7D20000D = some (.mfs false 8 13) ∧
  decodeTableWord 32 0x7D147000 = none

/-- Every well-formed instruction with a word is what its word decodes to, and a word that decodes is the word of what it decodes to, so that no bit
of an encoding is dropped (R93, R102–R115). -/
def Obligations.WordsAndInstructionsAgree : Prop :=
  (∀ (i : Instr) (w : Nat), i.wellFormed = true → encode i = some w → w < 2 ^ 32 ∧ decodeTableWord 32 w = some i ∧
    (decodeInstr w = .ok i ∨ decodeHeader w = .ok i)) ∧
  (∀ (w : Nat) (i : Instr), w < 2 ^ 32 → decodeInstr w = .ok i → encode i = some w) ∧
  (∀ (w : Nat) (i : Instr), w < 2 ^ 32 → decodeHeader w = .ok i → encode i = some w) ∧
  ∀ (w : Nat) (i j : Instr), decodeInstr w = .ok i → decodeHeader w ≠ .ok j
end

