-- ==== Sys2Proof/Laws/SMap.lean ====
section
/-! SUPPORT. Laws of sparse maps: what a read finds after an insertion, a removal or a write, and that each keeps the
canonical form. -/

namespace Sys2Proof

variable {α : Type}

theorem SMap.get_ins_same (d : α) (m : SMap α) (k : Nat) (v : α) : SMap.get d (SMap.ins k v m) k = v := by
  induction m with
  | nil => simp [ins, get]
  | cons e t ih =>
    obtain ⟨a, b⟩ := e
    unfold ins
    split
    · simp [get]
    · split
      · simp [get]
      · rename_i h1 h2
        simp [get, h2, ih]

theorem SMap.get_ins_other (d : α) (m : SMap α) (k j : Nat) (v : α) (h : j ≠ k) :
    SMap.get d (SMap.ins k v m) j = SMap.get d m j := by
  induction m with
  | nil => simp [ins, get, h]
  | cons e t ih =>
    obtain ⟨a, b⟩ := e
    unfold ins
    split
    · simp [get, h]
    · split
      · rename_i h2
        subst h2
        simp [get, h]
      · simp [get, ih]

theorem SMap.get_del_same (d : α) (m : SMap α) (k : Nat) : SMap.get d (SMap.del k m) k = d := by
  induction m with
  | nil => rfl
  | cons e t ih =>
    obtain ⟨a, b⟩ := e
    unfold del
    split
    · exact ih
    · rename_i h
      simp [get, h, ih]

theorem SMap.get_del_other (d : α) (m : SMap α) (k j : Nat) (h : j ≠ k) : SMap.get d (SMap.del k m) j = SMap.get d m j := by
  induction m with
  | nil => rfl
  | cons e t ih =>
    obtain ⟨a, b⟩ := e
    unfold del
    split
    · rename_i h2
      subst h2
      simp [get, h, ih]
    · simp [get, ih]

theorem SMap.ins_ins (m : SMap α) (k : Nat) (u v : α) : SMap.ins k v (SMap.ins k u m) = SMap.ins k v m := by
  induction m with
  | nil => simp [ins]
  | cons e t ih =>
    obtain ⟨a, b⟩ := e
    by_cases h1 : k < a
    · simp [ins, h1]
    · by_cases h2 : k = a
      · subst h2; simp [ins]
      · simp [ins, h1, h2, ih]

section
variable [DecidableEq α]

theorem SMap.get_set_same (d : α) (m : SMap α) (k : Nat) (v : α) : SMap.get d (SMap.set d m k v) k = v := by
  unfold set
  split
  · rename_i h
    rw [get_del_same, h]
  · exact get_ins_same d m k v

theorem SMap.get_set_other (d : α) (m : SMap α) (k j : Nat) (v : α) (h : j ≠ k) :
    SMap.get d (SMap.set d m k v) j = SMap.get d m j := by
  unfold set
  split
  · exact get_del_other d m k j h
  · exact get_ins_other d m k j v h

theorem SMap.get_set (d : α) (m : SMap α) (k j : Nat) (v : α) :
    SMap.get d (SMap.set d m k v) j = if j = k then v else SMap.get d m j := by
  split
  · rename_i h
    rw [h, get_set_same]
  · rename_i h
    exact get_set_other d m k j v h

theorem SMap.wfFrom_mono (d : α) (m : SMap α) (a b : Nat) (h : a ≤ b) (w : SMap.wfFrom d b m = true) : SMap.wfFrom d a m = true := by
  cases m with
  | nil => rfl
  | cons e t =>
    obtain ⟨k, v⟩ := e
    simp only [wfFrom, Bool.and_eq_true, decide_eq_true_eq] at w ⊢
    exact ⟨⟨Nat.le_trans h w.1.1, w.1.2⟩, w.2⟩

theorem SMap.wfFrom_ins (d : α) (m : SMap α) (k lo : Nat) (v : α) (hv : v ≠ d) (hk : lo ≤ k)
    (w : SMap.wfFrom d lo m = true) : SMap.wfFrom d lo (SMap.ins k v m) = true := by
  induction m generalizing lo with
  | nil => simp [ins, wfFrom, hv, hk]
  | cons e t ih =>
    obtain ⟨a, b⟩ := e
    simp only [wfFrom, Bool.and_eq_true, decide_eq_true_eq] at w
    unfold ins
    split
    · rename_i h1
      simp only [wfFrom, Bool.and_eq_true, decide_eq_true_eq]
      exact ⟨⟨hk, hv⟩, ⟨h1, w.1.2⟩, w.2⟩
    · split
      · rename_i h2
        subst h2
        simp only [wfFrom, Bool.and_eq_true, decide_eq_true_eq]
        exact ⟨⟨hk, hv⟩, w.2⟩
      · rename_i h1 h2
        simp only [wfFrom, Bool.and_eq_true, decide_eq_true_eq]
        exact ⟨w.1, ih (a + 1) (by omega) w.2⟩

theorem SMap.wfFrom_del (d : α) (m : SMap α) (k lo : Nat) (w : SMap.wfFrom d lo m = true) :
    SMap.wfFrom d lo (SMap.del k m) = true := by
  induction m generalizing lo with
  | nil => rfl
  | cons e t ih =>
    obtain ⟨a, b⟩ := e
    simp only [wfFrom, Bool.and_eq_true, decide_eq_true_eq] at w
    unfold del
    split
    · exact wfFrom_mono d _ lo (a + 1) (by omega) (ih (a + 1) w.2)
    · simp only [wfFrom, Bool.and_eq_true, decide_eq_true_eq]
      exact ⟨w.1, ih (a + 1) w.2⟩

/-- A write keeps the canonical form. -/
theorem SMap.wf_set (d : α) (m : SMap α) (k : Nat) (v : α) (w : SMap.wf d m = true) : SMap.wf d (SMap.set d m k v) = true := by
  unfold set
  split
  · exact wfFrom_del d m k 0 w
  · rename_i h
    exact wfFrom_ins d m k 0 v h (Nat.zero_le k) w

/-- Removing entries by a test keeps the canonical form. -/
theorem SMap.wfFrom_filter (d : α) (m : SMap α) (p : Nat × α → Bool) (lo : Nat) (w : SMap.wfFrom d lo m = true) :
    SMap.wfFrom d lo (m.filter p) = true := by
  induction m generalizing lo with
  | nil => rfl
  | cons e t ih =>
    obtain ⟨a, b⟩ := e
    simp only [wfFrom, Bool.and_eq_true, decide_eq_true_eq] at w
    rw [List.filter_cons]
    split
    · simp only [wfFrom, Bool.and_eq_true, decide_eq_true_eq]
      exact ⟨w.1, ih (a + 1) w.2⟩
    · exact wfFrom_mono d _ lo (a + 1) (by omega) (ih (a + 1) w.2)

/-- A canonical map has no entry below its bound. -/
theorem SMap.get_below (d : α) (m : SMap α) (lo j : Nat) (w : SMap.wfFrom d lo m = true) (h : j < lo) : SMap.get d m j = d := by
  induction m generalizing lo with
  | nil => rfl
  | cons e t ih =>
    obtain ⟨a, b⟩ := e
    simp only [wfFrom, Bool.and_eq_true, decide_eq_true_eq] at w
    have : ¬ j = a := by omega
    simp only [get, this, if_false]
    exact ih (a + 1) w.2 (by omega)

/-- Canonical maps that read alike everywhere are equal. -/
theorem SMap.ext_wf (d : α) (m n : SMap α) (lo : Nat) (hm : SMap.wfFrom d lo m = true) (hn : SMap.wfFrom d lo n = true)
    (h : ∀ k, SMap.get d m k = SMap.get d n k) : m = n := by
  induction m generalizing n lo with
  | nil =>
    cases n with
    | nil => rfl
    | cons e t =>
      obtain ⟨a, b⟩ := e
      simp only [wfFrom, Bool.and_eq_true, decide_eq_true_eq] at hn
      have := h a
      simp [get] at this
      exact absurd this.symm hn.1.2
  | cons e t ih =>
    obtain ⟨a, b⟩ := e
    cases n with
    | nil =>
      simp only [wfFrom, Bool.and_eq_true, decide_eq_true_eq] at hm
      have := h a
      simp [get] at this
      exact absurd this hm.1.2
    | cons e' t' =>
      obtain ⟨a', b'⟩ := e'
      simp only [wfFrom, Bool.and_eq_true, decide_eq_true_eq] at hm hn
      have haa : a = a' := by
        rcases Nat.lt_trichotomy a a' with hlt | heq | hgt
        · have := h a
          have h1 : ¬ a = a' := by omega
          simp only [get, h1, if_true, if_false] at this
          rw [get_below d t' (a' + 1) a hn.2 (by omega)] at this
          exact absurd this hm.1.2
        · exact heq
        · have := h a'
          have h1 : ¬ a' = a := by omega
          simp only [get, h1, if_true, if_false] at this
          rw [get_below d t (a + 1) a' hm.2 (by omega)] at this
          exact absurd this.symm hn.1.2
      subst haa
      have hbb : b = b' := by simpa [get] using h a
      subst hbb
      congr 1
      refine ih t' (a + 1) hm.2 hn.2 fun k => ?_
      rcases Nat.lt_or_ge k (a + 1) with hk | hk
      · rw [get_below d t _ k hm.2 hk, get_below d t' _ k hn.2 hk]
      · have := h k
        have h1 : ¬ k = a := by omega
        simpa [get, h1] using this

end

end Sys2Proof
end

