-- ==== Sys2Proof/Laws/Memory.lean ====
section
/-! SUPPORT. Laws of the bytes of memory: a read after a write, bytes outside a write, and the canonical form. -/

namespace Sys2Proof.Machine

open Sys2Proof

theorem memWrite_wf (m : SMap Byte) (k n v : Nat) (w : SMap.wf (α := Byte) 0 m = true) :
    SMap.wf (α := Byte) 0 (memWrite m k n v) = true := by
  induction n generalizing m k v with
  | zero => exact w
  | succ n ih => exact ih _ _ _ (SMap.wf_set 0 m k _ w)

/-- A byte outside the bytes written reads as before. -/
theorem memWrite_get_other (m : SMap Byte) (k n v a : Nat) (h : a < k ∨ k + n ≤ a) :
    SMap.get (0 : Byte) (memWrite m k n v) a = SMap.get 0 m a := by
  induction n generalizing m k v with
  | zero => rfl
  | succ n ih =>
    unfold memWrite
    rw [ih _ _ _ (by omega), SMap.get_set_other _ _ _ _ _ (by omega)]

/-- Byte `j` of the bytes written. -/
theorem memWrite_get (m : SMap Byte) (k n v j : Nat) (h : j < n) :
    SMap.get (0 : Byte) (memWrite m k n v) (k + j) = BitVec.ofNat 8 (v / 256 ^ j) := by
  induction n generalizing m k v j with
  | zero => omega
  | succ n ih =>
    unfold memWrite
    cases j with
    | zero =>
      rw [memWrite_get_other _ _ _ _ _ (by omega)]
      simp [SMap.get_set_same]
    | succ j =>
      have := ih (SMap.set 0 m k (BitVec.ofNat 8 v)) (k + 1) (v / 256) j (by omega)
      rw [show k + (j + 1) = k + 1 + j by omega, this, Nat.div_div_eq_div_mul, Nat.pow_succ, Nat.mul_comm]

/-- Two memories that agree on the bytes read give the same number. -/
theorem memRead_congr (m m' : SMap Byte) (k n : Nat)
    (h : ∀ j, j < n → SMap.get (0 : Byte) m (k + j) = SMap.get 0 m' (k + j)) : memRead m k n = memRead m' k n := by
  induction n generalizing k with
  | zero => rfl
  | succ n ih =>
    unfold memRead
    have h0 := h 0 (by omega)
    simp only [Nat.add_zero] at h0
    rw [h0, ih (k + 1) fun j hj => by
      have := h (j + 1) (by omega)
      rwa [show k + (j + 1) = k + 1 + j by omega] at this]

theorem memRead_lt (m : SMap Byte) (k n : Nat) : memRead m k n < 256 ^ n := by
  induction n generalizing k with
  | zero => simp [memRead]
  | succ n ih =>
    have := ih (k + 1)
    have hb : (SMap.get (0 : Byte) m k).toNat < 256 := (SMap.get (0 : Byte) m k).isLt
    unfold memRead
    rw [Nat.pow_succ]
    omega

/-- A read after a write to the same place gives what was written (R4). -/
theorem memRead_memWrite (m : SMap Byte) (k n v : Nat) : memRead (memWrite m k n v) k n = v % 256 ^ n := by
  induction n generalizing m k v with
  | zero => simp [memRead, Nat.mod_one]
  | succ n ih =>
    have hb : SMap.get (0 : Byte) (memWrite m k (n + 1) v) k = BitVec.ofNat 8 v := by
      have := memWrite_get m k (n + 1) v 0 (by omega)
      simpa using this
    have hr : memRead (memWrite m k (n + 1) v) (k + 1) n = v / 256 % 256 ^ n := by
      unfold memWrite
      exact ih _ _ _
    show (SMap.get (0 : Byte) (memWrite m k (n + 1) v) k).toNat + 256 * memRead (memWrite m k (n + 1) v) (k + 1) n = _
    rw [hb, hr]
    have hp : (256 : Nat) ^ (n + 1) = 256 * 256 ^ n := by rw [Nat.pow_succ, Nat.mul_comm]
    rw [hp, Nat.mod_mul]
    simp

/-- A read apart from a write reads as before. -/
theorem memRead_memWrite_other (m : SMap Byte) (k n v a b : Nat) (h : a + b ≤ k ∨ k + n ≤ a) :
    memRead (memWrite m k n v) a b = memRead m a b :=
  memRead_congr _ _ _ _ fun j hj => memWrite_get_other _ _ _ _ _ (by omega)

end Sys2Proof.Machine
end

