-- ==== Sys2Proof/Laws/State.lean ====
section
/-! SUPPORT. One lemma for each field and each update of the state and of a group: what an update leaves as it was; and
what the accessors read after an update. -/

namespace Sys2Proof.Machine

open Sys2Proof

/-! ## Updates of the state -/

@[simp] theorem State.setTeam_clk (s : State) (t : Nat) (v : Team) : (s.setTeam t v).clk = s.clk := rfl
@[simp] theorem State.setTeam_mem (s : State) (t : Nat) (v : Team) : (s.setTeam t v).mem = s.mem := rfl
@[simp] theorem State.setTeam_ras (s : State) (t : Nat) (v : Team) : (s.setTeam t v).ras = s.ras := rfl
@[simp] theorem State.setTeam_cache (s : State) (t : Nat) (v : Team) : (s.setTeam t v).cache = s.cache := rfl
@[simp] theorem State.setTeam_stores (s : State) (t : Nat) (v : Team) : (s.setTeam t v).stores = s.stores := rfl
@[simp] theorem State.setTeam_sched (s : State) (t : Nat) (v : Team) : (s.setTeam t v).sched = s.sched := rfl
@[simp] theorem State.setTeam_eng (s : State) (t : Nat) (v : Team) : (s.setTeam t v).eng = s.eng := rfl
@[simp] theorem State.setTeam_mtx (s : State) (t : Nat) (v : Team) : (s.setTeam t v).mtx = s.mtx := rfl
@[simp] theorem State.setTeam_fns (s : State) (t : Nat) (v : Team) : (s.setTeam t v).fns = s.fns := rfl
@[simp] theorem State.setTeam_part (s : State) (t : Nat) (v : Team) : (s.setTeam t v).part = s.part := rfl
@[simp] theorem State.setTeam_lh (s : State) (t : Nat) (v : Team) : (s.setTeam t v).lh = s.lh := rfl
@[simp] theorem State.setTeam_ext (s : State) (t : Nat) (v : Team) : (s.setTeam t v).ext = s.ext := rfl
@[simp] theorem State.setTeam_focus (s : State) (t : Nat) (v : Team) : (s.setTeam t v).focus = s.focus := rfl
@[simp] theorem State.setTeam_item (s : State) (t : Nat) (v : Team) : (s.setTeam t v).item = s.item := rfl
@[simp] theorem State.setTeam_inbox (s : State) (t : Nat) (v : Team) : (s.setTeam t v).inbox = s.inbox := rfl
@[simp] theorem State.setTeam_outbox (s : State) (t : Nat) (v : Team) : (s.setTeam t v).outbox = s.outbox := rfl
@[simp] theorem State.updTeam_clk (s : State) (t : Nat) (h : Team → Team) : (s.updTeam t h).clk = s.clk := rfl
@[simp] theorem State.updTeam_mem (s : State) (t : Nat) (h : Team → Team) : (s.updTeam t h).mem = s.mem := rfl
@[simp] theorem State.updTeam_ras (s : State) (t : Nat) (h : Team → Team) : (s.updTeam t h).ras = s.ras := rfl
@[simp] theorem State.updTeam_cache (s : State) (t : Nat) (h : Team → Team) : (s.updTeam t h).cache = s.cache := rfl
@[simp] theorem State.updTeam_stores (s : State) (t : Nat) (h : Team → Team) : (s.updTeam t h).stores = s.stores := rfl
@[simp] theorem State.updTeam_sched (s : State) (t : Nat) (h : Team → Team) : (s.updTeam t h).sched = s.sched := rfl
@[simp] theorem State.updTeam_eng (s : State) (t : Nat) (h : Team → Team) : (s.updTeam t h).eng = s.eng := rfl
@[simp] theorem State.updTeam_mtx (s : State) (t : Nat) (h : Team → Team) : (s.updTeam t h).mtx = s.mtx := rfl
@[simp] theorem State.updTeam_fns (s : State) (t : Nat) (h : Team → Team) : (s.updTeam t h).fns = s.fns := rfl
@[simp] theorem State.updTeam_part (s : State) (t : Nat) (h : Team → Team) : (s.updTeam t h).part = s.part := rfl
@[simp] theorem State.updTeam_lh (s : State) (t : Nat) (h : Team → Team) : (s.updTeam t h).lh = s.lh := rfl
@[simp] theorem State.updTeam_ext (s : State) (t : Nat) (h : Team → Team) : (s.updTeam t h).ext = s.ext := rfl
@[simp] theorem State.updTeam_focus (s : State) (t : Nat) (h : Team → Team) : (s.updTeam t h).focus = s.focus := rfl
@[simp] theorem State.updTeam_item (s : State) (t : Nat) (h : Team → Team) : (s.updTeam t h).item = s.item := rfl
@[simp] theorem State.updTeam_inbox (s : State) (t : Nat) (h : Team → Team) : (s.updTeam t h).inbox = s.inbox := rfl
@[simp] theorem State.updTeam_outbox (s : State) (t : Nat) (h : Team → Team) : (s.updTeam t h).outbox = s.outbox := rfl
@[simp] theorem State.setGrp_clk (s : State) (t g : Nat) (v : Group) : (s.setGrp t g v).clk = s.clk := rfl
@[simp] theorem State.setGrp_mem (s : State) (t g : Nat) (v : Group) : (s.setGrp t g v).mem = s.mem := rfl
@[simp] theorem State.setGrp_ras (s : State) (t g : Nat) (v : Group) : (s.setGrp t g v).ras = s.ras := rfl
@[simp] theorem State.setGrp_cache (s : State) (t g : Nat) (v : Group) : (s.setGrp t g v).cache = s.cache := rfl
@[simp] theorem State.setGrp_stores (s : State) (t g : Nat) (v : Group) : (s.setGrp t g v).stores = s.stores := rfl
@[simp] theorem State.setGrp_sched (s : State) (t g : Nat) (v : Group) : (s.setGrp t g v).sched = s.sched := rfl
@[simp] theorem State.setGrp_eng (s : State) (t g : Nat) (v : Group) : (s.setGrp t g v).eng = s.eng := rfl
@[simp] theorem State.setGrp_mtx (s : State) (t g : Nat) (v : Group) : (s.setGrp t g v).mtx = s.mtx := rfl
@[simp] theorem State.setGrp_fns (s : State) (t g : Nat) (v : Group) : (s.setGrp t g v).fns = s.fns := rfl
@[simp] theorem State.setGrp_part (s : State) (t g : Nat) (v : Group) : (s.setGrp t g v).part = s.part := rfl
@[simp] theorem State.setGrp_lh (s : State) (t g : Nat) (v : Group) : (s.setGrp t g v).lh = s.lh := rfl
@[simp] theorem State.setGrp_ext (s : State) (t g : Nat) (v : Group) : (s.setGrp t g v).ext = s.ext := rfl
@[simp] theorem State.setGrp_focus (s : State) (t g : Nat) (v : Group) : (s.setGrp t g v).focus = s.focus := rfl
@[simp] theorem State.setGrp_item (s : State) (t g : Nat) (v : Group) : (s.setGrp t g v).item = s.item := rfl
@[simp] theorem State.setGrp_inbox (s : State) (t g : Nat) (v : Group) : (s.setGrp t g v).inbox = s.inbox := rfl
@[simp] theorem State.setGrp_outbox (s : State) (t g : Nat) (v : Group) : (s.setGrp t g v).outbox = s.outbox := rfl
@[simp] theorem State.updGrp_clk (s : State) (t g : Nat) (h : Group → Group) : (s.updGrp t g h).clk = s.clk := rfl
@[simp] theorem State.updGrp_mem (s : State) (t g : Nat) (h : Group → Group) : (s.updGrp t g h).mem = s.mem := rfl
@[simp] theorem State.updGrp_ras (s : State) (t g : Nat) (h : Group → Group) : (s.updGrp t g h).ras = s.ras := rfl
@[simp] theorem State.updGrp_cache (s : State) (t g : Nat) (h : Group → Group) : (s.updGrp t g h).cache = s.cache := rfl
@[simp] theorem State.updGrp_stores (s : State) (t g : Nat) (h : Group → Group) : (s.updGrp t g h).stores = s.stores := rfl
@[simp] theorem State.updGrp_sched (s : State) (t g : Nat) (h : Group → Group) : (s.updGrp t g h).sched = s.sched := rfl
@[simp] theorem State.updGrp_eng (s : State) (t g : Nat) (h : Group → Group) : (s.updGrp t g h).eng = s.eng := rfl
@[simp] theorem State.updGrp_mtx (s : State) (t g : Nat) (h : Group → Group) : (s.updGrp t g h).mtx = s.mtx := rfl
@[simp] theorem State.updGrp_fns (s : State) (t g : Nat) (h : Group → Group) : (s.updGrp t g h).fns = s.fns := rfl
@[simp] theorem State.updGrp_part (s : State) (t g : Nat) (h : Group → Group) : (s.updGrp t g h).part = s.part := rfl
@[simp] theorem State.updGrp_lh (s : State) (t g : Nat) (h : Group → Group) : (s.updGrp t g h).lh = s.lh := rfl
@[simp] theorem State.updGrp_ext (s : State) (t g : Nat) (h : Group → Group) : (s.updGrp t g h).ext = s.ext := rfl
@[simp] theorem State.updGrp_focus (s : State) (t g : Nat) (h : Group → Group) : (s.updGrp t g h).focus = s.focus := rfl
@[simp] theorem State.updGrp_item (s : State) (t g : Nat) (h : Group → Group) : (s.updGrp t g h).item = s.item := rfl
@[simp] theorem State.updGrp_inbox (s : State) (t g : Nat) (h : Group → Group) : (s.updGrp t g h).inbox = s.inbox := rfl
@[simp] theorem State.updGrp_outbox (s : State) (t g : Nat) (h : Group → Group) : (s.updGrp t g h).outbox = s.outbox := rfl
@[simp] theorem State.setFn_clk (s : State) (f : Nat) (v : Fn) : (s.setFn f v).clk = s.clk := rfl
@[simp] theorem State.setFn_mem (s : State) (f : Nat) (v : Fn) : (s.setFn f v).mem = s.mem := rfl
@[simp] theorem State.setFn_ras (s : State) (f : Nat) (v : Fn) : (s.setFn f v).ras = s.ras := rfl
@[simp] theorem State.setFn_cache (s : State) (f : Nat) (v : Fn) : (s.setFn f v).cache = s.cache := rfl
@[simp] theorem State.setFn_stores (s : State) (f : Nat) (v : Fn) : (s.setFn f v).stores = s.stores := rfl
@[simp] theorem State.setFn_teams (s : State) (f : Nat) (v : Fn) : (s.setFn f v).teams = s.teams := rfl
@[simp] theorem State.setFn_sched (s : State) (f : Nat) (v : Fn) : (s.setFn f v).sched = s.sched := rfl
@[simp] theorem State.setFn_eng (s : State) (f : Nat) (v : Fn) : (s.setFn f v).eng = s.eng := rfl
@[simp] theorem State.setFn_mtx (s : State) (f : Nat) (v : Fn) : (s.setFn f v).mtx = s.mtx := rfl
@[simp] theorem State.setFn_part (s : State) (f : Nat) (v : Fn) : (s.setFn f v).part = s.part := rfl
@[simp] theorem State.setFn_lh (s : State) (f : Nat) (v : Fn) : (s.setFn f v).lh = s.lh := rfl
@[simp] theorem State.setFn_ext (s : State) (f : Nat) (v : Fn) : (s.setFn f v).ext = s.ext := rfl
@[simp] theorem State.setFn_focus (s : State) (f : Nat) (v : Fn) : (s.setFn f v).focus = s.focus := rfl
@[simp] theorem State.setFn_item (s : State) (f : Nat) (v : Fn) : (s.setFn f v).item = s.item := rfl
@[simp] theorem State.setFn_inbox (s : State) (f : Nat) (v : Fn) : (s.setFn f v).inbox = s.inbox := rfl
@[simp] theorem State.setFn_outbox (s : State) (f : Nat) (v : Fn) : (s.setFn f v).outbox = s.outbox := rfl
@[simp] theorem State.updFn_clk (s : State) (f : Nat) (h : Fn → Fn) : (s.updFn f h).clk = s.clk := rfl
@[simp] theorem State.updFn_mem (s : State) (f : Nat) (h : Fn → Fn) : (s.updFn f h).mem = s.mem := rfl
@[simp] theorem State.updFn_ras (s : State) (f : Nat) (h : Fn → Fn) : (s.updFn f h).ras = s.ras := rfl
@[simp] theorem State.updFn_cache (s : State) (f : Nat) (h : Fn → Fn) : (s.updFn f h).cache = s.cache := rfl
@[simp] theorem State.updFn_stores (s : State) (f : Nat) (h : Fn → Fn) : (s.updFn f h).stores = s.stores := rfl
@[simp] theorem State.updFn_teams (s : State) (f : Nat) (h : Fn → Fn) : (s.updFn f h).teams = s.teams := rfl
@[simp] theorem State.updFn_sched (s : State) (f : Nat) (h : Fn → Fn) : (s.updFn f h).sched = s.sched := rfl
@[simp] theorem State.updFn_eng (s : State) (f : Nat) (h : Fn → Fn) : (s.updFn f h).eng = s.eng := rfl
@[simp] theorem State.updFn_mtx (s : State) (f : Nat) (h : Fn → Fn) : (s.updFn f h).mtx = s.mtx := rfl
@[simp] theorem State.updFn_part (s : State) (f : Nat) (h : Fn → Fn) : (s.updFn f h).part = s.part := rfl
@[simp] theorem State.updFn_lh (s : State) (f : Nat) (h : Fn → Fn) : (s.updFn f h).lh = s.lh := rfl
@[simp] theorem State.updFn_ext (s : State) (f : Nat) (h : Fn → Fn) : (s.updFn f h).ext = s.ext := rfl
@[simp] theorem State.updFn_focus (s : State) (f : Nat) (h : Fn → Fn) : (s.updFn f h).focus = s.focus := rfl
@[simp] theorem State.updFn_item (s : State) (f : Nat) (h : Fn → Fn) : (s.updFn f h).item = s.item := rfl
@[simp] theorem State.updFn_inbox (s : State) (f : Nat) (h : Fn → Fn) : (s.updFn f h).inbox = s.inbox := rfl
@[simp] theorem State.updFn_outbox (s : State) (f : Nat) (h : Fn → Fn) : (s.updFn f h).outbox = s.outbox := rfl
@[simp] theorem State.updPair_clk (s : State) (p : Nat) (h : PairMtx → PairMtx) : (s.updPair p h).clk = s.clk := rfl
@[simp] theorem State.updPair_mem (s : State) (p : Nat) (h : PairMtx → PairMtx) : (s.updPair p h).mem = s.mem := rfl
@[simp] theorem State.updPair_ras (s : State) (p : Nat) (h : PairMtx → PairMtx) : (s.updPair p h).ras = s.ras := rfl
@[simp] theorem State.updPair_cache (s : State) (p : Nat) (h : PairMtx → PairMtx) : (s.updPair p h).cache = s.cache := rfl
@[simp] theorem State.updPair_stores (s : State) (p : Nat) (h : PairMtx → PairMtx) : (s.updPair p h).stores = s.stores := rfl
@[simp] theorem State.updPair_teams (s : State) (p : Nat) (h : PairMtx → PairMtx) : (s.updPair p h).teams = s.teams := rfl
@[simp] theorem State.updPair_sched (s : State) (p : Nat) (h : PairMtx → PairMtx) : (s.updPair p h).sched = s.sched := rfl
@[simp] theorem State.updPair_eng (s : State) (p : Nat) (h : PairMtx → PairMtx) : (s.updPair p h).eng = s.eng := rfl
@[simp] theorem State.updPair_fns (s : State) (p : Nat) (h : PairMtx → PairMtx) : (s.updPair p h).fns = s.fns := rfl
@[simp] theorem State.updPair_part (s : State) (p : Nat) (h : PairMtx → PairMtx) : (s.updPair p h).part = s.part := rfl
@[simp] theorem State.updPair_lh (s : State) (p : Nat) (h : PairMtx → PairMtx) : (s.updPair p h).lh = s.lh := rfl
@[simp] theorem State.updPair_ext (s : State) (p : Nat) (h : PairMtx → PairMtx) : (s.updPair p h).ext = s.ext := rfl
@[simp] theorem State.updPair_focus (s : State) (p : Nat) (h : PairMtx → PairMtx) : (s.updPair p h).focus = s.focus := rfl
@[simp] theorem State.updPair_item (s : State) (p : Nat) (h : PairMtx → PairMtx) : (s.updPair p h).item = s.item := rfl
@[simp] theorem State.updPair_inbox (s : State) (p : Nat) (h : PairMtx → PairMtx) : (s.updPair p h).inbox = s.inbox := rfl
@[simp] theorem State.updPair_outbox (s : State) (p : Nat) (h : PairMtx → PairMtx) : (s.updPair p h).outbox = s.outbox := rfl
@[simp] theorem State.issued_mem (s : State) (t g : Nat) (m : Bool) : (s.issued t g m).mem = s.mem := rfl
@[simp] theorem State.issued_ras (s : State) (t g : Nat) (m : Bool) : (s.issued t g m).ras = s.ras := rfl
@[simp] theorem State.issued_cache (s : State) (t g : Nat) (m : Bool) : (s.issued t g m).cache = s.cache := rfl
@[simp] theorem State.issued_stores (s : State) (t g : Nat) (m : Bool) : (s.issued t g m).stores = s.stores := rfl
@[simp] theorem State.issued_sched (s : State) (t g : Nat) (m : Bool) : (s.issued t g m).sched = s.sched := rfl
@[simp] theorem State.issued_eng (s : State) (t g : Nat) (m : Bool) : (s.issued t g m).eng = s.eng := rfl
@[simp] theorem State.issued_mtx (s : State) (t g : Nat) (m : Bool) : (s.issued t g m).mtx = s.mtx := rfl
@[simp] theorem State.issued_fns (s : State) (t g : Nat) (m : Bool) : (s.issued t g m).fns = s.fns := rfl
@[simp] theorem State.issued_part (s : State) (t g : Nat) (m : Bool) : (s.issued t g m).part = s.part := rfl
@[simp] theorem State.issued_lh (s : State) (t g : Nat) (m : Bool) : (s.issued t g m).lh = s.lh := rfl
@[simp] theorem State.issued_ext (s : State) (t g : Nat) (m : Bool) : (s.issued t g m).ext = s.ext := rfl
@[simp] theorem State.issued_focus (s : State) (t g : Nat) (m : Bool) : (s.issued t g m).focus = s.focus := rfl
@[simp] theorem State.issued_item (s : State) (t g : Nat) (m : Bool) : (s.issued t g m).item = s.item := rfl
@[simp] theorem State.issued_inbox (s : State) (t g : Nat) (m : Bool) : (s.issued t g m).inbox = s.inbox := rfl
@[simp] theorem State.issued_outbox (s : State) (t g : Nat) (m : Bool) : (s.issued t g m).outbox = s.outbox := rfl

/-! ## Updates of a group -/

@[simp] theorem Group.setTh_st (g : Group) (l : Nat) (v : Thread) : (g.setTh l v).st = g.st := rfl
@[simp] theorem Group.setTh_halt (g : Group) (l : Nat) (v : Thread) : (g.setTh l v).halt = g.halt := rfl
@[simp] theorem Group.setTh_since (g : Group) (l : Nat) (v : Thread) : (g.setTh l v).since = g.since := rfl
@[simp] theorem Group.setTh_pace (g : Group) (l : Nat) (v : Thread) : (g.setTh l v).pace = g.pace := rfl
@[simp] theorem Group.setTh_sleepTime (g : Group) (l : Nat) (v : Thread) : (g.setTh l v).sleepTime = g.sleepTime := rfl
@[simp] theorem Group.setTh_youngUntil (g : Group) (l : Nat) (v : Thread) : (g.setTh l v).youngUntil = g.youngUntil := rfl
@[simp] theorem Group.setTh_x (g : Group) (l : Nat) (v : Thread) : (g.setTh l v).x = g.x := rfl
@[simp] theorem Group.setTh_w (g : Group) (l : Nat) (v : Thread) : (g.setTh l v).w = g.w := rfl
@[simp] theorem Group.setTh_p (g : Group) (l : Nat) (v : Thread) : (g.setTh l v).p = g.p := rfl
@[simp] theorem Group.setTh_enr (g : Group) (l : Nat) (v : Thread) : (g.setTh l v).enr = g.enr := rfl
@[simp] theorem Group.setTh_arr (g : Group) (l : Nat) (v : Thread) : (g.setTh l v).arr = g.arr := rfl
@[simp] theorem Group.setTh_amax (g : Group) (l : Nat) (v : Thread) : (g.setTh l v).amax = g.amax := rfl
@[simp] theorem Group.setTh_fpmode (g : Group) (l : Nat) (v : Thread) : (g.setTh l v).fpmode = g.fpmode := rfl
@[simp] theorem Group.setTh_srcnt (g : Group) (l : Nat) (v : Thread) : (g.setTh l v).srcnt = g.srcnt := rfl
@[simp] theorem Group.setTh_ports (g : Group) (l : Nat) (v : Thread) : (g.setTh l v).ports = g.ports := rfl
@[simp] theorem Group.setTh_out (g : Group) (l : Nat) (v : Thread) : (g.setTh l v).out = g.out := rfl
@[simp] theorem Group.setTh_tx (g : Group) (l : Nat) (v : Thread) : (g.setTh l v).tx = g.tx := rfl
@[simp] theorem Group.setTh_txConfl (g : Group) (l : Nat) (v : Thread) : (g.setTh l v).txConfl = g.txConfl := rfl
@[simp] theorem Group.setTh_pushed (g : Group) (l : Nat) (v : Thread) : (g.setTh l v).pushed = g.pushed := rfl
@[simp] theorem Group.setTh_barOff (g : Group) (l : Nat) (v : Thread) : (g.setTh l v).barOff = g.barOff := rfl
@[simp] theorem Group.setTh_cont (g : Group) (l : Nat) (v : Thread) : (g.setTh l v).cont = g.cont := rfl
@[simp] theorem Group.updTh_st (g : Group) (l : Nat) (h : Thread → Thread) : (g.updTh l h).st = g.st := rfl
@[simp] theorem Group.updTh_halt (g : Group) (l : Nat) (h : Thread → Thread) : (g.updTh l h).halt = g.halt := rfl
@[simp] theorem Group.updTh_since (g : Group) (l : Nat) (h : Thread → Thread) : (g.updTh l h).since = g.since := rfl
@[simp] theorem Group.updTh_pace (g : Group) (l : Nat) (h : Thread → Thread) : (g.updTh l h).pace = g.pace := rfl
@[simp] theorem Group.updTh_sleepTime (g : Group) (l : Nat) (h : Thread → Thread) : (g.updTh l h).sleepTime = g.sleepTime := rfl
@[simp] theorem Group.updTh_youngUntil (g : Group) (l : Nat) (h : Thread → Thread) : (g.updTh l h).youngUntil = g.youngUntil := rfl
@[simp] theorem Group.updTh_x (g : Group) (l : Nat) (h : Thread → Thread) : (g.updTh l h).x = g.x := rfl
@[simp] theorem Group.updTh_w (g : Group) (l : Nat) (h : Thread → Thread) : (g.updTh l h).w = g.w := rfl
@[simp] theorem Group.updTh_p (g : Group) (l : Nat) (h : Thread → Thread) : (g.updTh l h).p = g.p := rfl
@[simp] theorem Group.updTh_enr (g : Group) (l : Nat) (h : Thread → Thread) : (g.updTh l h).enr = g.enr := rfl
@[simp] theorem Group.updTh_arr (g : Group) (l : Nat) (h : Thread → Thread) : (g.updTh l h).arr = g.arr := rfl
@[simp] theorem Group.updTh_amax (g : Group) (l : Nat) (h : Thread → Thread) : (g.updTh l h).amax = g.amax := rfl
@[simp] theorem Group.updTh_fpmode (g : Group) (l : Nat) (h : Thread → Thread) : (g.updTh l h).fpmode = g.fpmode := rfl
@[simp] theorem Group.updTh_srcnt (g : Group) (l : Nat) (h : Thread → Thread) : (g.updTh l h).srcnt = g.srcnt := rfl
@[simp] theorem Group.updTh_ports (g : Group) (l : Nat) (h : Thread → Thread) : (g.updTh l h).ports = g.ports := rfl
@[simp] theorem Group.updTh_out (g : Group) (l : Nat) (h : Thread → Thread) : (g.updTh l h).out = g.out := rfl
@[simp] theorem Group.updTh_tx (g : Group) (l : Nat) (h : Thread → Thread) : (g.updTh l h).tx = g.tx := rfl
@[simp] theorem Group.updTh_txConfl (g : Group) (l : Nat) (h : Thread → Thread) : (g.updTh l h).txConfl = g.txConfl := rfl
@[simp] theorem Group.updTh_pushed (g : Group) (l : Nat) (h : Thread → Thread) : (g.updTh l h).pushed = g.pushed := rfl
@[simp] theorem Group.updTh_barOff (g : Group) (l : Nat) (h : Thread → Thread) : (g.updTh l h).barOff = g.barOff := rfl
@[simp] theorem Group.updTh_cont (g : Group) (l : Nat) (h : Thread → Thread) : (g.updTh l h).cont = g.cont := rfl
@[simp] theorem Group.setX_st (g : Group) (l r : Nat) (v : Word) : (g.setX l r v).st = g.st := rfl
@[simp] theorem Group.setX_halt (g : Group) (l r : Nat) (v : Word) : (g.setX l r v).halt = g.halt := rfl
@[simp] theorem Group.setX_since (g : Group) (l r : Nat) (v : Word) : (g.setX l r v).since = g.since := rfl
@[simp] theorem Group.setX_pace (g : Group) (l r : Nat) (v : Word) : (g.setX l r v).pace = g.pace := rfl
@[simp] theorem Group.setX_sleepTime (g : Group) (l r : Nat) (v : Word) : (g.setX l r v).sleepTime = g.sleepTime := rfl
@[simp] theorem Group.setX_youngUntil (g : Group) (l r : Nat) (v : Word) : (g.setX l r v).youngUntil = g.youngUntil := rfl
@[simp] theorem Group.setX_w (g : Group) (l r : Nat) (v : Word) : (g.setX l r v).w = g.w := rfl
@[simp] theorem Group.setX_p (g : Group) (l r : Nat) (v : Word) : (g.setX l r v).p = g.p := rfl
@[simp] theorem Group.setX_enr (g : Group) (l r : Nat) (v : Word) : (g.setX l r v).enr = g.enr := rfl
@[simp] theorem Group.setX_arr (g : Group) (l r : Nat) (v : Word) : (g.setX l r v).arr = g.arr := rfl
@[simp] theorem Group.setX_amax (g : Group) (l r : Nat) (v : Word) : (g.setX l r v).amax = g.amax := rfl
@[simp] theorem Group.setX_fpmode (g : Group) (l r : Nat) (v : Word) : (g.setX l r v).fpmode = g.fpmode := rfl
@[simp] theorem Group.setX_srcnt (g : Group) (l r : Nat) (v : Word) : (g.setX l r v).srcnt = g.srcnt := rfl
@[simp] theorem Group.setX_thr (g : Group) (l r : Nat) (v : Word) : (g.setX l r v).thr = g.thr := rfl
@[simp] theorem Group.setX_ports (g : Group) (l r : Nat) (v : Word) : (g.setX l r v).ports = g.ports := rfl
@[simp] theorem Group.setX_out (g : Group) (l r : Nat) (v : Word) : (g.setX l r v).out = g.out := rfl
@[simp] theorem Group.setX_tx (g : Group) (l r : Nat) (v : Word) : (g.setX l r v).tx = g.tx := rfl
@[simp] theorem Group.setX_txConfl (g : Group) (l r : Nat) (v : Word) : (g.setX l r v).txConfl = g.txConfl := rfl
@[simp] theorem Group.setX_pushed (g : Group) (l r : Nat) (v : Word) : (g.setX l r v).pushed = g.pushed := rfl
@[simp] theorem Group.setX_barOff (g : Group) (l r : Nat) (v : Word) : (g.setX l r v).barOff = g.barOff := rfl
@[simp] theorem Group.setX_cont (g : Group) (l r : Nat) (v : Word) : (g.setX l r v).cont = g.cont := rfl
@[simp] theorem Group.setW_st (g : Group) (r : Nat) (v : Word) : (g.setW r v).st = g.st := rfl
@[simp] theorem Group.setW_halt (g : Group) (r : Nat) (v : Word) : (g.setW r v).halt = g.halt := rfl
@[simp] theorem Group.setW_since (g : Group) (r : Nat) (v : Word) : (g.setW r v).since = g.since := rfl
@[simp] theorem Group.setW_pace (g : Group) (r : Nat) (v : Word) : (g.setW r v).pace = g.pace := rfl
@[simp] theorem Group.setW_sleepTime (g : Group) (r : Nat) (v : Word) : (g.setW r v).sleepTime = g.sleepTime := rfl
@[simp] theorem Group.setW_youngUntil (g : Group) (r : Nat) (v : Word) : (g.setW r v).youngUntil = g.youngUntil := rfl
@[simp] theorem Group.setW_x (g : Group) (r : Nat) (v : Word) : (g.setW r v).x = g.x := rfl
@[simp] theorem Group.setW_p (g : Group) (r : Nat) (v : Word) : (g.setW r v).p = g.p := rfl
@[simp] theorem Group.setW_enr (g : Group) (r : Nat) (v : Word) : (g.setW r v).enr = g.enr := rfl
@[simp] theorem Group.setW_arr (g : Group) (r : Nat) (v : Word) : (g.setW r v).arr = g.arr := rfl
@[simp] theorem Group.setW_amax (g : Group) (r : Nat) (v : Word) : (g.setW r v).amax = g.amax := rfl
@[simp] theorem Group.setW_fpmode (g : Group) (r : Nat) (v : Word) : (g.setW r v).fpmode = g.fpmode := rfl
@[simp] theorem Group.setW_srcnt (g : Group) (r : Nat) (v : Word) : (g.setW r v).srcnt = g.srcnt := rfl
@[simp] theorem Group.setW_thr (g : Group) (r : Nat) (v : Word) : (g.setW r v).thr = g.thr := rfl
@[simp] theorem Group.setW_ports (g : Group) (r : Nat) (v : Word) : (g.setW r v).ports = g.ports := rfl
@[simp] theorem Group.setW_out (g : Group) (r : Nat) (v : Word) : (g.setW r v).out = g.out := rfl
@[simp] theorem Group.setW_tx (g : Group) (r : Nat) (v : Word) : (g.setW r v).tx = g.tx := rfl
@[simp] theorem Group.setW_txConfl (g : Group) (r : Nat) (v : Word) : (g.setW r v).txConfl = g.txConfl := rfl
@[simp] theorem Group.setW_pushed (g : Group) (r : Nat) (v : Word) : (g.setW r v).pushed = g.pushed := rfl
@[simp] theorem Group.setW_barOff (g : Group) (r : Nat) (v : Word) : (g.setW r v).barOff = g.barOff := rfl
@[simp] theorem Group.setW_cont (g : Group) (r : Nat) (v : Word) : (g.setW r v).cont = g.cont := rfl
@[simp] theorem Group.setP_st (g : Group) (k l : Nat) (b : Bool) : (g.setP k l b).st = g.st := by unfold Group.setP; split <;> rfl
@[simp] theorem Group.setP_halt (g : Group) (k l : Nat) (b : Bool) : (g.setP k l b).halt = g.halt := by unfold Group.setP; split <;> rfl
@[simp] theorem Group.setP_since (g : Group) (k l : Nat) (b : Bool) : (g.setP k l b).since = g.since := by unfold Group.setP; split <;> rfl
@[simp] theorem Group.setP_pace (g : Group) (k l : Nat) (b : Bool) : (g.setP k l b).pace = g.pace := by unfold Group.setP; split <;> rfl
@[simp] theorem Group.setP_sleepTime (g : Group) (k l : Nat) (b : Bool) : (g.setP k l b).sleepTime = g.sleepTime := by unfold Group.setP; split <;> rfl
@[simp] theorem Group.setP_youngUntil (g : Group) (k l : Nat) (b : Bool) : (g.setP k l b).youngUntil = g.youngUntil := by unfold Group.setP; split <;> rfl
@[simp] theorem Group.setP_x (g : Group) (k l : Nat) (b : Bool) : (g.setP k l b).x = g.x := by unfold Group.setP; split <;> rfl
@[simp] theorem Group.setP_w (g : Group) (k l : Nat) (b : Bool) : (g.setP k l b).w = g.w := by unfold Group.setP; split <;> rfl
@[simp] theorem Group.setP_enr (g : Group) (k l : Nat) (b : Bool) : (g.setP k l b).enr = g.enr := by unfold Group.setP; split <;> rfl
@[simp] theorem Group.setP_arr (g : Group) (k l : Nat) (b : Bool) : (g.setP k l b).arr = g.arr := by unfold Group.setP; split <;> rfl
@[simp] theorem Group.setP_amax (g : Group) (k l : Nat) (b : Bool) : (g.setP k l b).amax = g.amax := by unfold Group.setP; split <;> rfl
@[simp] theorem Group.setP_fpmode (g : Group) (k l : Nat) (b : Bool) : (g.setP k l b).fpmode = g.fpmode := by unfold Group.setP; split <;> rfl
@[simp] theorem Group.setP_srcnt (g : Group) (k l : Nat) (b : Bool) : (g.setP k l b).srcnt = g.srcnt := by unfold Group.setP; split <;> rfl
@[simp] theorem Group.setP_thr (g : Group) (k l : Nat) (b : Bool) : (g.setP k l b).thr = g.thr := by unfold Group.setP; split <;> rfl
@[simp] theorem Group.setP_ports (g : Group) (k l : Nat) (b : Bool) : (g.setP k l b).ports = g.ports := by unfold Group.setP; split <;> rfl
@[simp] theorem Group.setP_out (g : Group) (k l : Nat) (b : Bool) : (g.setP k l b).out = g.out := by unfold Group.setP; split <;> rfl
@[simp] theorem Group.setP_tx (g : Group) (k l : Nat) (b : Bool) : (g.setP k l b).tx = g.tx := by unfold Group.setP; split <;> rfl
@[simp] theorem Group.setP_txConfl (g : Group) (k l : Nat) (b : Bool) : (g.setP k l b).txConfl = g.txConfl := by unfold Group.setP; split <;> rfl
@[simp] theorem Group.setP_pushed (g : Group) (k l : Nat) (b : Bool) : (g.setP k l b).pushed = g.pushed := by unfold Group.setP; split <;> rfl
@[simp] theorem Group.setP_barOff (g : Group) (k l : Nat) (b : Bool) : (g.setP k l b).barOff = g.barOff := by unfold Group.setP; split <;> rfl
@[simp] theorem Group.setP_cont (g : Group) (k l : Nat) (b : Bool) : (g.setP k l b).cont = g.cont := by unfold Group.setP; split <;> rfl
@[simp] theorem Group.updPort_st (g : Group) (l q : Nat) (h : Port → Port) : (g.updPort l q h).st = g.st := rfl
@[simp] theorem Group.updPort_halt (g : Group) (l q : Nat) (h : Port → Port) : (g.updPort l q h).halt = g.halt := rfl
@[simp] theorem Group.updPort_since (g : Group) (l q : Nat) (h : Port → Port) : (g.updPort l q h).since = g.since := rfl
@[simp] theorem Group.updPort_pace (g : Group) (l q : Nat) (h : Port → Port) : (g.updPort l q h).pace = g.pace := rfl
@[simp] theorem Group.updPort_sleepTime (g : Group) (l q : Nat) (h : Port → Port) : (g.updPort l q h).sleepTime = g.sleepTime := rfl
@[simp] theorem Group.updPort_youngUntil (g : Group) (l q : Nat) (h : Port → Port) : (g.updPort l q h).youngUntil = g.youngUntil := rfl
@[simp] theorem Group.updPort_x (g : Group) (l q : Nat) (h : Port → Port) : (g.updPort l q h).x = g.x := rfl
@[simp] theorem Group.updPort_w (g : Group) (l q : Nat) (h : Port → Port) : (g.updPort l q h).w = g.w := rfl
@[simp] theorem Group.updPort_p (g : Group) (l q : Nat) (h : Port → Port) : (g.updPort l q h).p = g.p := rfl
@[simp] theorem Group.updPort_enr (g : Group) (l q : Nat) (h : Port → Port) : (g.updPort l q h).enr = g.enr := rfl
@[simp] theorem Group.updPort_arr (g : Group) (l q : Nat) (h : Port → Port) : (g.updPort l q h).arr = g.arr := rfl
@[simp] theorem Group.updPort_amax (g : Group) (l q : Nat) (h : Port → Port) : (g.updPort l q h).amax = g.amax := rfl
@[simp] theorem Group.updPort_fpmode (g : Group) (l q : Nat) (h : Port → Port) : (g.updPort l q h).fpmode = g.fpmode := rfl
@[simp] theorem Group.updPort_srcnt (g : Group) (l q : Nat) (h : Port → Port) : (g.updPort l q h).srcnt = g.srcnt := rfl
@[simp] theorem Group.updPort_thr (g : Group) (l q : Nat) (h : Port → Port) : (g.updPort l q h).thr = g.thr := rfl
@[simp] theorem Group.updPort_out (g : Group) (l q : Nat) (h : Port → Port) : (g.updPort l q h).out = g.out := rfl
@[simp] theorem Group.updPort_tx (g : Group) (l q : Nat) (h : Port → Port) : (g.updPort l q h).tx = g.tx := rfl
@[simp] theorem Group.updPort_txConfl (g : Group) (l q : Nat) (h : Port → Port) : (g.updPort l q h).txConfl = g.txConfl := rfl
@[simp] theorem Group.updPort_pushed (g : Group) (l q : Nat) (h : Port → Port) : (g.updPort l q h).pushed = g.pushed := rfl
@[simp] theorem Group.updPort_barOff (g : Group) (l q : Nat) (h : Port → Port) : (g.updPort l q h).barOff = g.barOff := rfl
@[simp] theorem Group.updPort_cont (g : Group) (l q : Nat) (h : Port → Port) : (g.updPort l q h).cont = g.cont := rfl
@[simp] theorem Group.supersede_st (g : Group) (f : RegFile) (l r : Nat) : (g.supersede f l r).st = g.st := rfl
@[simp] theorem Group.supersede_halt (g : Group) (f : RegFile) (l r : Nat) : (g.supersede f l r).halt = g.halt := rfl
@[simp] theorem Group.supersede_since (g : Group) (f : RegFile) (l r : Nat) : (g.supersede f l r).since = g.since := rfl
@[simp] theorem Group.supersede_pace (g : Group) (f : RegFile) (l r : Nat) : (g.supersede f l r).pace = g.pace := rfl
@[simp] theorem Group.supersede_sleepTime (g : Group) (f : RegFile) (l r : Nat) : (g.supersede f l r).sleepTime = g.sleepTime := rfl
@[simp] theorem Group.supersede_youngUntil (g : Group) (f : RegFile) (l r : Nat) : (g.supersede f l r).youngUntil = g.youngUntil := rfl
@[simp] theorem Group.supersede_x (g : Group) (f : RegFile) (l r : Nat) : (g.supersede f l r).x = g.x := rfl
@[simp] theorem Group.supersede_w (g : Group) (f : RegFile) (l r : Nat) : (g.supersede f l r).w = g.w := rfl
@[simp] theorem Group.supersede_p (g : Group) (f : RegFile) (l r : Nat) : (g.supersede f l r).p = g.p := rfl
@[simp] theorem Group.supersede_enr (g : Group) (f : RegFile) (l r : Nat) : (g.supersede f l r).enr = g.enr := rfl
@[simp] theorem Group.supersede_arr (g : Group) (f : RegFile) (l r : Nat) : (g.supersede f l r).arr = g.arr := rfl
@[simp] theorem Group.supersede_amax (g : Group) (f : RegFile) (l r : Nat) : (g.supersede f l r).amax = g.amax := rfl
@[simp] theorem Group.supersede_fpmode (g : Group) (f : RegFile) (l r : Nat) : (g.supersede f l r).fpmode = g.fpmode := rfl
@[simp] theorem Group.supersede_srcnt (g : Group) (f : RegFile) (l r : Nat) : (g.supersede f l r).srcnt = g.srcnt := rfl
@[simp] theorem Group.supersede_thr (g : Group) (f : RegFile) (l r : Nat) : (g.supersede f l r).thr = g.thr := rfl
@[simp] theorem Group.supersede_ports (g : Group) (f : RegFile) (l r : Nat) : (g.supersede f l r).ports = g.ports := rfl
@[simp] theorem Group.supersede_tx (g : Group) (f : RegFile) (l r : Nat) : (g.supersede f l r).tx = g.tx := rfl
@[simp] theorem Group.supersede_txConfl (g : Group) (f : RegFile) (l r : Nat) : (g.supersede f l r).txConfl = g.txConfl := rfl
@[simp] theorem Group.supersede_pushed (g : Group) (f : RegFile) (l r : Nat) : (g.supersede f l r).pushed = g.pushed := rfl
@[simp] theorem Group.supersede_barOff (g : Group) (f : RegFile) (l r : Nat) : (g.supersede f l r).barOff = g.barOff := rfl
@[simp] theorem Group.supersede_cont (g : Group) (f : RegFile) (l r : Nat) : (g.supersede f l r).cont = g.cont := rfl
@[simp] theorem Group.wrX_st (g : Group) (l r : Nat) (v : Word) : (g.wrX l r v).st = g.st := rfl
@[simp] theorem Group.wrX_halt (g : Group) (l r : Nat) (v : Word) : (g.wrX l r v).halt = g.halt := rfl
@[simp] theorem Group.wrX_since (g : Group) (l r : Nat) (v : Word) : (g.wrX l r v).since = g.since := rfl
@[simp] theorem Group.wrX_pace (g : Group) (l r : Nat) (v : Word) : (g.wrX l r v).pace = g.pace := rfl
@[simp] theorem Group.wrX_sleepTime (g : Group) (l r : Nat) (v : Word) : (g.wrX l r v).sleepTime = g.sleepTime := rfl
@[simp] theorem Group.wrX_youngUntil (g : Group) (l r : Nat) (v : Word) : (g.wrX l r v).youngUntil = g.youngUntil := rfl
@[simp] theorem Group.wrX_w (g : Group) (l r : Nat) (v : Word) : (g.wrX l r v).w = g.w := rfl
@[simp] theorem Group.wrX_p (g : Group) (l r : Nat) (v : Word) : (g.wrX l r v).p = g.p := rfl
@[simp] theorem Group.wrX_enr (g : Group) (l r : Nat) (v : Word) : (g.wrX l r v).enr = g.enr := rfl
@[simp] theorem Group.wrX_arr (g : Group) (l r : Nat) (v : Word) : (g.wrX l r v).arr = g.arr := rfl
@[simp] theorem Group.wrX_amax (g : Group) (l r : Nat) (v : Word) : (g.wrX l r v).amax = g.amax := rfl
@[simp] theorem Group.wrX_fpmode (g : Group) (l r : Nat) (v : Word) : (g.wrX l r v).fpmode = g.fpmode := rfl
@[simp] theorem Group.wrX_srcnt (g : Group) (l r : Nat) (v : Word) : (g.wrX l r v).srcnt = g.srcnt := rfl
@[simp] theorem Group.wrX_thr (g : Group) (l r : Nat) (v : Word) : (g.wrX l r v).thr = g.thr := rfl
@[simp] theorem Group.wrX_ports (g : Group) (l r : Nat) (v : Word) : (g.wrX l r v).ports = g.ports := rfl
@[simp] theorem Group.wrX_tx (g : Group) (l r : Nat) (v : Word) : (g.wrX l r v).tx = g.tx := rfl
@[simp] theorem Group.wrX_txConfl (g : Group) (l r : Nat) (v : Word) : (g.wrX l r v).txConfl = g.txConfl := rfl
@[simp] theorem Group.wrX_pushed (g : Group) (l r : Nat) (v : Word) : (g.wrX l r v).pushed = g.pushed := rfl
@[simp] theorem Group.wrX_barOff (g : Group) (l r : Nat) (v : Word) : (g.wrX l r v).barOff = g.barOff := rfl
@[simp] theorem Group.wrX_cont (g : Group) (l r : Nat) (v : Word) : (g.wrX l r v).cont = g.cont := rfl
@[simp] theorem Group.wrW_st (g : Group) (r : Nat) (v : Word) : (g.wrW r v).st = g.st := rfl
@[simp] theorem Group.wrW_halt (g : Group) (r : Nat) (v : Word) : (g.wrW r v).halt = g.halt := rfl
@[simp] theorem Group.wrW_since (g : Group) (r : Nat) (v : Word) : (g.wrW r v).since = g.since := rfl
@[simp] theorem Group.wrW_pace (g : Group) (r : Nat) (v : Word) : (g.wrW r v).pace = g.pace := rfl
@[simp] theorem Group.wrW_sleepTime (g : Group) (r : Nat) (v : Word) : (g.wrW r v).sleepTime = g.sleepTime := rfl
@[simp] theorem Group.wrW_youngUntil (g : Group) (r : Nat) (v : Word) : (g.wrW r v).youngUntil = g.youngUntil := rfl
@[simp] theorem Group.wrW_x (g : Group) (r : Nat) (v : Word) : (g.wrW r v).x = g.x := rfl
@[simp] theorem Group.wrW_p (g : Group) (r : Nat) (v : Word) : (g.wrW r v).p = g.p := rfl
@[simp] theorem Group.wrW_enr (g : Group) (r : Nat) (v : Word) : (g.wrW r v).enr = g.enr := rfl
@[simp] theorem Group.wrW_arr (g : Group) (r : Nat) (v : Word) : (g.wrW r v).arr = g.arr := rfl
@[simp] theorem Group.wrW_amax (g : Group) (r : Nat) (v : Word) : (g.wrW r v).amax = g.amax := rfl
@[simp] theorem Group.wrW_fpmode (g : Group) (r : Nat) (v : Word) : (g.wrW r v).fpmode = g.fpmode := rfl
@[simp] theorem Group.wrW_srcnt (g : Group) (r : Nat) (v : Word) : (g.wrW r v).srcnt = g.srcnt := rfl
@[simp] theorem Group.wrW_thr (g : Group) (r : Nat) (v : Word) : (g.wrW r v).thr = g.thr := rfl
@[simp] theorem Group.wrW_ports (g : Group) (r : Nat) (v : Word) : (g.wrW r v).ports = g.ports := rfl
@[simp] theorem Group.wrW_tx (g : Group) (r : Nat) (v : Word) : (g.wrW r v).tx = g.tx := rfl
@[simp] theorem Group.wrW_txConfl (g : Group) (r : Nat) (v : Word) : (g.wrW r v).txConfl = g.txConfl := rfl
@[simp] theorem Group.wrW_pushed (g : Group) (r : Nat) (v : Word) : (g.wrW r v).pushed = g.pushed := rfl
@[simp] theorem Group.wrW_barOff (g : Group) (r : Nat) (v : Word) : (g.wrW r v).barOff = g.barOff := rfl
@[simp] theorem Group.wrW_cont (g : Group) (r : Nat) (v : Word) : (g.wrW r v).cont = g.cont := rfl
@[simp] theorem Group.wrP_st (g : Group) (k l : Nat) (b : Bool) : (g.wrP k l b).st = g.st := by simp [Group.wrP]
@[simp] theorem Group.wrP_halt (g : Group) (k l : Nat) (b : Bool) : (g.wrP k l b).halt = g.halt := by simp [Group.wrP]
@[simp] theorem Group.wrP_since (g : Group) (k l : Nat) (b : Bool) : (g.wrP k l b).since = g.since := by simp [Group.wrP]
@[simp] theorem Group.wrP_pace (g : Group) (k l : Nat) (b : Bool) : (g.wrP k l b).pace = g.pace := by simp [Group.wrP]
@[simp] theorem Group.wrP_sleepTime (g : Group) (k l : Nat) (b : Bool) : (g.wrP k l b).sleepTime = g.sleepTime := by simp [Group.wrP]
@[simp] theorem Group.wrP_youngUntil (g : Group) (k l : Nat) (b : Bool) : (g.wrP k l b).youngUntil = g.youngUntil := by simp [Group.wrP]
@[simp] theorem Group.wrP_x (g : Group) (k l : Nat) (b : Bool) : (g.wrP k l b).x = g.x := by simp [Group.wrP]
@[simp] theorem Group.wrP_w (g : Group) (k l : Nat) (b : Bool) : (g.wrP k l b).w = g.w := by simp [Group.wrP]
@[simp] theorem Group.wrP_enr (g : Group) (k l : Nat) (b : Bool) : (g.wrP k l b).enr = g.enr := by simp [Group.wrP]
@[simp] theorem Group.wrP_arr (g : Group) (k l : Nat) (b : Bool) : (g.wrP k l b).arr = g.arr := by simp [Group.wrP]
@[simp] theorem Group.wrP_amax (g : Group) (k l : Nat) (b : Bool) : (g.wrP k l b).amax = g.amax := by simp [Group.wrP]
@[simp] theorem Group.wrP_fpmode (g : Group) (k l : Nat) (b : Bool) : (g.wrP k l b).fpmode = g.fpmode := by simp [Group.wrP]
@[simp] theorem Group.wrP_srcnt (g : Group) (k l : Nat) (b : Bool) : (g.wrP k l b).srcnt = g.srcnt := by simp [Group.wrP]
@[simp] theorem Group.wrP_thr (g : Group) (k l : Nat) (b : Bool) : (g.wrP k l b).thr = g.thr := by simp [Group.wrP]
@[simp] theorem Group.wrP_ports (g : Group) (k l : Nat) (b : Bool) : (g.wrP k l b).ports = g.ports := by simp [Group.wrP]
@[simp] theorem Group.wrP_tx (g : Group) (k l : Nat) (b : Bool) : (g.wrP k l b).tx = g.tx := by simp [Group.wrP]
@[simp] theorem Group.wrP_txConfl (g : Group) (k l : Nat) (b : Bool) : (g.wrP k l b).txConfl = g.txConfl := by simp [Group.wrP]
@[simp] theorem Group.wrP_pushed (g : Group) (k l : Nat) (b : Bool) : (g.wrP k l b).pushed = g.pushed := by simp [Group.wrP]
@[simp] theorem Group.wrP_barOff (g : Group) (k l : Nat) (b : Bool) : (g.wrP k l b).barOff = g.barOff := by simp [Group.wrP]
@[simp] theorem Group.wrP_cont (g : Group) (k l : Nat) (b : Bool) : (g.wrP k l b).cont = g.cont := by simp [Group.wrP]

/-! ## Accessors after an update -/

@[simp] theorem State.team_setTeam (s : State) (t : Nat) (v : Team) : (s.setTeam t v).team t = v :=
  SMap.get_ins_same _ _ _ _

theorem State.team_setTeam_other (s : State) (t n : Nat) (v : Team) (h : n ≠ t) : (s.setTeam t v).team n = s.team n :=
  SMap.get_ins_other _ _ _ _ _ h

@[simp] theorem State.team_updTeam (s : State) (t : Nat) (h : Team → Team) : (s.updTeam t h).team t = h (s.team t) :=
  State.team_setTeam _ _ _

theorem State.team_updTeam_other (s : State) (t n : Nat) (h : Team → Team) (k : n ≠ t) : (s.updTeam t h).team n = s.team n :=
  State.team_setTeam_other _ _ _ _ k

@[simp] theorem Team.grp_setGrp (tm : Team) (g : Nat) (v : Group) : (tm.setGrp g v).grp g = v :=
  SMap.get_ins_same _ _ _ _

theorem Team.grp_setGrp_other (tm : Team) (g n : Nat) (v : Group) (h : n ≠ g) : (tm.setGrp g v).grp n = tm.grp n :=
  SMap.get_ins_other _ _ _ _ _ h

@[simp] theorem State.grp_setGrp (s : State) (t g : Nat) (v : Group) : (s.setGrp t g v).grp t g = v := by
  simp [State.grp, State.setGrp]

@[simp] theorem State.grp_updGrp (s : State) (t g : Nat) (h : Group → Group) : (s.updGrp t g h).grp t g = h (s.grp t g) :=
  State.grp_setGrp _ _ _ _

theorem State.team_updGrp (s : State) (t g : Nat) (h : Group → Group) :
    (s.updGrp t g h).team t = (s.team t).setGrp g (h (s.grp t g)) := by
  simp [State.updGrp, State.setGrp]

theorem State.team_updGrp_other (s : State) (t g n : Nat) (h : Group → Group) (k : n ≠ t) :
    (s.updGrp t g h).team n = s.team n :=
  State.team_updTeam_other _ _ _ _ k

theorem State.grp_updGrp_other (s : State) (t g n : Nat) (h : Group → Group) (k : n ≠ g) :
    (s.updGrp t g h).grp t n = s.grp t n := by
  simp only [State.grp, State.team_updGrp]
  exact Team.grp_setGrp_other _ _ _ _ k

@[simp] theorem State.fn_updFn (s : State) (f : Nat) (h : Fn → Fn) : (s.updFn f h).fn f = h (s.fn f) :=
  SMap.get_ins_same _ _ _ _

theorem State.fn_updFn_other (s : State) (f n : Nat) (h : Fn → Fn) (k : n ≠ f) : (s.updFn f h).fn n = s.fn n :=
  SMap.get_ins_other _ _ _ _ _ k

@[simp] theorem Group.th_setTh (g : Group) (l : Nat) (v : Thread) : (g.setTh l v).th l = v :=
  SMap.get_ins_same _ _ _ _

theorem Group.th_setTh_other (g : Group) (l n : Nat) (v : Thread) (h : n ≠ l) : (g.setTh l v).th n = g.th n :=
  SMap.get_ins_other _ _ _ _ _ h

@[simp] theorem Group.th_updTh (g : Group) (l : Nat) (h : Thread → Thread) : (g.updTh l h).th l = h (g.th l) :=
  Group.th_setTh _ _ _

theorem Group.th_updTh_other (g : Group) (l n : Nat) (h : Thread → Thread) (k : n ≠ l) : (g.updTh l h).th n = g.th n :=
  Group.th_setTh_other _ _ _ _ k

theorem Group.th_of_thr (g h : Group) (l : Nat) (e : g.thr = h.thr) : g.th l = h.th l := by
  unfold Group.th; rw [e]

theorem Group.xr_of_x (g h : Group) (l r : Nat) (e : g.x = h.x) : g.xr l r = h.xr l r := by
  unfold Group.xr; rw [e]

theorem Group.wr_of_w (g h : Group) (r : Nat) (e : g.w = h.w) : g.wr r = h.wr r := by
  unfold Group.wr; rw [e]

theorem Group.pr_of_p (g h : Group) (k l : Nat) (e : g.p = h.p) : g.pr k l = h.pr k l := by
  unfold Group.pr; rw [e]

/-- A thread register after a write of one. -/
theorem Group.xr_setX (g : Group) (l r : Nat) (v : Word) (i j : Nat) (hr : r < 64) (hj : j < 64) :
    (g.setX l r v).xr i j = if i = l ∧ j = r then v else g.xr i j := by
  unfold Group.xr Group.setX
  simp only [SMap.get_set]
  have : (64 * i + j = 64 * l + r) ↔ (i = l ∧ j = r) := by omega
  simp only [this]

theorem Group.xr_wrX (g : Group) (l r : Nat) (v : Word) (i j : Nat) (hr : r < 64) (hj : j < 64) :
    (g.wrX l r v).xr i j = if i = l ∧ j = r then v else g.xr i j :=
  Group.xr_setX (g.supersede .x l r) l r v i j hr hj

/-- A uniform register after a write of one. -/
theorem Group.wr_wrW (g : Group) (r : Nat) (v : Word) (j : Nat) : (g.wrW r v).wr j = if j = r then v else g.wr j := by
  unfold Group.wr Group.wrW Group.setW
  simp only [SMap.get_set, Group.supersede_w]

theorem LaneMask.put_get (m : LaneMask) (i j : Nat) (b : Bool) (hi : i < 32) :
    (LaneMask.put m i b).getLsbD j = if j = i then b else m.getLsbD j := by
  unfold LaneMask.put laneBit
  have hb : (BitVec.ofNat 32 (2 ^ i)).getLsbD j = decide (j = i) := by
    rw [BitVec.getLsbD_ofNat, Nat.testBit_two_pow]
    by_cases h : j = i
    · subst h; simp [hi]
    · have : ¬ i = j := fun e => h e.symm
      simp [h, this]
  cases b
  · simp only [Bool.false_eq_true, if_false]
    rw [BitVec.getLsbD_and, BitVec.getLsbD_not, hb]
    by_cases h : j = i
    · subst h; simp
    · simp only [h, decide_false, Bool.not_false, Bool.and_true, if_false]
      by_cases hj : j < 32
      · simp [hj]
      · simp [BitVec.getLsbD_of_ge _ _ (by omega : 32 ≤ j)]
  · simp only [if_true]
    rw [BitVec.getLsbD_or, hb]
    by_cases h : j = i <;> simp [h]

/-- A predicate after a write of one; p7 stays 1. -/
theorem Group.pr_wrP (g : Group) (k l : Nat) (b : Bool) (i j : Nat) (hl : l < 32) :
    (g.wrP k l b).pr i j = if i = k ∧ j = l ∧ k ≠ 7 then b else g.pr i j := by
  unfold Group.wrP Group.setP
  by_cases h7 : k = 7
  · subst h7
    simp [Group.pr]
  · simp only [h7, if_false, Group.pr, SMap.get_set, Group.supersede_p]
    by_cases hik : i = k
    · subst hik
      simp only [if_true, LaneMask.put_get _ _ _ _ hl, h7, decide_false, Bool.false_or, true_and, ne_eq, not_false_eq_true, and_true]
    · simp [hik]

end Sys2Proof.Machine
end

