-- ==== Sys2Proof/Laws/Lanes.lean ====
section
/-! SUPPORT. Laws of the lanes of a mask and of changes made lane by lane. -/

namespace Sys2Proof.Machine

open Sys2Proof

theorem mem_lanesOf (m : LaneMask) (l : Nat) : l ∈ lanesOf m ↔ m.getLsbD l = true := by
  unfold lanesOf
  simp only [List.mem_filter, List.mem_range, and_iff_right_iff_imp]
  intro h
  exact Decidable.byContradiction fun hl => by simp [BitVec.getLsbD_of_ge _ _ (by omega : 32 ≤ l)] at h

theorem nodup_lanesOf (m : LaneMask) : (lanesOf m).Nodup := List.Pairwise.filter _ List.nodup_range

/-- A change made lane by lane leaves a part that no lane's change touches. -/
theorem overLanes_keep {σ β : Type} (π : σ → β) (m : LaneMask) (f : Nat → σ → σ) (x : σ)
    (h : ∀ i y, i < 32 → π (f i y) = π y) : π (overLanes m f x) = π x := by
  unfold overLanes
  have : ∀ (L : List Nat) (y : σ), (∀ i ∈ L, i < 32) → π (L.foldl (fun a i => f i a) y) = π y := by
    intro L
    induction L with
    | nil => intro y _; rfl
    | cons i L ih =>
      intro y hL
      rw [List.foldl_cons, ih _ fun j hj => hL j (List.mem_cons_of_mem _ hj), h i y (hL i List.mem_cons_self)]
  refine this _ _ fun i hi => ?_
  unfold lanesOf at hi
  simp only [List.mem_filter, List.mem_range] at hi
  exact hi.1

/-- What a change made lane by lane leaves in a part that each lane changes for itself. -/
theorem overLanes_point {σ β : Type} (ρ : Nat → σ → β) (φ : Nat → β → β) (m : LaneMask) (f : Nat → σ → σ) (x : σ)
    (h : ∀ i y l, i < 32 → ρ l (f i y) = if l = i then φ l (ρ l y) else ρ l y) (l : Nat) :
    ρ l (overLanes m f x) = if m.getLsbD l = true then φ l (ρ l x) else ρ l x := by
  have key : ∀ (L : List Nat) (y : σ), L.Nodup → (∀ i ∈ L, i < 32) →
      ρ l (L.foldl (fun a i => f i a) y) = if l ∈ L then φ l (ρ l y) else ρ l y := by
    intro L
    induction L with
    | nil => intro y _ _; simp
    | cons i L ih =>
      intro y nd hL
      rw [List.foldl_cons, ih _ (List.nodup_cons.mp nd).2 fun j hj => hL j (List.mem_cons_of_mem _ hj),
        h i y l (hL i List.mem_cons_self)]
      by_cases hli : l = i
      · subst hli
        simp [(List.nodup_cons.mp nd).1]
      · simp [hli]
  have := key (lanesOf m) x (nodup_lanesOf m) fun i hi => by
    unfold lanesOf at hi
    simp only [List.mem_filter, List.mem_range] at hi
    exact hi.1
  rw [overLanes, this]
  simp only [mem_lanesOf]

theorem Group.mapTh_th (g : Group) (m : LaneMask) (f : Thread → Thread) (l : Nat) :
    (g.mapTh m f).th l = if m.getLsbD l = true then f (g.th l) else g.th l :=
  overLanes_point (fun l (g : Group) => g.th l) (fun _ => f) m _ g (fun i y l _ => by
    by_cases h : l = i
    · subst h; simp
    · simp [h, Group.th_updTh_other]) l

/-- A change of threads touches nothing else of a group. -/
theorem Group.mapTh_rest (g : Group) (m : LaneMask) (f : Thread → Thread) :
    { g.mapTh m f with thr := g.thr } = g :=
  overLanes_keep (fun (h : Group) => ({ h with thr := g.thr } : Group)) m _ g fun _ _ _ => rfl

theorem maskWhere_get (p : Nat → Bool) (l : Nat) : (maskWhere p).getLsbD l = (decide (l < 32) && p l) := by
  have key : ∀ (n : Nat) (m : LaneMask), n ≤ 32 → ((List.range n).foldl (fun m i => if p i then m ||| laneBit i else m) m).getLsbD l =
      (m.getLsbD l || (decide (l < n) && p l)) := by
    intro n
    induction n with
    | zero => intro m _; simp
    | succ n ih =>
      intro m hn
      rw [List.range_succ, List.foldl_append, List.foldl_cons, List.foldl_nil]
      have hb : ∀ i, i < 32 → (laneBit i).getLsbD l = decide (l = i) := by
        intro i hi
        have := LaneMask.put_get 0 i l true hi
        unfold LaneMask.put at this
        simp only [if_true, BitVec.getLsbD_or] at this
        by_cases h : l = i <;> simpa [h] using this
      by_cases hp : p n = true
      · simp only [hp, if_true, BitVec.getLsbD_or, ih m (by omega), hb n (by omega)]
        by_cases h : l = n
        · subst h; simp [hp]
        · have : (l < n + 1) ↔ (l < n) := by omega
          simp [h, this]
      · simp only [hp, if_false, ih m (by omega), Bool.false_eq_true]
        by_cases h : l = n
        · subst h; simp [hp]
        · have : (l < n + 1) ↔ (l < n) := by omega
          simp [this]
  have := key 32 0 (by omega)
  unfold maskWhere
  rw [this]
  simp

end Sys2Proof.Machine
end

