-- ==== Sys2Proof/Laws/Issue.lean ====
section
/-! SUPPORT. The issue of a word whose checks pass, and all that the shared shapes of effect can do: a value in a thread
register, a predicate, a uniform register. -/

namespace Sys2Proof.Machine

open Sys2Proof

/-- A word whose checks pass issues: its effect on the state with its operands popped, then what follows every issue. -/
theorem issue_of (i : Instr) (body : Iss → State → Res) (f : Focus) (s : State) (h : Safe.Issues i f s) :
    issue (opOf i) body s = .next (finish (Safe.iss i f s) (opOf i).sm s (body (Safe.iss i f s) (Safe.popped i f s))) := by
  have hl : (opOf i).bad (s.team f.team) ((s.team f.team).grp f.grp) (mkIss (opOf i) f s).pt f.lanes (mkIss (opOf i) f s).txl = false := h.legal
  have hp : (opOf i).portBad (s.team f.team) (mkIss (opOf i) f s).txl = false := h.ports
  have hm : (match (opOf i).sys with | some n => decide (0x800 ≤ n) && !(s.team f.team).harbour | none => false) = false := h.mode
  have hh : (if (s.team f.team).dbgctl.getLsbD 0 then (opOf i).hazardReg ((s.team f.team).grp f.grp) f.lanes else none) = none := h.hazard
  have hf : ((s.team f.team).grp f.grp).starved (s.team f.team).streams f.lanes (opOf i).rd = [] := h.fed
  unfold issue
  rw [h.foc]
  show (if (opOf i).bad (s.team f.team) ((s.team f.team).grp f.grp) (mkIss (opOf i) f s).pt f.lanes (mkIss (opOf i) f s).txl = true then _
    else if (match (opOf i).sys with | some n => decide (0x800 ≤ n) && !(s.team f.team).harbour | none => false) = true then _
    else if (opOf i).portBad (s.team f.team) (mkIss (opOf i) f s).txl = true then _
    else match (if (s.team f.team).dbgctl.getLsbD 0 then (opOf i).hazardReg ((s.team f.team).grp f.grp) f.lanes else none) with
      | some c => _
      | none => Host.Outcome.next (finish (mkIss (opOf i) f s) (opOf i).sm s
          (match ((s.team f.team).grp f.grp).starved (s.team f.team).streams f.lanes (opOf i).rd with
            | [] => body (mkIss (opOf i) f s) (Safe.popped i f s)
            | l => s.starve (mkIss (opOf i) f s) l))) = _
  rw [hl, hm, hp, hh, hf]
  rfl

/-! ## One group changed -/

theorem State.updGrp_updGrp (s : State) (t g : Nat) (a b : Group → Group) :
    (s.updGrp t g a).updGrp t g b = s.updGrp t g fun x => b (a x) := by
  have h1 : (s.updGrp t g a).grp t g = a (s.grp t g) := State.grp_updGrp s t g a
  have h2 : (s.updGrp t g a).team t = (s.team t).setGrp g (a (s.grp t g)) := State.team_updGrp s t g a
  show (s.updGrp t g a).setTeam t (((s.updGrp t g a).team t).setGrp g (b ((s.updGrp t g a).grp t g))) =
    s.setTeam t ((s.team t).setGrp g (b (a (s.grp t g))))
  rw [h1, h2]
  simp only [State.updGrp, State.setGrp, State.updTeam, State.setTeam, Team.setGrp, SMap.ins_ins]

/-- A state in which one group is changed, and the issue counted. -/
def oneGroup (f : Focus) (H : Group → Group) (s : State) : State :=
  { s.updGrp f.team f.grp H with clk := { s.clk with seq := s.clk.seq + 1 } }

theorem oneGroup_grp (f : Focus) (H : Group → Group) (s : State) : Safe.grp f (oneGroup f H s) = H (Safe.grp f s) :=
  State.grp_updGrp s f.team f.grp H

theorem oneGroup_only (f : Focus) (H : Group → Group) (s : State) : Safe.OnlyGroup f s (oneGroup f H s) where
  rest := rfl
  clk := ⟨rfl, Nat.le_refl _⟩
  others n h := State.team_updGrp_other s f.team f.grp n H h
  team := by
    show ({ (s.updGrp f.team f.grp H).team f.team with groups := _ } : Team) = _
    rw [State.team_updGrp]
    rfl
  groups n h := State.grp_updGrp_other s f.team f.grp n H h

/-- What follows the effect of a word: the running lanes of the issue go on, the group may yield, and waits or not. -/
def onwardG (f : Focus) (pt : CodePt) (sm : Bool) (cycle : Nat) (g : Group) : Group :=
  let h := (g.advance f.lanes pt sm).yields pt cycle
  { h with pace := h.pace.go cycle sm }

theorem Group.yields_rest (g : Group) (pt : CodePt) (c : Nat) : { g.yields pt c with youngUntil := g.youngUntil } = g := by
  unfold Group.yields; split <;> rfl

theorem Group.advance_rest (g : Group) (m : LaneMask) (pt : CodePt) (sm : Bool) : { g.advance m pt sm with thr := g.thr } = g :=
  Group.mapTh_rest g _ _

theorem onwardG_rest (f : Focus) (pt : CodePt) (sm : Bool) (c : Nat) (g : Group) :
    { onwardG f pt sm c g with thr := g.thr, youngUntil := g.youngUntil, pace := g.pace } = g := by
  have h1 := Group.yields_rest (g.advance f.lanes pt sm) pt c
  have h2 := Group.advance_rest g f.lanes pt sm
  have h3 := congrArg (fun (x : Group) => ({ x with thr := g.thr, youngUntil := g.youngUntil, pace := g.pace } : Group)) h1
  have h4 := congrArg (fun (x : Group) => ({ x with youngUntil := g.youngUntil, pace := g.pace } : Group)) h2
  exact h3.trans h4

theorem onwardG_th (f : Focus) (pt : CodePt) (sm : Bool) (c : Nat) (g : Group) (l : Nat) :
    (onwardG f pt sm c g).th l =
      if f.lanes.getLsbD l = true ∧ (g.th l).pt = pt ∧ (g.th l).run = .running then Safe.onward sm pt (g.th l) else g.th l := by
  have e : (onwardG f pt sm c g).thr = (g.advance f.lanes pt sm).thr := by
    have := congrArg Group.thr (Group.yields_rest (g.advance f.lanes pt sm) pt c)
    exact this
  have h0 : (onwardG f pt sm c g).th l = (g.advance f.lanes pt sm).th l := Group.th_of_thr _ _ l e
  rw [h0]
  unfold Group.advance
  rw [Group.mapTh_th]
  have hb : ((g.standing f.lanes pt).getLsbD l = true) ↔ (f.lanes.getLsbD l = true ∧ (g.th l).pt = pt ∧ (g.th l).run = .running) := by
    unfold Group.standing
    rw [maskWhere_get]
    have hl : f.lanes.getLsbD l = true → l < 32 := fun h =>
      Decidable.byContradiction fun hl => by simp [BitVec.getLsbD_of_ge _ _ (by omega : 32 ≤ l)] at h
    simp only [Bool.and_eq_true, decide_eq_true_eq]
    constructor
    · rintro ⟨_, ⟨h1, h2⟩, h3⟩
      exact ⟨h1, h2, h3⟩
    · rintro ⟨h1, h2, h3⟩
      exact ⟨hl h1, ⟨h1, h2⟩, h3⟩
  simp only [hb, Safe.onward]

/-- The end of an issue whose effect changes one group and leaves its transaction. -/
theorem finish_done (i : Instr) (f : Focus) (s : State) (W : Group → Group) (hx : (W (Safe.grp f s)).tx = (Safe.grp f s).tx) :
    finish (Safe.iss i f s) (opOf i).sm s (.done (s.updGrp f.team f.grp W)) =
      oneGroup f (fun g => onwardG f (Safe.place f s) (opOf i).sm s.clk.cycle (W g)) s := by
  have hg : (s.updGrp f.team f.grp W).grp f.team f.grp = W (Safe.grp f s) := State.grp_updGrp s f.team f.grp W
  have hleft : (if ((s.updGrp f.team f.grp W).grp f.team f.grp).tx.isNone = true then (Safe.iss i f s).txl else 0) = 0 := by
    rw [hg, hx]
    show (if (Safe.grp f s).tx.isNone = true then (match (Safe.grp f s).tx with | some x => x.parts &&& f.lanes | none => 0) else 0) = (0 : LaneMask)
    cases (Safe.grp f s).tx <;> simp
  show ((s.updGrp f.team f.grp W).updGrp f.team f.grp fun g => (g.advance (f.lanes &&& ~~~ (if ((s.updGrp f.team f.grp W).grp f.team f.grp).tx.isNone = true then (Safe.iss i f s).txl else 0)) (Safe.place f s) (opOf i).sm).yields (Safe.place f s) (s.updGrp f.team f.grp W).clk.cycle).issued f.team f.grp (opOf i).sm = _
  rw [hleft]
  have hm : f.lanes &&& ~~~ (0 : LaneMask) = f.lanes := BitVec.and_allOnes
  rw [hm, State.updGrp_updGrp]
  unfold State.issued
  simp only [State.updGrp_updGrp]
  rfl

/-! ## Ports popped -/

/-- The elements that an instruction reads from its ports are popped. -/
def popG (i : Instr) (f : Focus) (g : Group) : Group :=
  if (opOf i).rd.any fun r => (portOf r).isSome then g.popAll f.lanes (opOf i).rd else g

theorem popped_updGrp (i : Instr) (f : Focus) (s : State) (W : Group → Group) :
    (Safe.popped i f s).updGrp f.team f.grp W = s.updGrp f.team f.grp fun g => W (popG i f g) := by
  unfold Safe.popped popG
  split
  · rw [State.updGrp_updGrp]
  · rfl

theorem popped_streams (i : Instr) (f : Focus) (s : State) :
    ((Safe.popped i f s).team f.team).streams = (s.team f.team).streams := by
  unfold Safe.popped
  split
  · rw [State.team_updGrp]; rfl
  · rfl

theorem updPort_rest (g : Group) (l q : Nat) (h : Port → Port) (p : SMap Port) : { g.updPort l q h with ports := p } = { g with ports := p } := rfl

theorem popAll_rest (g : Group) (m : LaneMask) (rd : List (RegFile × Nat)) (p : SMap Port) :
    { g.popAll m rd with ports := p } = { g with ports := p } := by
  unfold Group.popAll
  induction rd generalizing g with
  | nil => rfl
  | cons o rd ih =>
    rw [List.foldl_cons, ih]
    split
    · exact overLanes_keep (fun (h : Group) => ({ h with ports := p } : Group)) m _ g fun _ _ _ => rfl
    · rfl

theorem popG_rest (i : Instr) (f : Focus) (g : Group) (p : SMap Port) : { popG i f g with ports := p } = { g with ports := p } := by
  unfold popG
  split
  · exact popAll_rest g _ _ p
  · rfl

theorem port_updPort (g : Group) (l q : Nat) (h : Port → Port) (a b : Nat) (hq : q < 4) (hb : b < 4) :
    (g.updPort l q h).port a b = if a = l ∧ b = q then h (g.port l q) else g.port a b := by
  unfold Group.updPort Group.port
  simp only [SMap.get_set]
  have : (4 * a + b = 4 * l + q) ↔ (a = l ∧ b = q) := by omega
  simp only [this]

theorem portOf_lt (o : RegFile × Nat) (q : Nat) (h : portOf o = some q) (hr : o.2 < 64) : q < 4 ∧ o.1 = .x ∧ o.2 = q + 60 := by
  unfold portOf at h
  split at h
  · rename_i hx
    simp only [Option.some.injEq] at h
    exact ⟨by omega, hx.1, by omega⟩
  · simp at h

/-- A port that no operand names is not popped. -/
theorem popAll_port (g : Group) (m : LaneMask) (rd : List (RegFile × Nat)) (l b : Nat) (hb : b < 4)
    (hr : ∀ o ∈ rd, o.2 < 64) (hn : ∀ o ∈ rd, portOf o ≠ some b) : (g.popAll m rd).port l b = g.port l b := by
  unfold Group.popAll
  induction rd generalizing g with
  | nil => rfl
  | cons o rd ih =>
    rw [List.foldl_cons, ih _ (fun o' ho' => hr o' (List.mem_cons_of_mem _ ho')) fun o' ho' => hn o' (List.mem_cons_of_mem _ ho')]
    have h1 := hn o List.mem_cons_self
    split
    · rename_i q hq
      have hq4 := (portOf_lt o q hq (hr o List.mem_cons_self)).1
      have hqb : ¬ b = q := fun e => h1 (by rw [hq, e])
      refine overLanes_keep (fun (h : Group) => h.port l b) m _ g fun i y _ => ?_
      show (y.updPort i q _).port l b = y.port l b
      rw [port_updPort _ _ _ _ _ _ hq4 hb]
      simp [hqb]
    · rfl

theorem popG_port (i : Instr) (f : Focus) (g : Group) (l b : Nat) (hb : b < 4)
    (hr : ∀ o ∈ (opOf i).rd, o.2 < 64) (hn : ∀ o ∈ (opOf i).rd, portOf o ≠ some b) : (popG i f g).port l b = g.port l b := by
  unfold popG
  split
  · exact popAll_port g _ _ l b hb hr hn
  · rfl

/-! ## A value in a thread-register field -/

/-- The effect of a value in a thread-register field on the group. -/
def takeX (f : Focus) (st : SMap Stream) (d : Nat) (v : Nat → Word) (g : Group) : Group :=
  overLanes f.lanes (fun l g => g.wrField st l d (v l)) g

theorem wrField_rest (g : Group) (st : SMap Stream) (l d : Nat) (v : Word) (a : SMap Word) (b : List Pend) (p : SMap Port) :
    { g.wrField st l d v with x := a, out := b, ports := p } = { g with x := a, out := b, ports := p } := by
  unfold Group.wrField
  split <;> rfl

theorem takeX_rest (f : Focus) (st : SMap Stream) (d : Nat) (v : Nat → Word) (g : Group) (a : SMap Word) (b : List Pend) (p : SMap Port) :
    { takeX f st d v g with x := a, out := b, ports := p } = { g with x := a, out := b, ports := p } :=
  overLanes_keep (fun (h : Group) => ({ h with x := a, out := b, ports := p } : Group)) f.lanes _ g fun _ _ _ => wrField_rest _ _ _ _ _ a b p

theorem takeX_xr (f : Focus) (st : SMap Stream) (d : Nat) (v : Nat → Word) (g : Group) (l r : Nat) (hr : r < 64) :
    (takeX f st d v g).xr l r = if f.lanes.getLsbD l = true ∧ r = d ∧ d < 60 then v l else g.xr l r := by
  have := overLanes_point (fun l (g : Group) => g.xr l r) (fun l x => if r = d ∧ d < 60 then v l else x) f.lanes
    (fun l g => g.wrField st l d (v l)) g (fun i y k _ => by
      show (y.wrField st i d (v i)).xr k r = _
      unfold Group.wrField
      split
      · rename_i h60
        have : ¬ d < 60 := by omega
        simp only [this, and_false, if_false, ite_self]
        exact Group.xr_of_x _ _ _ _ rfl
      · rename_i h60
        rw [Group.xr_wrX _ _ _ _ _ _ (by omega) hr]
        by_cases hk : k = i
        · subst hk
          have : d < 60 := by omega
          simp [this]
        · simp [hk]) l
  unfold takeX
  rw [this]
  by_cases hl : f.lanes.getLsbD l = true <;> simp [hl]

theorem takeX_port (f : Focus) (st : SMap Stream) (d : Nat) (v : Nat → Word) (g : Group) (l : Nat) (h60 : 60 ≤ d) (h64 : d < 64) :
    (takeX f st d v g).port l (d - 60) = if f.lanes.getLsbD l = true then
      (if (SMap.get {} st (d - 60) : Stream).count ≤ (g.port l (d - 60)).pushed then g.port l (d - 60)
       else { g.port l (d - 60) with push := (g.port l (d - 60)).push ++ [some (v l)], pushed := (g.port l (d - 60)).pushed + 1 })
      else g.port l (d - 60) :=
  overLanes_point (fun l (g : Group) => g.port l (d - 60))
    (fun l (p : Port) => if (SMap.get {} st (d - 60) : Stream).count ≤ p.pushed then p
       else { p with push := p.push ++ [some (v l)], pushed := p.pushed + 1 }) f.lanes
    (fun l g => g.wrField st l d (v l)) g (fun i y k _ => by
      show (y.wrField st i d (v i)).port k (d - 60) = _
      unfold Group.wrField
      simp only [h60, if_true]
      rw [port_updPort _ _ _ _ _ _ (by omega) (by omega)]
      by_cases hk : k = i
      · subst hk; simp
      · simp [hk]) l

/-- A destination port is no source port of the same word (R105). -/
theorem dest_not_source (i : Instr) (f : Focus) (s : State) (h : Safe.Issues i f s) (d : Nat) (hd : d ∈ (opOf i).wx) (h60 : 60 ≤ d)
    (hr : ∀ o ∈ (opOf i).rd, o.2 < 64) : ∀ o ∈ (opOf i).rd, portOf o ≠ some (d - 60) := by
  intro o ho he
  have hp := h.ports
  unfold Op.portBad at hp
  simp only [Bool.or_eq_false_iff, List.any_eq_false, Bool.and_eq_true, decide_eq_true_eq, Bool.or_eq_true, Bool.not_eq_true',
    not_and, not_or, Bool.not_eq_false] at hp
  obtain ⟨⟨⟨⟨h1, h2⟩, _⟩, _⟩, _⟩ := hp
  obtain ⟨_, _, hq⟩ := portOf_lt o _ he (hr o ho)
  have a := (h1 o ho (by simp [he])).2
  have b := (h2 d hd h60).2
  rw [hq, show d - 60 + 60 - 60 = d - 60 by omega] at a
  rw [b] at a
  exact absurd a (by simp)

/-- All that an instruction can do whose whole effect is a value in a thread-register field. -/
theorem toX_spec (i : Instr) (d : Nat) (v : Iss → Nat → Word) (f : Focus) (s : State) (h : Safe.Issues i f s)
    (hd : d ∈ (opOf i).wx) (h64 : d < 64) (hr : ∀ o ∈ (opOf i).rd, o.2 < 64) :
    ∃ t, toX (opOf i) d v s = .next t ∧ Safe.WritesX f (opOf i).sm d (v (Safe.iss i f s)) s t := by
  let W : Group → Group := fun g => takeX f (s.team f.team).streams d (v (Safe.iss i f s)) (popG i f g)
  let H : Group → Group := fun g => onwardG f (Safe.place f s) (opOf i).sm s.clk.cycle (W g)
  have e1 : setD (Safe.iss i f s) d (v (Safe.iss i f s)) (Safe.popped i f s) = s.updGrp f.team f.grp W := by
    show (Safe.popped i f s).updGrp f.team f.grp (fun g => takeX f ((Safe.popped i f s).team f.team).streams d (v (Safe.iss i f s)) g) = _
    rw [popped_updGrp, popped_streams]
  have wrest : ∀ g, ({ W g with x := g.x, out := g.out, ports := g.ports } : Group) = g := fun g => by
    have a := takeX_rest f (s.team f.team).streams d (v (Safe.iss i f s)) (popG i f g) g.x g.out g.ports
    have b := congrArg (fun (k : Group) => ({ k with x := g.x, out := g.out } : Group)) (popG_rest i f g g.ports)
    exact a.trans b
  have htx : (W (Safe.grp f s)).tx = (Safe.grp f s).tx := by
    have := congrArg Group.tx (wrest (Safe.grp f s))
    exact this
  have hfin : toX (opOf i) d v s = .next (oneGroup f H s) := by
    unfold toX
    rw [issue_of i _ f s h]
    show Host.Outcome.next (finish (Safe.iss i f s) (opOf i).sm s (.done (setD (Safe.iss i f s) d (v (Safe.iss i f s)) (Safe.popped i f s)))) = _
    rw [e1, finish_done i f s W htx]
  have hgrp : Safe.grp f (oneGroup f H s) = H (Safe.grp f s) := oneGroup_grp f H s
  -- fields that nothing changes
  have hrest : ∀ g, ({ H g with x := g.x, out := g.out, ports := g.ports, thr := g.thr, youngUntil := g.youngUntil, pace := g.pace } : Group) = g := fun g => by
    have a := congrArg (fun (k : Group) => ({ k with x := g.x, out := g.out, ports := g.ports, thr := g.thr, youngUntil := g.youngUntil, pace := g.pace } : Group))
      (onwardG_rest f (Safe.place f s) (opOf i).sm s.clk.cycle (W g))
    have b := congrArg (fun (k : Group) => ({ k with thr := g.thr, youngUntil := g.youngUntil, pace := g.pace } : Group)) (wrest g)
    exact a.trans b
  have hWthr : ∀ g, (W g).thr = g.thr := fun g => by
    have := congrArg Group.thr (wrest g)
    exact this
  have hx : ∀ g, (H g).x = (W g).x := fun g => by
    have := congrArg Group.x (onwardG_rest f (Safe.place f s) (opOf i).sm s.clk.cycle (W g))
    exact this
  have hports : ∀ g, (H g).ports = (W g).ports := fun g => by
    have := congrArg Group.ports (onwardG_rest f (Safe.place f s) (opOf i).sm s.clk.cycle (W g))
    exact this
  have hpopx : ∀ g, (popG i f g).x = g.x := fun g => by
    have := congrArg Group.x (popG_rest i f g g.ports)
    exact this
  have hxr : ∀ g l r, r < 64 → (H g).xr l r = if f.lanes.getLsbD l = true ∧ r = d ∧ d < 60 then v (Safe.iss i f s) l else g.xr l r := fun g l r hr => by
    rw [Group.xr_of_x _ _ l r (hx g)]
    show (takeX f _ d _ (popG i f g)).xr l r = _
    rw [takeX_xr _ _ _ _ _ _ _ hr, Group.xr_of_x _ _ l r (hpopx g)]
  have hth : ∀ g l, (H g).th l = if f.lanes.getLsbD l = true ∧ (g.th l).pt = Safe.place f s ∧ (g.th l).run = .running
      then Safe.onward (opOf i).sm (Safe.place f s) (g.th l) else g.th l := fun g l => by
    show (onwardG f (Safe.place f s) (opOf i).sm s.clk.cycle (W g)).th l = _
    rw [onwardG_th, Group.th_of_thr _ _ l (hWthr g)]
  refine ⟨_, hfin, ?_⟩
  refine { takes := ⟨fun h60 l hl => ?_, fun h60 h64' l hl => ?_⟩, srcnt := ?_, only := oneGroup_only f H s, frame := ?_, amax := ?_, next := ?_ }
  · rw [hgrp, hxr _ _ _ (by omega)]
    simp [hl, h60]
  · rw [hgrp]
    show (H (Safe.grp f s)).port l (d - 60) = _
    have : (H (Safe.grp f s)).port l (d - 60) = (W (Safe.grp f s)).port l (d - 60) := by
      unfold Group.port; rw [hports]
    rw [this]
    show (takeX f _ d _ (popG i f (Safe.grp f s))).port l (d - 60) = _
    rw [takeX_port _ _ _ _ _ _ h60 h64', popG_port i f _ l _ (by omega) hr (dest_not_source i f s h d hd h60 hr)]
    simp [hl]
  · rw [hgrp]
    have := congrArg Group.srcnt (hrest (Safe.grp f s))
    exact this
  · exact {
      x := fun l r hr hn => by
        rw [hgrp, hxr _ _ _ hr]
        have : ¬ (f.lanes.getLsbD l = true ∧ r = d ∧ d < 60) := fun ⟨a, b, _⟩ => hn ⟨a, b⟩
        simp [this]
      w := fun r _ => by
        rw [hgrp]
        have := congrArg Group.w (hrest (Safe.grp f s))
        exact Group.wr_of_w _ _ r this
      p := fun k l _ => by
        rw [hgrp]
        have := congrArg Group.p (hrest (Safe.grp f s))
        exact Group.pr_of_p _ _ k l this
      rest := by
        rw [hgrp]
        have := congrArg (fun (k : Group) => Safe.sameRegs k (Safe.grp f s)) (hrest (Safe.grp f s))
        exact this
      threads := fun l => by
        rw [hgrp, hth]
        split <;> rfl
      still := fun l hl => by
        rw [hgrp, hth]
        simp [hl] }
  · rw [hgrp]
    have := congrArg Group.amax (hrest (Safe.grp f s))
    exact this
  · intro l hl hpt hrun
    rw [hgrp, hth]
    simp [hl, hpt, hrun]

/-! ## Other effects on the group alone -/

/-- A group but for where its threads stand and its waiting times. -/
def Group.bare (g : Group) : Group := { g with thr := [], youngUntil := 0, pace := {} }

/-- What every issue does whose effect is a change of the group that leaves its threads and its transaction. -/
structure DoneSpec (f : Focus) (sm : Bool) (W : Group → Group) (s t : State) : Prop where
  only : Safe.OnlyGroup f s t
  next : Safe.GoesOn f sm s t
  threads : ∀ l, Safe.samePlace ((Safe.grp f t).th l) ((Safe.grp f s).th l) = (Safe.grp f s).th l
  still : ∀ l, f.lanes.getLsbD l = false → (Safe.grp f t).th l = (Safe.grp f s).th l
  group : (Safe.grp f t).bare = (W (Safe.grp f s)).bare

theorem done_spec (i : Instr) (body : Iss → State → Res) (f : Focus) (s : State) (W : Group → Group) (h : Safe.Issues i f s)
    (hb : body (Safe.iss i f s) (Safe.popped i f s) = .done ((Safe.popped i f s).updGrp f.team f.grp W))
    (hthr : ∀ g, (W g).thr = g.thr) (htx : ∀ g, (W g).tx = g.tx) :
    ∃ t, issue (opOf i) body s = .next t ∧ DoneSpec f (opOf i).sm (fun g => W (popG i f g)) s t := by
  let V : Group → Group := fun g => W (popG i f g)
  have pthr : ∀ g, (popG i f g).thr = g.thr := fun g => by
    have := congrArg Group.thr (popG_rest i f g g.ports)
    exact this
  have ptx : ∀ g, (popG i f g).tx = g.tx := fun g => by
    have := congrArg Group.tx (popG_rest i f g g.ports)
    exact this
  have hV : (V (Safe.grp f s)).tx = (Safe.grp f s).tx := (htx _).trans (ptx _)
  have hfin : issue (opOf i) body s = .next (oneGroup f (fun g => onwardG f (Safe.place f s) (opOf i).sm s.clk.cycle (V g)) s) := by
    rw [issue_of i _ f s h, hb, popped_updGrp, finish_done i f s V hV]
  have hth : ∀ l, (Safe.grp f (oneGroup f (fun g => onwardG f (Safe.place f s) (opOf i).sm s.clk.cycle (V g)) s)).th l =
      if f.lanes.getLsbD l = true ∧ ((Safe.grp f s).th l).pt = Safe.place f s ∧ ((Safe.grp f s).th l).run = .running
      then Safe.onward (opOf i).sm (Safe.place f s) ((Safe.grp f s).th l) else (Safe.grp f s).th l := fun l => by
    rw [oneGroup_grp, onwardG_th, Group.th_of_thr _ _ l ((hthr _).trans (pthr (Safe.grp f s)))]
  refine ⟨_, hfin, ?_⟩
  refine { only := oneGroup_only _ _ s, next := ?_, threads := ?_, still := ?_, group := ?_ }
  · intro l hl hpt hrun
    rw [hth]
    simp [hl, hpt, hrun]
  · intro l
    rw [hth]
    split <;> rfl
  · intro l hl
    rw [hth]
    simp [hl]
  · rw [oneGroup_grp]
    have := congrArg Group.bare (onwardG_rest f (Safe.place f s) (opOf i).sm s.clk.cycle (V (Safe.grp f s)))
    exact this

/-- All that an instruction can do whose whole effect is a predicate. -/
theorem toP_spec (i : Instr) (k : Nat) (v : Iss → Nat → Bool) (f : Focus) (s : State) (h : Safe.Issues i f s) :
    ∃ t, toP (opOf i) k v s = .next t ∧ Safe.WritesP f (opOf i).sm k (v (Safe.iss i f s)) s t := by
  let W : Group → Group := fun g => overLanes f.lanes (fun l g => g.wrP k l (v (Safe.iss i f s) l)) g
  have rest : ∀ (g : Group) (a : SMap LaneMask) (b : List Pend), ({ W g with p := a, out := b } : Group) = { g with p := a, out := b } :=
    fun g a b => overLanes_keep (fun (h : Group) => ({ h with p := a, out := b } : Group)) f.lanes _ g fun i y _ => by
      show ({ y.wrP k i (v (Safe.iss _ f s) i) with p := a, out := b } : Group) = _
      unfold Group.wrP Group.setP
      split <;> rfl
  obtain ⟨t, ht, sp⟩ := done_spec i (fun i s => .done (setPd i k (v i) s)) f s W h rfl
    (fun g => by have := congrArg Group.thr (rest g g.p g.out); exact this) (fun g => by have := congrArg Group.tx (rest g g.p g.out); exact this)
  have hg : ({ (Safe.grp f t).bare with p := [], out := [], ports := [] } : Group) = { (Safe.grp f s).bare with p := [], out := [], ports := [] } := by
    rw [sp.group]
    have a := congrArg (fun (x : Group) => ({ x.bare with ports := [] } : Group)) (rest (popG i f (Safe.grp f s)) [] [])
    have b := congrArg (fun (x : Group) => ({ x.bare with p := [], out := [] } : Group)) (popG_rest i f (Safe.grp f s) [])
    exact a.trans b
  have hp : ∀ j l, (Safe.grp f t).pr j l = if f.lanes.getLsbD l = true then (if j = k ∧ k ≠ 7 then v (Safe.iss i f s) l else (Safe.grp f s).pr j l)
      else (Safe.grp f s).pr j l := by
    intro j l
    have e : (Safe.grp f t).p = (W (popG i f (Safe.grp f s))).p := by
      have := congrArg Group.p sp.group
      exact this
    rw [Group.pr_of_p _ _ j l e]
    have := overLanes_point (fun l (g : Group) => g.pr j l) (fun l b => if j = k ∧ k ≠ 7 then v (Safe.iss i f s) l else b) f.lanes
      (fun l g => g.wrP k l (v (Safe.iss i f s) l)) (popG i f (Safe.grp f s)) (fun i' y l' hi => by
        rw [Group.pr_wrP _ _ _ _ _ _ hi]
        by_cases hl : l' = i'
        · subst hl; simp
        · simp [hl]) l
    have ep : (popG i f (Safe.grp f s)).p = (Safe.grp f s).p := by
      have := congrArg Group.p (popG_rest i f (Safe.grp f s) [])
      exact this
    rw [Group.pr_of_p _ _ j l ep] at this
    exact this
  refine ⟨t, ht, { takes := ?_, only := sp.only, frame := ?_, srcnt := ?_, amax := ?_, next := sp.next }⟩
  · intro l hl
    rw [hp]
    by_cases h7 : k = 7
    · subst h7; simp [hl, Group.pr]
    · simp [hl, h7]
  · exact {
      x := fun l r _ _ => by have := congrArg Group.x hg; exact Group.xr_of_x _ _ l r this
      w := fun r _ => by have := congrArg Group.w hg; exact Group.wr_of_w _ _ r this
      p := fun j l hn => by
        rw [hp]
        by_cases hl : f.lanes.getLsbD l = true
        · have : ¬ j = k := fun e => hn ⟨hl, e⟩
          simp [this]
        · simp [hl]
      rest := by
        have := congrArg (fun (x : Group) => Safe.sameRegs x (Safe.grp f s)) hg
        exact this
      threads := sp.threads
      still := sp.still }
  · have := congrArg Group.srcnt hg; exact this
  · have := congrArg Group.amax hg; exact this

/-- All that an instruction can do whose whole effect is a uniform register. -/
theorem toW_spec (i : Instr) (d : Nat) (v : Iss → Word) (f : Focus) (s : State) (h : Safe.Issues i f s) :
    ∃ t, toW (opOf i) d v s = .next t ∧ Safe.WritesW f (opOf i).sm d (v (Safe.iss i f s)) s t := by
  let W : Group → Group := fun g => g.wrW d (v (Safe.iss i f s))
  obtain ⟨t, ht, sp⟩ := done_spec i (fun i s => .done (setWd i d (v i) s)) f s W h rfl (fun _ => rfl) (fun _ => rfl)
  have hg : ({ (Safe.grp f t).bare with w := [], out := [], ports := [] } : Group) = { (Safe.grp f s).bare with w := [], out := [], ports := [] } := by
    rw [sp.group]
    have b := congrArg (fun (x : Group) => ({ x.bare with w := [], out := [] } : Group)) (popG_rest i f (Safe.grp f s) [])
    exact b
  have hw : ∀ r, (Safe.grp f t).wr r = if r = d then v (Safe.iss i f s) else (Safe.grp f s).wr r := by
    intro r
    have e : (Safe.grp f t).w = (W (popG i f (Safe.grp f s))).w := by
      have := congrArg Group.w sp.group
      exact this
    have ep : (popG i f (Safe.grp f s)).w = (Safe.grp f s).w := by
      have := congrArg Group.w (popG_rest i f (Safe.grp f s) [])
      exact this
    rw [Group.wr_of_w _ _ r e]
    show (Group.wrW (popG i f (Safe.grp f s)) d _).wr r = _
    rw [Group.wr_wrW, Group.wr_of_w _ _ r ep]
  refine ⟨t, ht, { takes := ?_, only := sp.only, frame := ?_, srcnt := ?_, amax := ?_, next := sp.next }⟩
  · rw [hw]; simp
  · exact {
      x := fun l r _ _ => by have := congrArg Group.x hg; exact Group.xr_of_x _ _ l r this
      w := fun r hn => by
        rw [hw]
        have : ¬ r = d := hn
        simp [this]
      p := fun j l _ => by have := congrArg Group.p hg; exact Group.pr_of_p _ _ j l this
      rest := by
        have := congrArg (fun (x : Group) => Safe.sameRegs x (Safe.grp f s)) hg
        exact this
      threads := sp.threads
      still := sp.still }
  · have := congrArg Group.srcnt hg; exact this
  · have := congrArg Group.amax hg; exact this

end Sys2Proof.Machine
end

