-- ==== Sys2Proof/Laws/Moved.lean ====
section
/-! SUPPORT. What follows the effect of a word that issues: its lanes go on, stay where the word placed them, or trap. -/

namespace Sys2Proof.Machine

open Sys2Proof

/-- Changing one group's threads and waiting times, and counting the issue. -/
theorem ended_of (f : Focus) (H : Group → Group) (s : State)
    (h : ∀ g : Group, { H g with thr := g.thr, pace := g.pace, youngUntil := g.youngUntil } = g) : Safe.Ended f s (oneGroup f H s) where
  rest := (oneGroup_only f H s).rest
  clk := rfl
  others := (oneGroup_only f H s).others
  team := (oneGroup_only f H s).team
  groups := (oneGroup_only f H s).groups
  group := by rw [oneGroup_grp]; exact h _

/-- A word whose effect is made, and that has left no transaction, goes on. -/
theorem moved_of (i : Instr) (body : Iss → State → Res) (f : Focus) (s s' : State) (h : Safe.Issues i f s)
    (hb : body (Safe.iss i f s) (Safe.popped i f s) = .done s') (hx : (Safe.grp f s').tx = none → (Safe.grp f s).tx = none) :
    ∃ t, issue (opOf i) body s = .next t ∧ Safe.Moved f (Safe.place f s) (opOf i).sm s' t := by
  refine ⟨_, issue_of i body f s h, ?_⟩
  rw [hb]
  have hleft : (if (s'.grp f.team f.grp).tx.isNone = true then (Safe.iss i f s).txl else 0) = 0 := by
    split
    · rename_i hn
      have := hx (Option.isNone_iff_eq_none.mp hn)
      show (match (Safe.grp f s).tx with | some x => x.parts &&& f.lanes | none => 0) = (0 : LaneMask)
      rw [this]
    · rfl
  have e : finish (Safe.iss i f s) (opOf i).sm s (.done s') = oneGroup f (onwardG f (Safe.place f s) (opOf i).sm s'.clk.cycle) s' := by
    show ((s'.updGrp f.team f.grp fun g => (g.advance (f.lanes &&& ~~~ (if (s'.grp f.team f.grp).tx.isNone = true then (Safe.iss i f s).txl else 0))
      (Safe.place f s) (opOf i).sm).yields (Safe.place f s) s'.clk.cycle).issued f.team f.grp (opOf i).sm) = _
    rw [hleft]
    have hm : f.lanes &&& ~~~ (0 : LaneMask) = f.lanes := BitVec.and_allOnes
    rw [hm]
    unfold State.issued
    simp only [State.updGrp_updGrp]
    rfl
  rw [e]
  exact ⟨ended_of f _ s' fun g => onwardG_rest f _ _ _ g, fun l => by rw [oneGroup_grp]; exact onwardG_th f _ _ _ _ l⟩

/-- The change of a group whose lanes a word has placed. -/
def placedG (f : Focus) (pt : CodePt) (sm : Bool) (dest : LaneMask) (cycle : Nat) (g : Group) : Group :=
  let h := (g.marked f.lanes dest pt sm).yields pt cycle
  { h with pace := h.pace.go cycle sm }

theorem marked_th (g : Group) (m dest : LaneMask) (pt : CodePt) (sm : Bool) (l : Nat) : (g.marked m dest pt sm).th l =
    if sm = true ∧ m.getLsbD l = true then { g.th l with waitRes := true, stopPt := some (if dest.getLsbD l then (g.th l).pt else pt) } else g.th l := by
  unfold Group.marked
  cases sm
  · simp
  · have := overLanes_point (fun l (g : Group) => g.th l)
      (fun l th => { th with waitRes := true, stopPt := some (if dest.getLsbD l then th.pt else pt) }) m
      (fun i g => g.updTh i fun th => { th with waitRes := true, stopPt := some (if dest.getLsbD i then th.pt else pt) }) g
      (fun i y k _ => by
        by_cases hk : k = i
        · subst hk; simp
        · simp [hk, Group.th_updTh_other]) l
    simpa using this

theorem marked_rest (g : Group) (m dest : LaneMask) (pt : CodePt) (sm : Bool) : { g.marked m dest pt sm with thr := g.thr } = g := by
  unfold Group.marked
  split
  · exact overLanes_keep (fun (h : Group) => ({ h with thr := g.thr } : Group)) m _ g fun _ _ _ => rfl
  · rfl

theorem placedG_rest (f : Focus) (pt : CodePt) (sm : Bool) (dest : LaneMask) (c : Nat) (g : Group) :
    { placedG f pt sm dest c g with thr := g.thr, pace := g.pace, youngUntil := g.youngUntil } = g := by
  have h1 := Group.yields_rest (g.marked f.lanes dest pt sm) pt c
  have h2 := marked_rest g f.lanes dest pt sm
  have h3 := congrArg (fun (x : Group) => ({ x with thr := g.thr, pace := g.pace, youngUntil := g.youngUntil } : Group)) h1
  have h4 := congrArg (fun (x : Group) => ({ x with pace := g.pace, youngUntil := g.youngUntil } : Group)) h2
  exact h3.trans h4

theorem placedG_th (f : Focus) (pt : CodePt) (sm : Bool) (dest : LaneMask) (c : Nat) (g : Group) (l : Nat) : (placedG f pt sm dest c g).th l =
    if sm = true ∧ f.lanes.getLsbD l = true then { g.th l with waitRes := true, stopPt := some (if dest.getLsbD l then (g.th l).pt else pt) } else g.th l := by
  have e : (placedG f pt sm dest c g).thr = (g.marked f.lanes dest pt sm).thr := by
    have := congrArg Group.thr (Group.yields_rest (g.marked f.lanes dest pt sm) pt c)
    exact this
  rw [Group.th_of_thr _ _ l e]
  exact marked_th g f.lanes dest pt sm l

/-- A word that has placed its lanes itself. -/
theorem placed_of (i : Instr) (body : Iss → State → Res) (f : Focus) (s s' : State) (dest : LaneMask) (h : Safe.Issues i f s)
    (hb : body (Safe.iss i f s) (Safe.popped i f s) = .went s' dest) :
    ∃ t, issue (opOf i) body s = .next t ∧ Safe.Placed f (Safe.place f s) (opOf i).sm dest s' t := by
  refine ⟨_, issue_of i body f s h, ?_⟩
  rw [hb]
  have e : finish (Safe.iss i f s) (opOf i).sm s (.went s' dest) = oneGroup f (placedG f (Safe.place f s) (opOf i).sm dest s'.clk.cycle) s' := by
    show ((s'.updGrp f.team f.grp fun g => (g.marked f.lanes dest (Safe.place f s) (opOf i).sm).yields (Safe.place f s) s'.clk.cycle).issued
      f.team f.grp (opOf i).sm) = _
    unfold State.issued
    simp only [State.updGrp_updGrp]
    rfl
  rw [e]
  exact ⟨ended_of f _ s' fun g => placedG_rest f _ _ _ _ g, fun l => by rw [oneGroup_grp]; exact placedG_th f _ _ _ _ _ l⟩

theorem maskWhere_eq_zero (p : Nat → Bool) (h : ∀ l, l < 32 → p l = false) : maskWhere p = 0 := by
  apply BitVec.eq_of_getLsbD_eq
  intro i hi
  rw [maskWhere_get]
  simp [h i hi]

theorem Group.write_tx (g : Group) (p : Pend) : (g.write p).tx = g.tx := by
  unfold Group.write
  split
  · rfl
  · rfl
  · unfold Group.setP; split <;> rfl
  · rfl

theorem Group.land_tx (g : Group) (p : Pend) (h : g.tx = none) : (g.land p).tx = none := by
  unfold Group.land
  simp only
  split
  · split
    · show (Group.write _ _).tx = none
      rw [Group.write_tx]; exact h
    · rw [Group.write_tx]; exact h
  · split
    · split <;> exact h
    · split
      · show ((Group.write _ _).tx.map _) = none
        rw [Group.write_tx]
        show g.tx.map _ = none
        rw [h]; rfl
      · exact h

theorem Group.settle_tx (g : Group) (m : LaneMask) (h : g.tx = none) : (g.settle m).tx = none := by
  unfold Group.settle
  generalize g.out.filter _ = l
  induction l generalizing g with
  | nil => exact h
  | cons p l ih => exact ih _ (Group.land_tx g p h)

theorem State.updGrp_congr (s : State) (t g : Nat) (a b : Group → Group) (h : a (s.grp t g) = b (s.grp t g)) : s.updGrp t g a = s.updGrp t g b := by
  unfold State.updGrp; rw [h]

/-- Lanes in no handler trap: the trap is taken. -/
theorem raise_calm (i : Iss) (f : Focus) (s : State) (cause : Nat) (sp : Bool) (addr : Nat → Word) (ht : i.t = f.team) (hg : i.g = f.grp)
    (hl : i.lanes = f.lanes) (hc : Safe.calm f s) (h8 : cause ≠ 0x08) :
    Safe.TrapsAt f i.pt cause addr s (s.raise i cause sp addr) := by
  let h : Group := (Safe.grp f s).settle f.lanes
  have hin : ∀ l ∈ lanesOf f.lanes, ((s.grp f.team f.grp).th l).inTrap = false ∧ ((s.grp f.team f.grp).th l).inSave = false := fun l hm =>
    hc.out l ((mem_lanesOf _ _).mp hm)
  have hsave : (maskWhere fun k => f.lanes.getLsbD k && ((s.grp f.team f.grp).th k).inSave) = 0 := maskWhere_eq_zero _ fun l _ => by
    by_cases hb : f.lanes.getLsbD l = true
    · simp [(hin l ((mem_lanesOf _ _).mpr hb)).2]
    · simp [hb]
  have hnest : (maskWhere fun k => f.lanes.getLsbD k && !((s.grp f.team f.grp).th k).inSave && ((s.grp f.team f.grp).th k).inTrap) = 0 :=
    maskWhere_eq_zero _ fun l _ => by
      by_cases hb : f.lanes.getLsbD l = true
      · simp [(hin l ((mem_lanesOf _ _).mpr hb)).1]
      · simp [hb]
  have hn : ((lanesOf f.lanes).any fun l => ((s.grp f.team f.grp).th l).inTrap && !((s.grp f.team f.grp).th l).inSave) = false := by
    rw [List.any_eq_false]
    intro l hm
    simp [(hin l hm).1]
  have hu : (s.grp f.team f.grp).unready f.lanes = false := hc.ready
  have hfirst : f.lanes &&& ~~~ (0 : LaneMask) &&& ~~~ (0 : LaneMask) = f.lanes := by
    rw [show ~~~ (0 : LaneMask) = BitVec.allOnes 32 from by decide, BitVec.and_allOnes, BitVec.and_allOnes]
  have htx : (s.grp f.team f.grp).tx = none := hc.tx
  let K : Group → Group := fun g => overLanes f.lanes (fun l gr => gr.updTh l fun th =>
      th.enterTrap cause (addr l) i.pt (s.team f.team).trapvec none) (g.settle f.lanes)
  have e : s.raise i cause sp addr = oneGroup f (fun g => { K g with pace := (K g).pace.go s.clk.cycle false }) s := by
    have h1 : s.takeTrap f.team f.grp f.lanes cause sp i.pt addr = s.updGrp f.team f.grp K := by
      unfold State.takeTrap
      simp only [hsave, hnest, hfirst, hc.lanes, if_true, if_false]
      have hr : ∀ l, (s.grp f.team f.grp).txRestart cause l = none := fun l => by unfold Group.txRestart; rw [htx]
      simp only [hr]
      rw [State.updGrp_congr s f.team f.grp _ (fun gr => gr.settle f.lanes) ?_]
      have hv : ((s.updGrp f.team f.grp fun gr => gr.settle f.lanes).team f.team).trapvec = (s.team f.team).trapvec := by
        rw [State.team_updGrp]; rfl
      · simp only [hv, hc.handler, if_false, h8, State.updGrp_updGrp]
        rfl
      · simp only [Group.settle_tx _ _ htx]
    unfold State.raise
    simp only [ht, hg, hl, hn, hu, h8, Bool.false_or, Bool.false_and, decide_false, Bool.false_eq_true, if_false, List.foldl_nil]
    rw [h1]
    unfold State.issued
    simp only [State.updGrp_updGrp]
    rfl
  rw [e]
  have hth : ∀ l, (Safe.grp f (oneGroup f (fun g => { K g with pace := (K g).pace.go s.clk.cycle false }) s)).th l =
      if f.lanes.getLsbD l = true then ((Safe.grp f s).settle f.lanes |>.th l).enterTrap cause (addr l) i.pt (s.team f.team).trapvec none
      else ((Safe.grp f s).settle f.lanes).th l := by
    intro l
    rw [oneGroup_grp]
    show (K (Safe.grp f s)).th l = _
    exact overLanes_point (fun l (g : Group) => g.th l) (fun l th => th.enterTrap cause (addr l) i.pt (s.team f.team).trapvec none) f.lanes _ _
      (fun i y k _ => by
        by_cases hk : k = i
        · subst hk; simp
        · simp [hk, Group.th_updTh_other]) l
  refine ⟨oneGroup_only f _ s, ?_, fun l hl => ?_, fun l hl => ?_⟩
  · rw [oneGroup_grp]
    exact overLanes_keep (fun (g : Group) => ({ g with thr := h.thr, pace := h.pace } : Group)) f.lanes _ h fun _ _ _ => rfl
  · rw [hth l, if_pos hl]; rfl
  · rw [hth l, if_neg (by simp [hl])]
/-- A word that raises a cause at lanes in no handler traps. -/
theorem traps_of (i : Instr) (body : Iss → State → Res) (f : Focus) (s : State) (cause : Nat) (sp : Bool) (addr : Nat → Word)
    (h : Safe.Issues i f s) (hc : Safe.calm f s) (h8 : cause ≠ 0x08) (hb : body (Safe.iss i f s) (Safe.popped i f s) = .trap cause sp addr) :
    ∃ t, issue (opOf i) body s = .next t ∧ Safe.TrapsTo f cause addr s t := by
  refine ⟨_, issue_of i body f s h, ?_⟩
  rw [hb]
  exact raise_calm (Safe.iss i f s) f s cause sp addr rfl rfl rfl hc h8

end Sys2Proof.Machine
end

