-- ==== Sys2Proof/Laws/Accesses.lean ====
section
/-! SUPPORT. What accesses by the lanes of an issue can do: each operation on the way to memory keeps all but what `Aside` names
(R75–R82, R85, R318, R338, R360). -/

namespace Sys2Proof.Machine

open Sys2Proof

/-! ## Quiet states -/

/-- In a quiet state a write touches no transaction and wakes no group. -/
theorem noteLine_quiet (s : State) (skip : Option (Nat × Nat)) (l : Nat) (q : Safe.quiet s) : s.noteLine skip l = s := by
  unfold State.noteLine
  have h1 : (s.teams.any fun e => e.2.groups.any fun h => match h.2.tx with | some x => x.touches l && skip != some (e.1, h.1) | none => false) = false := by
    rw [List.any_eq_false]; intro e he
    simp only [Bool.not_eq_true]
    rw [List.any_eq_false]; intro h hh
    rw [q.1 e he h hh]; simp
  simp only [q.2.1, List.filter_nil, List.map_nil, List.isEmpty_nil, if_true]
  exact if_neg fun hh => Bool.false_ne_true (h1.symm.trans hh)

/-- In a quiet state a read records nothing. -/
theorem noteRead_quiet (s : State) (k n : Nat) (q : Safe.quiet s) : s.noteRead k n = s := by
  unfold State.noteRead
  simp [q.2.2.1, q.2.2.2]

/-- In a quiet state a write that is performed changes memory, poison, a migration's marks and the deltas sent. -/
theorem perform_quiet (s : State) (skip : Option (Nat × Nat)) (k n v : Nat) (q : Safe.quiet s) :
    ∃ r m, s.perform skip k n v = { s with mem := memWrite s.mem k n v, ras := r, part := { s.part with mig := m } } ∧
      { r with poison := s.ras.poison, deltas := s.ras.deltas, sent := s.ras.sent } = s.ras ∧ (s.ras.poison = [] → r.poison = []) := by
  have fold : ∀ (L : List Nat) (u : State), Safe.quiet u → L.foldl (fun s l => s.noteLine skip l) u = u := by
    intro L
    induction L with
    | nil => intro u _; rfl
    | cons l L ih => intro u hu; rw [List.foldl_cons, noteLine_quiet u skip l hu, ih u hu]
  unfold State.perform
  by_cases hn : n = 0
  · subst hn
    exact ⟨s.ras, s.part.mig, rfl, rfl, id⟩
  · rw [if_neg hn]
    simp only
    rw [fold]
    · by_cases hp : s.ras.poison.isEmpty = true
      · have hp' : (s.ras.send (s.deltasOf (memWrite s.mem k n v) k n)).poison.isEmpty = true := hp
        simp only [hp', if_true]
        cases hm : s.part.mig with
        | none => exact ⟨s.ras.send (s.deltasOf (memWrite s.mem k n v) k n), none, by simp only [← hm], rfl, id⟩
        | some m => exact ⟨s.ras.send (s.deltasOf (memWrite s.mem k n v) k n), some (m.mark k n), rfl, rfl, id⟩
      · have hp' : (s.ras.send (s.deltasOf (memWrite s.mem k n v) k n)).poison.isEmpty = false := by simpa [Ras.send] using hp
        simp only [hp', if_false, Bool.false_eq_true]
        cases hm : s.part.mig with
        | none =>
          exact ⟨{ s.ras.send (s.deltasOf (memWrite s.mem k n v) k n) with
                   poison := s.ras.poison.filter fun l => !(wholeLines k n).contains l },
            none, by simp only [← hm]; rfl, rfl, fun h => by simp [h]⟩
        | some m => exact ⟨_, some (m.mark k n), rfl, rfl, fun h => by simp [Ras.send, h]⟩
    · refine ⟨?_, ?_, ?_, ?_⟩
      all_goals repeat' split
      all_goals first | exact q.1 | exact q.2.1 | exact q.2.2.1 | exact q.2.2.2

/-- In a quiet state no bank refuses a write. -/
theorem writeAt_quiet (s : State) (k n v : Nat) (q : Safe.quiet s) : s.writeAt k n v = s.perform none k n v := by
  unfold State.writeAt
  simp [q.2.2.1]

theorem mem_ins {α : Type} (m : SMap α) (k : Nat) (v : α) (e : Nat × α) (h : e ∈ SMap.ins k v m) : e = (k, v) ∨ e ∈ m := by
  induction m with
  | nil => simp [SMap.ins] at h; exact .inl h
  | cons a t ih =>
    obtain ⟨k', v'⟩ := a
    unfold SMap.ins at h
    split at h
    · rcases List.mem_cons.mp h with h | h
      · exact .inl h
      · exact .inr h
    · split at h
      · rcases List.mem_cons.mp h with h | h
        · exact .inl h
        · exact .inr (List.mem_cons_of_mem _ h)
      · rcases List.mem_cons.mp h with h | h
        · exact .inr (h ▸ List.mem_cons_self)
        · rcases ih h with h | h
          · exact .inl h
          · exact .inr (List.mem_cons_of_mem _ h)

theorem get_mem {α : Type} (d : α) (m : SMap α) (k : Nat) : SMap.get d m k = d ∨ (k, SMap.get d m k) ∈ m := by
  induction m with
  | nil => exact .inl rfl
  | cons a t ih =>
    obtain ⟨k', v'⟩ := a
    unfold SMap.get
    split
    · rename_i h; subst h; exact .inr List.mem_cons_self
    · rcases ih with h | h
      · exact .inl h
      · exact .inr (List.mem_cons_of_mem _ h)

/-- In a quiet state no group has a transaction. -/
theorem quiet_tx (s : State) (q : Safe.quiet s) (t g : Nat) : (s.grp t g).tx = none := by
  have hg : ∀ tm : Team, (∀ h ∈ tm.groups, h.2.tx = none) → (tm.grp g).tx = none := by
    intro tm h
    unfold Team.grp
    rcases get_mem ({} : Group) tm.groups g with e | e
    · rw [e]
    · exact h _ e
  apply hg
  unfold State.team
  rcases get_mem ({} : Team) s.teams t with e | e
  · rw [e]; intro h hh; exact absurd hh List.not_mem_nil
  · exact q.1 _ e

theorem quiet_updGrp (s : State) (q : Safe.quiet s) (t g : Nat) (H : Group → Group) (h : (H (s.grp t g)).tx = none) :
    Safe.quiet (s.updGrp t g H) := by
  refine ⟨?_, q.2⟩
  intro e he k hk
  have ht : ∀ x ∈ (s.team t).groups, x.2.tx = none := by
    unfold State.team
    rcases get_mem ({} : Team) s.teams t with e | e
    · rw [e]; intro h hh; exact absurd hh List.not_mem_nil
    · exact q.1 _ e
  rcases mem_ins s.teams t _ e he with rfl | he
  · rcases mem_ins (s.team t).groups g _ k hk with rfl | hk
    · exact h
    · exact ht k hk
  · exact q.1 e he k hk

/-! ## What an access leaves -/

/-- What lanes of an issue change beside memory on the way of their accesses; the count of issues stays. -/
structure Aside (f : Focus) (s t : State) : Prop where
  rest : { t with mem := s.mem, teams := s.teams, clk := s.clk, cache := s.cache, fns := s.fns, ras := s.ras, part := s.part, stores := s.stores, ext := s.ext, outbox := s.outbox } = s
  clk : t.clk = { s.clk with ids := t.clk.ids }
  ext : { t.ext with atc := s.ext.atc } = s.ext
  outbox : ∃ l, t.outbox = s.outbox ++ l ∧ ∀ o ∈ l, ∃ g a, o = .packet g a
  cache : { t.cache with l1 := s.cache.l1, tlb := s.cache.tlb, walks := s.cache.walks, cpOwner := s.cache.cpOwner, cpUse := s.cache.cpUse, ltime := s.cache.ltime, stamp := s.cache.stamp } = s.cache
  fns : ∀ n, { t.fn n with mbal := (s.fn n).mbal, lbal := (s.fn n).lbal } = s.fn n
  ras : { t.ras with chans := s.ras.chans, poison := s.ras.poison, deltas := s.ras.deltas, sent := s.ras.sent } = s.ras
  part : { t.part with mig := s.part.mig } = s.part
  others : ∀ n, n ≠ f.team → t.team n = s.team n
  team : { t.team f.team with groups := (s.team f.team).groups } = s.team f.team
  groups : ∀ n, n ≠ f.grp → t.grp f.team n = s.grp f.team n
  regs : { Safe.grp f t with thr := (Safe.grp f s).thr, out := (Safe.grp f s).out, ports := (Safe.grp f s).ports, srcnt := (Safe.grp f s).srcnt, amax := (Safe.grp f s).amax } = Safe.grp f s
  threads : ∀ l, { (Safe.grp f t).th l with tsm := ((Safe.grp f s).th l).tsm, osat := ((Safe.grp f s).th l).osat, acq := ((Safe.grp f s).th l).acq } = (Safe.grp f s).th l
  still : ∀ l, f.lanes.getLsbD l = false → (Safe.grp f t).th l = (Safe.grp f s).th l
  quiet : Safe.quiet s → Safe.quiet t

theorem Aside.refl (f : Focus) (s : State) : Aside f s s where
  rest := rfl
  clk := rfl
  ext := rfl
  outbox := ⟨[], (List.append_nil _).symm, fun _ h => absurd h List.not_mem_nil⟩
  cache := rfl
  fns _ := rfl
  ras := rfl
  part := rfl
  others _ _ := rfl
  team := rfl
  groups _ _ := rfl
  regs := rfl
  threads _ := rfl
  still _ _ := rfl
  quiet := id

theorem Aside.trans {f : Focus} {s t u : State} (a : Aside f s t) (b : Aside f t u) : Aside f s u where
  rest := by
    have h1 := b.rest
    have h2 := a.rest
    have := congrArg (fun x : State => ({ x with mem := s.mem, teams := s.teams, clk := s.clk, cache := s.cache, fns := s.fns, ras := s.ras, part := s.part, stores := s.stores, ext := s.ext, outbox := s.outbox } : State)) h1
    exact this.trans h2
  clk := by rw [b.clk, a.clk]
  ext := by
    have := congrArg (fun x => { x with atc := s.ext.atc }) b.ext
    exact this.trans a.ext
  outbox := by
    obtain ⟨l, e, h⟩ := a.outbox
    obtain ⟨k, e', h'⟩ := b.outbox
    exact ⟨l ++ k, by rw [e', e, List.append_assoc], fun o ho => (List.mem_append.mp ho).elim (h o) (h' o)⟩
  cache := by
    have := congrArg (fun x => { x with l1 := s.cache.l1, tlb := s.cache.tlb, walks := s.cache.walks, cpOwner := s.cache.cpOwner, cpUse := s.cache.cpUse, ltime := s.cache.ltime, stamp := s.cache.stamp }) b.cache
    exact this.trans a.cache
  fns n := by
    have := congrArg (fun x : Fn => { x with mbal := (s.fn n).mbal, lbal := (s.fn n).lbal }) (b.fns n)
    exact this.trans (a.fns n)
  ras := by
    have := congrArg (fun x => { x with chans := s.ras.chans, poison := s.ras.poison, deltas := s.ras.deltas, sent := s.ras.sent }) b.ras
    exact this.trans a.ras
  part := by
    have := congrArg (fun x => { x with mig := s.part.mig }) b.part
    exact this.trans a.part
  others n h := (b.others n h).trans (a.others n h)
  team := by
    have := congrArg (fun x : Team => { x with groups := (s.team f.team).groups }) b.team
    exact this.trans a.team
  groups n h := (b.groups n h).trans (a.groups n h)
  regs := by
    have := congrArg (fun x : Group => { x with thr := (Safe.grp f s).thr, out := (Safe.grp f s).out, ports := (Safe.grp f s).ports, srcnt := (Safe.grp f s).srcnt, amax := (Safe.grp f s).amax }) b.regs
    exact this.trans a.regs
  threads l := by
    have := congrArg (fun x : Thread => { x with tsm := ((Safe.grp f s).th l).tsm, osat := ((Safe.grp f s).th l).osat, acq := ((Safe.grp f s).th l).acq }) (b.threads l)
    exact this.trans (a.threads l)
  still l h := (b.still l h).trans (a.still l h)
  quiet h := b.quiet (a.quiet h)

/-- A change of one group that leaves its threads. -/
theorem Aside.updGrp (f : Focus) (s : State) (H : Group → Group) (hthr : (H (Safe.grp f s)).thr = (Safe.grp f s).thr)
    (hr : { H (Safe.grp f s) with thr := (Safe.grp f s).thr, out := (Safe.grp f s).out, ports := (Safe.grp f s).ports, srcnt := (Safe.grp f s).srcnt, amax := (Safe.grp f s).amax } = Safe.grp f s) : Aside f s (s.updGrp f.team f.grp H) where
  rest := rfl
  clk := rfl
  ext := rfl
  outbox := ⟨[], (List.append_nil _).symm, fun _ h => absurd h List.not_mem_nil⟩
  cache := rfl
  fns _ := rfl
  ras := rfl
  part := rfl
  others n h := State.team_updGrp_other s f.team f.grp n H h
  team := by rw [State.team_updGrp]; rfl
  groups n h := State.grp_updGrp_other s f.team f.grp n H h
  regs := by
    have : Safe.grp f (s.updGrp f.team f.grp H) = H (Safe.grp f s) := State.grp_updGrp s f.team f.grp H
    rw [this]; exact hr
  threads l := by
    have : Safe.grp f (s.updGrp f.team f.grp H) = H (Safe.grp f s) := State.grp_updGrp s f.team f.grp H
    rw [this, Group.th_of_thr _ _ l hthr]
  still l _ := by
    have : Safe.grp f (s.updGrp f.team f.grp H) = H (Safe.grp f s) := State.grp_updGrp s f.team f.grp H
    rw [this, Group.th_of_thr _ _ l hthr]
  quiet q := quiet_updGrp s q _ _ _ (by
    have := congrArg Group.tx hr
    exact this.trans (quiet_tx s q f.team f.grp))

/-- A change of a lane's SY.TSM or of its count of accesses outside the package. -/
theorem Aside.updTh (f : Focus) (s : State) (l : Nat) (h : Thread → Thread) (hl : f.lanes.getLsbD l = true)
    (hh : ∀ th, { h th with tsm := th.tsm, osat := th.osat, acq := th.acq } = th) :
    Aside f s (s.updGrp f.team f.grp fun g => g.updTh l h) where
  rest := rfl
  clk := rfl
  ext := rfl
  outbox := ⟨[], (List.append_nil _).symm, fun _ h => absurd h List.not_mem_nil⟩
  cache := rfl
  fns _ := rfl
  ras := rfl
  part := rfl
  others n hn := State.team_updGrp_other s f.team f.grp n _ hn
  team := by rw [State.team_updGrp]; rfl
  groups n hn := State.grp_updGrp_other s f.team f.grp n _ hn
  regs := by
    have : Safe.grp f (s.updGrp f.team f.grp fun g => g.updTh l h) = (Safe.grp f s).updTh l h := State.grp_updGrp s f.team f.grp _
    rw [this]; rfl
  threads k := by
    have : Safe.grp f (s.updGrp f.team f.grp fun g => g.updTh l h) = (Safe.grp f s).updTh l h := State.grp_updGrp s f.team f.grp _
    rw [this]
    by_cases hk : k = l
    · subst hk; rw [Group.th_updTh]; exact hh _
    · rw [Group.th_updTh_other _ _ _ _ hk]
  still k hk := by
    have : Safe.grp f (s.updGrp f.team f.grp fun g => g.updTh l h) = (Safe.grp f s).updTh l h := State.grp_updGrp s f.team f.grp _
    rw [this, Group.th_updTh_other _ _ _ _ (fun e => by subst e; rw [hl] at hk; cases hk)]
  quiet q := quiet_updGrp s q _ _ _ (quiet_tx s q f.team f.grp)

/-- A change outside the teams. -/
theorem Aside.out (f : Focus) (s t : State) (ht : t.teams = s.teams)
    (rest : { t with mem := s.mem, teams := s.teams, clk := s.clk, cache := s.cache, fns := s.fns, ras := s.ras, part := s.part, stores := s.stores, ext := s.ext, outbox := s.outbox } = s)
    (clk : t.clk = { s.clk with ids := t.clk.ids })
    (ext : { t.ext with atc := s.ext.atc } = s.ext)
    (outbox : ∃ l, t.outbox = s.outbox ++ l ∧ ∀ o ∈ l, ∃ g a, o = .packet g a)
    (cache : { t.cache with l1 := s.cache.l1, tlb := s.cache.tlb, walks := s.cache.walks, cpOwner := s.cache.cpOwner, cpUse := s.cache.cpUse, ltime := s.cache.ltime, stamp := s.cache.stamp } = s.cache)
    (fns : ∀ n, { t.fn n with mbal := (s.fn n).mbal, lbal := (s.fn n).lbal } = s.fn n)
    (ras : { t.ras with chans := s.ras.chans, poison := s.ras.poison, deltas := s.ras.deltas, sent := s.ras.sent } = s.ras)
    (part : { t.part with mig := s.part.mig } = s.part) : Aside f s t := by
  have e : ∀ n, t.team n = s.team n := fun n => by unfold State.team; rw [ht]
  have eg : ∀ n k, t.grp n k = s.grp n k := fun n k => by unfold State.grp; rw [e]
  have eG : Safe.grp f t = Safe.grp f s := eg _ _
  exact { rest := rest, clk := clk, ext := ext, outbox := outbox, cache := cache, fns := fns, ras := ras, part := part, others := fun n _ => e n, team := by rw [e],
          groups := fun n _ => eg _ _, regs := by rw [eG], threads := fun l => by rw [eG], still := fun l _ => by rw [eG],
          quiet := fun q => ⟨by rw [ht]; exact q.1, by
            have := congrArg (fun x => x.wake) cache
            have : t.cache.wake = s.cache.wake := this
            rw [this]; exact q.2.1, by
            have := congrArg State.lh rest
            have : t.lh = s.lh := this
            rw [this]; exact q.2.2.1, by
            have := congrArg (fun x => x.lost) ras
            have : t.ras.lost = s.ras.lost := this
            rw [this]; exact q.2.2.2⟩ }

/-- A change that leaves the teams, the links and what has been sent. -/
theorem Aside.cached (f : Focus) (s t : State)
    (rest : { t with mem := s.mem, clk := s.clk, cache := s.cache, fns := s.fns, ras := s.ras, part := s.part, stores := s.stores } = s)
    (clk : t.clk = { s.clk with ids := t.clk.ids })
    (cache : { t.cache with l1 := s.cache.l1, tlb := s.cache.tlb, walks := s.cache.walks, cpOwner := s.cache.cpOwner, cpUse := s.cache.cpUse, ltime := s.cache.ltime, stamp := s.cache.stamp } = s.cache)
    (fns : ∀ n, { t.fn n with mbal := (s.fn n).mbal, lbal := (s.fn n).lbal } = s.fn n)
    (ras : { t.ras with chans := s.ras.chans, poison := s.ras.poison, deltas := s.ras.deltas, sent := s.ras.sent } = s.ras)
    (part : { t.part with mig := s.part.mig } = s.part) : Aside f s t := by
  have ht : t.teams = s.teams := by have := congrArg State.teams rest; exact this
  have he : t.ext = s.ext := by have := congrArg State.ext rest; exact this
  have ho : t.outbox = s.outbox := by have := congrArg State.outbox rest; exact this
  refine Aside.out f s t ht ?_ clk (by rw [he]) ⟨[], by rw [ho, List.append_nil], fun _ h => absurd h List.not_mem_nil⟩ cache fns ras part
  have := congrArg (fun x : State => ({ x with teams := s.teams, ext := s.ext, outbox := s.outbox } : State)) rest
  exact this

/-! ## The operations -/

theorem aside_keep (f : Focus) (s : State) (rg : Regime) (va : Nat) (x : Xl) : Aside f s (s.keep rg va x) := by
  unfold State.keep
  split
  · exact Aside.refl f s
  · exact Aside.out f s _ rfl rfl rfl rfl ⟨[], (List.append_nil _).symm, fun _ h => absurd h List.not_mem_nil⟩ rfl (fun _ => rfl) rfl rfl

theorem aside_claimCp (f : Focus) (s : State) (t core : Nat) (x : Xl) : Aside f s (s.claimCp t core x) := by
  unfold State.claimCp
  split
  · exact Aside.cached f s _ rfl rfl rfl (fun _ => rfl) rfl rfl
  · exact Aside.refl f s

theorem aside_setFn (f : Focus) (s : State) (n : Nat) (a b : Int) : Aside f s (s.setFn n { s.fn n with mbal := a, lbal := b }) := by
  refine Aside.cached f s _ rfl rfl rfl (fun k => ?_) rfl rfl
  by_cases hk : k = n
  · subst hk
    have : (s.setFn k { s.fn k with mbal := a, lbal := b }).fn k = { s.fn k with mbal := a, lbal := b } := SMap.get_ins_same _ _ _ _
    rw [this]
  · have : (s.setFn n { s.fn n with mbal := a, lbal := b }).fn k = s.fn k := SMap.get_ins_other _ _ _ _ _ hk
    rw [this]

theorem aside_charge (f : Focus) (s : State) (rg : Regime) (x : Xl) (n : Nat) : Aside f s (s.charge rg x n) := by
  unfold State.charge
  simp only
  split
  · exact Aside.refl f s
  · split
    · split
      · exact Aside.refl f s
      · exact aside_setFn f s rg.fn _ (s.fn rg.fn).lbal
    · split
      · exact Aside.refl f s
      · exact aside_setFn f s rg.fn (s.fn rg.fn).mbal _

theorem aside_askChan (f : Focus) (s : State) (fn cls stamp key req : Nat) : Aside f s (s.askChan fn cls stamp key req) :=
  Aside.cached f s _ rfl rfl rfl (fun _ => rfl) rfl rfl

theorem aside_sendOut (f : Focus) (s : State) (x : Xl) (g : Tags) : Aside f s (s.sendOut x g) := by
  unfold State.sendOut
  split
  · exact Aside.out f s _ rfl rfl rfl rfl ⟨[.packet g x.pa], rfl, fun o h => ⟨g, x.pa, by simpa using h⟩⟩ rfl (fun _ => rfl) rfl rfl
  · exact Aside.refl f s

theorem aside_toChannel (f : Focus) (s : State) (fn cls dloff req : Nat) (x : Xl) : Aside f s (s.toChannel fn cls dloff req x) :=
  (aside_askChan f s fn cls _ x.key req).trans (aside_sendOut f _ x _)

theorem aside_chargeAccess (f : Focus) (s : State) (t : Nat) (rg : Regime) (core lane : Nat) (load : Bool) (x : Xl) :
    Aside f s (s.chargeAccess t rg core lane load x) := by
  unfold State.chargeAccess
  split
  · exact Aside.refl f s
  · exact (aside_charge f s rg x 64).trans (aside_toChannel f _ _ _ _ _ _)

theorem aside_leaseRead (f : Focus) (s : State) (core line : Nat) : Aside f s (s.leaseRead core line) :=
  Aside.cached f s _ rfl rfl rfl (fun _ => rfl) rfl rfl

theorem aside_leaseWrite (f : Focus) (s : State) (core line : Nat) : Aside f s (s.leaseWrite core line) :=
  Aside.cached f s _ rfl rfl rfl (fun _ => rfl) rfl rfl

theorem aside_l1Put (f : Focus) (s : State) (v : L1Line) : Aside f s (s.l1Put v) := Aside.cached f s _ rfl rfl rfl (fun _ => rfl) rfl rfl

theorem aside_l1Drop (f : Focus) (s : State) (c l : Nat) : Aside f s (s.l1Drop c l) := Aside.cached f s _ rfl rfl rfl (fun _ => rfl) rfl rfl

theorem aside_l1Write (f : Focus) (s : State) (c k n v : Nat) : Aside f s (s.l1Write c k n v) := by
  unfold State.l1Write
  split
  · exact aside_l1Put f s _
  · exact Aside.refl f s

theorem aside_inFlight (f : Focus) (s : State) (w : Who) (e : InFlight) : Aside f s (s.inFlight w e) :=
  Aside.cached f s _ rfl rfl rfl (fun _ => rfl) rfl rfl

theorem aside_countOut (f : Focus) (s : State) (w : Who) (ht : w.t = f.team) (hg : w.g = f.grp) (hl : f.lanes.getLsbD w.lane = true) :
    Aside f s (s.countOut w) := by
  unfold State.countOut
  rw [ht, hg]
  exact Aside.updTh f s w.lane _ hl fun _ => rfl

theorem aside_tsm (f : Focus) (s : State) (w : Who) (b : Word) (ht : w.t = f.team) (hg : w.g = f.grp) (hl : f.lanes.getLsbD w.lane = true) :
    Aside f s (s.updGrp w.t w.g fun g => g.updTh w.lane fun th => { th with tsm := th.tsm ||| b }) := by
  rw [ht, hg]
  exact Aside.updTh f s w.lane _ hl fun _ => rfl

theorem aside_perform (f : Focus) (s : State) (skip : Option (Nat × Nat)) (k n v : Nat) (q : Safe.quiet s) : Aside f s (s.perform skip k n v) := by
  obtain ⟨r, m, e, hr, _⟩ := perform_quiet s skip k n v q
  rw [e]
  refine Aside.cached f s _ rfl rfl rfl (fun _ => rfl) ?_ rfl
  have := congrArg (fun r : Ras => { r with chans := s.ras.chans }) hr
  exact this

theorem aside_writeAt (f : Focus) (s : State) (k n v : Nat) (q : Safe.quiet s) : Aside f s (s.writeAt k n v) := by
  rw [writeAt_quiet s k n v q]; exact aside_perform f s none k n v q

theorem aside_setPoison (f : Focus) (s : State) (k n : Nat) : Aside f s (s.setPoison k n) :=
  Aside.cached f s _ rfl rfl rfl (fun _ => rfl) rfl rfl

theorem aside_chargeBack (f : Focus) (s : State) (fn n : Nat) : Aside f s (s.chargeBack fn n) := by
  unfold State.chargeBack
  simp only
  split
  · exact Aside.refl f s
  · exact aside_setFn f s fn _ (s.fn fn).lbal

theorem aside_l1Clean (f : Focus) (s : State) (core line : Nat) (q : Safe.quiet s) : Aside f s (s.l1Clean core line) := by
  unfold State.l1Clean
  split
  · split
    · rename_i c _ _
      simp only
      generalize hu : (if 640 ≤ core then s else s.chargeBack (s.sliceOf (keyBank (line * 128))) 128) = u
      have a : Aside f s u := by
        rw [← hu]; split
        · exact Aside.refl f s
        · exact aside_chargeBack f s _ _
      have b := (a.trans (aside_askChan f u (u.sliceOf (keyBank (line * 128))) c.cls c.stamp (line * 128) 2000)).trans (aside_l1Put f _ { c with dirty := false })
      have d := b.trans (aside_writeAt f _ (line * 128) 128 (memRead c.data 0 128) (b.quiet q))
      split
      · exact d.trans (aside_setPoison f _ _ _)
      · exact d
    · exact Aside.refl f s
  · exact Aside.refl f s

theorem aside_pendFor (f : Focus) (s : State) (lanes : LaneMask) (i : Iss) (p : Pend) (ht : i.t = f.team) (hg : i.g = f.grp) :
    Aside f s (s.pendFor lanes i p) := by
  unfold State.pendFor
  rw [ht, hg]
  have a : Aside f s s.newId.2 := Aside.cached f s _ rfl rfl rfl (fun _ => rfl) rfl rfl
  exact a.trans (Aside.updGrp f s.newId.2 _ rfl rfl)

theorem aside_markRemote (f : Focus) (s : State) (i : Iss) (l : Nat) (x : Xl) (src : Option (Nat × Bool)) (ht : i.t = f.team) (hg : i.g = f.grp) :
    Aside f s (s.markRemote i l x src) := by
  unfold State.markRemote
  split
  · exact Aside.refl f s
  · rw [ht, hg]; exact Aside.updGrp f s _ rfl rfl

theorem aside_popped (i : Instr) (f : Focus) (s : State) : Aside f s (Safe.popped i f s) := by
  unfold Safe.popped
  split
  · have h := popAll_rest (Safe.grp f s) f.lanes (opOf i).rd (Safe.grp f s).ports
    refine Aside.updGrp f s _ ?_ ?_
    · have := congrArg Group.thr h; exact this
    · have := congrArg (fun g : Group => { g with thr := (Safe.grp f s).thr, out := (Safe.grp f s).out, srcnt := (Safe.grp f s).srcnt, amax := (Safe.grp f s).amax }) h
      exact this
  · exact Aside.refl f s

/-- The lane's way to memory: its translation is held, a CP page claimed, the request charged and sent (R80, R318, R338, R360). -/
def way (i : Iss) (load : Bool) (l ea : Nat) (x : Xl) (s : State) : State :=
  ((s.keep i.rg ea x).claimCp i.t i.core x).chargeAccess i.t i.rg i.core l load x

/-- What the lane's way to memory changes. -/
theorem aside_way (f : Focus) (s : State) (i : Iss) (load : Bool) (l ea : Nat) (x : Xl) : Aside f s (way i load l ea x s) :=
  ((aside_keep f s i.rg ea x).trans (aside_claimCp f _ i.t i.core x)).trans (aside_chargeAccess f _ _ _ _ _ _ _)

/-! ## Loads and stores -/

theorem aside_readAt (f : Focus) (s : State) (w : Who) (x : Xl) (n : Nat) (q : Safe.quiet s) : Aside f s (s.readAt w x n).2 := by
  unfold State.readAt
  simp only [noteRead_quiet s _ _ q, ite_self]
  split
  · show Aside f s (if x.kind = 0 ∧ x.coh = 0 then s.leaseRead w.core (x.key / 128) else s)
    split
    · exact aside_leaseRead f s _ _
    · exact Aside.refl f s
  · split
    · exact aside_l1Put f s _
    · exact aside_l1Put f s _

theorem aside_storeAt (f : Focus) (s : State) (w : Who) (x : Xl) (n v : Nat) (q : Safe.quiet s) (ht : w.t = f.team) (hg : w.g = f.grp)
    (hl : f.lanes.getLsbD w.lane = true) : Aside f s (s.storeAt w x n v) := by
  unfold State.storeAt
  split
  · have a := aside_l1Write f s w.core x.key n v
    exact (a.trans (aside_countOut f _ w ht hg hl)).trans (aside_inFlight f _ _ _)
  · split
    · exact aside_l1Put f s _
    · split
      · have a := aside_l1Write f s w.core x.key n v
        exact (a.trans (aside_tsm f _ w _ ht hg hl)).trans (aside_inFlight f _ _ _)
      · have a := aside_leaseWrite f s w.core (x.key / 128)
        exact (a.trans (aside_writeAt f _ x.key n v (a.quiet q))).trans (aside_inFlight f _ _ _)

/-! ## The end of an issue -/

/-- An issue whose effect only accesses memory goes on, and keeps all that `Safe.Accesses` says. -/
theorem accesses_of (i : Instr) (body : Iss → State → Res) (f : Focus) (s s' : State) (h : Safe.Issues i f s)
    (hb : body (Safe.iss i f s) (Safe.popped i f s) = .done s') (a : Aside f s s') :
    ∃ t, issue (opOf i) body s = .next t ∧ Safe.Accesses f s t ∧ Safe.MovesOn f (opOf i).sm s t ∧ t.mem = s'.mem ∧ t.stores = s'.stores ∧
      t.cache = s'.cache ∧ t.ras = s'.ras ∧ (Safe.grp f t).out = (Safe.grp f s').out ∧ (Safe.grp f t).srcnt = (Safe.grp f s').srcnt ∧ (Safe.grp f t).amax = (Safe.grp f s').amax := by
  have hx : (Safe.grp f s').tx = (Safe.grp f s).tx := by have := congrArg Group.tx a.regs; exact this
  obtain ⟨t, ht, m⟩ := moved_of i body f s s' h hb fun e => hx ▸ e
  have m1 := m.ended.rest
  obtain ⟨hmem, hstores, hcache, hfns, hras, hpart, hext, hout⟩ : t.mem = s'.mem ∧ t.stores = s'.stores ∧ t.cache = s'.cache ∧ t.fns = s'.fns ∧
      t.ras = s'.ras ∧ t.part = s'.part ∧ t.ext = s'.ext ∧ t.outbox = s'.outbox := by
    rw [← m1]; exact ⟨rfl, rfl, rfl, rfl, rfl, rfl, rfl, rfl⟩
  have hth : ∀ l, Safe.samePlace ((Safe.grp f t).th l) ((Safe.grp f s').th l) = (Safe.grp f s').th l := fun l => by
    rw [m.threads l]; split <;> rfl
  have hrun : ∀ l, ((Safe.grp f s').th l).pt = ((Safe.grp f s).th l).pt ∧ ((Safe.grp f s').th l).run = ((Safe.grp f s).th l).run := fun l => by
    have := a.threads l
    exact ⟨by have := congrArg Thread.pt this; exact this, by have := congrArg Thread.run this; exact this⟩
  refine ⟨t, ht, ?_, ?_, hmem, hstores, hcache, hras, ?_, ?_, ?_⟩
  · exact {
      rest := by
        have := congrArg (fun x : State => ({ x with mem := s.mem, teams := s.teams, clk := s.clk, cache := s.cache, fns := s.fns, ras := s.ras, part := s.part, stores := s.stores, ext := s.ext, outbox := s.outbox } : State)) m1
        exact this.trans a.rest
      clk := by rw [m.ended.clk, a.clk]
      ext := by rw [hext]; exact a.ext
      outbox := by rw [hout]; exact a.outbox
      cache := by rw [hcache]; exact a.cache
      fns := fun n => by
        have : t.fn n = s'.fn n := by unfold State.fn; rw [hfns]
        rw [this]; exact a.fns n
      ras := by rw [hras]; exact a.ras
      part := by rw [hpart]; exact a.part
      others := fun n hn => (m.ended.others n hn).trans (a.others n hn)
      team := by
        have := congrArg (fun x : Team => { x with groups := (s.team f.team).groups }) m.ended.team
        exact this.trans a.team
      groups := fun n hn => (m.ended.groups n hn).trans (a.groups n hn)
      regs := by
        have h1 := congrArg (fun x : Group => Safe.sameOut x (Safe.grp f s)) m.ended.group
        have h2 := congrArg (fun x : Group => ({ x with pace := (Safe.grp f s).pace, youngUntil := (Safe.grp f s).youngUntil } : Group)) a.regs
        exact h1.trans h2
      threads := fun l => by
        have h1 := congrArg (fun x : Thread => ({ Safe.samePlace x ((Safe.grp f s).th l) with tsm := ((Safe.grp f s).th l).tsm, osat := ((Safe.grp f s).th l).osat, acq := ((Safe.grp f s).th l).acq } : Thread)) (hth l)
        have h2 := congrArg (fun x : Thread => Safe.samePlace x ((Safe.grp f s).th l)) (a.threads l)
        exact h1.trans h2
      still := fun l hl => by
        rw [m.threads l, if_neg (by simp [hl]), a.still l hl] }
  · intro l hl hpt hr
    rw [m.threads l, if_pos ⟨hl, (hrun l).1.trans hpt, (hrun l).2.trans hr⟩]
    exact ⟨rfl, (hrun l).2.trans hr, rfl⟩
  · have := congrArg Group.out m.ended.group; exact this
  · have := congrArg Group.srcnt m.ended.group; exact this
  · have := congrArg Group.amax m.ended.group; exact this

/-! ## Lanes that load -/

/-- Translation and checks look at translations, functions, partitions, tables and memory, not at the teams. -/
theorem check_popped (i : Instr) (f : Focus) (s : State) (rg : Regime) (core : Nat) (acc : Acc) (tx : Bool) (va : Nat) (bar : Xl → Bool)
    (pick : Nat → Nat → Nat) (served : Xl → Bool) :
    (Safe.popped i f s).check rg core acc tx va bar pick served = s.check rg core acc tx va bar pick served := by
  unfold Safe.popped
  split <;> rfl

/-- Nor does what the core's own copy serves, or what a drain keeps waiting. -/
theorem servedBy_popped (i : Instr) (f : Focus) (s : State) (core lane : Nat) (load : Bool) :
    (Safe.popped i f s).servedBy core lane load = s.servedBy core lane load := by
  unfold Safe.popped
  split <;> rfl

theorem drainDue_popped (i : Instr) (f : Focus) (s : State) (w : Who) (x : Xl) : (Safe.popped i f s).drainDue w x = s.drainDue w x := by
  unfold Safe.popped
  split <;> rfl

/-- Popping ports leaves every transaction. -/
theorem popped_regs (i : Instr) (f : Focus) (s : State) (t g : Nat) : ((Safe.popped i f s).grp t g).tx = (s.grp t g).tx := by
  unfold Safe.popped
  split
  · by_cases ht : t = f.team
    · subst ht
      by_cases hg : g = f.grp
      · subst hg
        rw [State.grp_updGrp]
        have := congrArg Group.tx (popAll_rest (s.grp f.team f.grp) f.lanes (opOf i).rd []); exact this
      · rw [State.grp_updGrp_other _ _ _ _ _ hg]
    · unfold State.grp; rw [State.team_updGrp_other _ _ _ _ _ ht]
  · rfl

theorem firstTrap_nil : firstTrap [] = none := rfl

/-- Lanes whose accesses all pass. -/
theorem checkLanes_ok (s : State) (i : Iss) (acc : Acc) (bar : Xl → Bool) (lanes : List Nat) (ea : Nat → Nat) (x : Nat → Xl)
    (h : ∀ l ∈ lanes, s.check i.rg i.core acc (i.txl.getLsbD l) (ea l) bar keepAct (s.servedBy i.core l (acc = .load)) = .ok (x l))
    (hd : ∀ l ∈ lanes, s.drainDue (i.who l) (x l) = false) :
    s.checkLanes i acc bar lanes ea = .ok (lanes.map fun l => (l, x l)) := by
  have e1 : (lanes.map fun l => (l, s.check i.rg i.core acc (i.txl.getLsbD l) (ea l) bar keepAct (s.servedBy i.core l (acc = .load)))) =
      lanes.map fun l => (l, Except.ok (x l)) := List.map_congr_left fun l hl => by rw [h l hl]
  unfold State.checkLanes
  simp only [e1]
  have e2 : ∀ F : Nat × Except XErr Xl → Option XErr, (∀ l, F (l, .ok (x l)) = none) → (lanes.map fun l => (l, (Except.ok (x l) : Except XErr Xl))).filterMap F = [] := by
    intro F hF
    rw [List.filterMap_eq_nil_iff]; intro a ha; obtain ⟨l, _, rfl⟩ := List.mem_map.mp ha; exact hF l
  have e3 : ∀ F : Nat × Except XErr Xl → Option (Nat × Xl), (∀ l, F (l, .ok (x l)) = some (l, x l)) →
      (lanes.map fun l => (l, (Except.ok (x l) : Except XErr Xl))).filterMap F = lanes.map fun l => (l, x l) := by
    intro F hF
    rw [List.filterMap_map, ← List.filterMap_eq_map]
    congr 1; funext l; exact hF l
  rw [e2 _ fun _ => rfl, e3 _ fun _ => rfl]
  have e4 : ((lanes.map fun l => (l, x l)).any fun y => s.drainDue (i.who y.1) y.2) = false := by
    rw [List.any_eq_false]; intro a ha; obtain ⟨l, hl, rfl⟩ := List.mem_map.mp ha; rw [hd l hl]; exact Bool.false_ne_true
  simp only [firstTrap_nil, List.isEmpty_nil, Bool.not_true, Bool.false_eq_true, if_false, e4]

theorem eachLane_none (i : Iss) (load : Bool) (xs : List (Nat × Xl)) (ea : Nat → Nat) (F : Nat → Xl → State → State) (s : State) (h : i.txl = 0) :
    eachLane i load xs ea F s = xs.foldl (fun s e => F e.1 e.2 (way i load e.1 (ea e.1) e.2 s)) s := by
  unfold eachLane way
  simp [h]

/-- In a quiet state an issue has no lanes in a transaction. -/
theorem txl_quiet (i : Instr) (f : Focus) (s : State) (q : Safe.quiet s) : (Safe.iss i f s).txl = 0 := by
  show (match ((s.team f.team).grp f.grp).tx with | some x => x.parts &&& f.lanes | none => 0) = _
  have : ((s.team f.team).grp f.grp).tx = none := quiet_tx s q f.team f.grp
  rw [this]

theorem loadLane_quiet (s : State) (w : Who) (x : Xl) (n : Nat) (q : Safe.quiet s) :
    s.loadLane w x n = (some (s.readAt w x n).1, (s.readAt w x n).2) := by
  unfold State.loadLane Group.txOf
  rw [quiet_tx s q]

theorem storeLane_quiet (s : State) (w : Who) (x : Xl) (n v : Nat) (q : Safe.quiet s) : s.storeLane w x n v = s.storeAt w x n v := by
  unfold State.storeLane Group.txOf
  rw [quiet_tx s q]

theorem misaligned_none (lanes : List Nat) (n : Nat) (ea : Nat → Nat) (h : ∀ l ∈ lanes, ea l % n = 0) : misaligned lanes n ea = false := by
  unfold misaligned
  rw [List.any_eq_false]
  intro l hl; simp [h l hl]


/-! ## Values on their way to registers -/

/-- Memory, stores, teams, poison and L1 copies stay. -/
def Stays (s t : State) : Prop :=
  t.mem = s.mem ∧ t.stores = s.stores ∧ t.teams = s.teams ∧ t.ras.poison = s.ras.poison ∧ t.cache.l1 = s.cache.l1

theorem Stays.trans {s t u : State} (a : Stays s t) (b : Stays t u) : Stays s u :=
  ⟨b.1.trans a.1, b.2.1.trans a.2.1, b.2.2.1.trans a.2.2.1, b.2.2.2.1.trans a.2.2.2.1, b.2.2.2.2.trans a.2.2.2.2⟩

theorem way_mem (s : State) (i : Iss) (load : Bool) (l ea : Nat) (x : Xl) : Stays s (way i load l ea x s) := by
  have k : ∀ s : State, Stays s (s.keep i.rg ea x) := fun s => by
    unfold State.keep; split <;> exact ⟨rfl, rfl, rfl, rfl, rfl⟩
  have c : ∀ s : State, Stays s (s.claimCp i.t i.core x) := fun s => by
    unfold State.claimCp; split <;> exact ⟨rfl, rfl, rfl, rfl, rfl⟩
  have g : ∀ s : State, Stays s (s.charge i.rg x 64) := fun s => by
    unfold State.charge; simp only
    split
    · exact ⟨rfl, rfl, rfl, rfl, rfl⟩
    · split <;> split <;> exact ⟨rfl, rfl, rfl, rfl, rfl⟩
  have o : ∀ (s : State) (g : Tags), Stays s (s.sendOut x g) := fun s g => by
    unfold State.sendOut; split <;> exact ⟨rfl, rfl, rfl, rfl, rfl⟩
  have a : ∀ s : State, Stays s (s.chargeAccess i.t i.rg i.core l load x) := fun s => by
    unfold State.chargeAccess
    split
    · exact ⟨rfl, rfl, rfl, rfl, rfl⟩
    · exact (g s).trans ((show Stays _ (State.askChan _ _ _ _ _ _) from ⟨rfl, rfl, rfl, rfl, rfl⟩).trans (o _ _))
  exact ((k s).trans (c _)).trans (a _)

theorem comes_grow (f : Focus) (s t : State) (file : RegFile) (l r : Nat) (v : Word) (bad : Bool) (h : Safe.Comes f s file l r v bad)
    (e : ∀ q ∈ (Safe.grp f s).out, q ∈ (Safe.grp f t).out) : Safe.Comes f t file l r v bad := by
  obtain ⟨q, hq, hh⟩ := h
  exact ⟨q, e q hq, hh⟩

theorem comes_mark (f : Focus) (s : State) (i : Iss) (m : Nat) (x : Xl) (src : Option (Nat × Bool)) (ht : i.t = f.team) (hg : i.g = f.grp)
    (file : RegFile) (l r : Nat) (v : Word) (bad : Bool) (h : Safe.Comes f s file l r v bad) : Safe.Comes f (s.markRemote i m x src) file l r v bad := by
  unfold State.markRemote
  split
  · exact h
  · obtain ⟨q, hq, h1, h2, h3, h4, h5, h6, h7, h8, h9⟩ := h
    rw [ht, hg]
    simp only
    generalize (if (s.free (2 ^ 22 + m)).getLsbD 0 then src.map fun e => (x.key, e.1, e.2) else none) = again
    refine ⟨if q.lane = m ∧ q.seq = s.clk.seq then { q with remote := if x.kind = 2 then 1 else 2, since := s.clk.time, src := again } else q, ?_, ?_⟩
    · have : Safe.grp f (s.updGrp f.team f.grp fun g => { g with out := g.out.map fun (p : Pend) =>
        if p.lane = m ∧ p.seq = s.clk.seq then { p with remote := if x.kind = 2 then 1 else 2, since := s.clk.time, src := again } else p }) = _ := State.grp_updGrp _ _ _ _
      rw [this]
      exact List.mem_map.mpr ⟨q, hq, rfl⟩
    · split <;> exact ⟨h1, h2, h3, h4, h5, h6, h7, h8, h9⟩

theorem returned_out (f : Focus) (s : State) (i : Iss) (lanes : LaneMask) (file : RegFile) (l r a : Nat) (v : Word) (bad : Bool) (ht : i.t = f.team) (hg : i.g = f.grp) :
    (Safe.grp f (s.returned i lanes file l r a v bad)).out = (Safe.grp f s).out ++ [{ id := s.clk.ids, seq := s.clk.seq, kind := .ld, lane := l, lanes := lanes, file := file, reg := r, val := v, poison := bad, addr := a, mem := true }] := by
  unfold State.returned State.pendFor
  rw [ht, hg]
  have : ∀ (u : State) (h : Group → Group), Safe.grp f (u.updGrp f.team f.grp h) = h (Safe.grp f u) := fun u h => State.grp_updGrp u f.team f.grp h
  simp only [this]
  rfl

theorem returned_comes (f : Focus) (s : State) (i : Iss) (lanes : LaneMask) (file : RegFile) (l r a : Nat) (v : Word) (bad : Bool) (ht : i.t = f.team) (hg : i.g = f.grp)
    (hl : lanes.getLsbD l = true) : Safe.Comes f (s.returned i lanes file l r a v bad) file l r v bad := by
  refine ⟨{ id := s.clk.ids, seq := s.clk.seq, kind := .ld, lane := l, lanes := lanes, file := file, reg := r, val := v, poison := bad, addr := a, mem := true },
    ?_, rfl, rfl, rfl, rfl, rfl, rfl, rfl, rfl, hl⟩
  rw [returned_out _ _ _ _ _ _ _ _ _ _ ht hg]
  exact List.mem_append_right _ List.mem_cons_self

theorem readAt_keeps (s : State) (w : Who) (x : Xl) (n : Nat) (q : Safe.quiet s) : (s.readAt w x n).2.mem = s.mem ∧ (s.readAt w x n).2.stores = s.stores ∧
    (s.readAt w x n).2.teams = s.teams ∧ (s.readAt w x n).2.ras = s.ras ∧ (s.readAt w x n).2.lh = s.lh ∧ (s.readAt w x n).2.part = s.part := by
  unfold State.readAt
  simp only [noteRead_quiet s _ _ q, ite_self]
  split
  · show (if x.kind = 0 ∧ x.coh = 0 then s.leaseRead w.core (x.key / 128) else s).mem = s.mem ∧ _
    split <;> exact ⟨rfl, rfl, rfl, rfl, rfl, rfl⟩
  · split <;> exact ⟨rfl, rfl, rfl, rfl, rfl, rfl⟩

/-- What poison looks at. -/
theorem isPoison_eq (s t : State) (k n : Nat) (h1 : t.ras.poison = s.ras.poison) (h2 : t.lh.keyless = []) (h3 : t.ras.lost = []) (h4 : s.lh.keyless = []) (h5 : s.ras.lost = []) :
    t.isPoison k n = s.isPoison k n := by
  unfold State.isPoison State.badLine State.keylessLine State.lostLine
  simp [h1, h2, h3, h4, h5]

/-- What lanes that load leave. -/
theorem loads_fold (f : Focus) (i : Iss) (n : Nat) (sg : Bool) (ea : Nat → Nat) (x : Nat → Xl) (lanesOut : LaneMask) (file : RegFile) (reg : Nat) (ad : Nat → Nat) (ext : Nat → Word)
    (ht : i.t = f.team) (hg : i.g = f.grp) (L : List Nat) (hout : ∀ l ∈ L, lanesOut.getLsbD l = true) (s0 s : State) (q0 : Safe.quiet s0) (q : Safe.quiet s)
    (hm : s.mem = s0.mem) (hp : s.ras.poison = s0.ras.poison) :
    let F (s : State) (l : Nat) : State :=
      let r := (way i true l (ea l) (x l) s).readAt (i.who l) (x l) n
      (r.2.returned i lanesOut file l reg (ad l) (ext r.1.1) r.1.2).markRemote i l (x l) (some (n, sg))
    Aside f s (L.foldl F s) ∧ (L.foldl F s).mem = s.mem ∧ (L.foldl F s).stores = s.stores ∧
      (Safe.grp f (L.foldl F s)).srcnt = (Safe.grp f s).srcnt ∧ (Safe.grp f (L.foldl F s)).amax = (Safe.grp f s).amax ∧
      (∀ fi l r v b, Safe.Comes f s fi l r v b → Safe.Comes f (L.foldl F s) fi l r v b) ∧
      ∀ l ∈ L, ∃ v bad, Safe.Comes f (L.foldl F s) file l reg (ext v) bad ∧
        ((x l).kind = 0 → (x l).coh = 0 → v = s0.rd (x l).key n ∧ bad = s0.isPoison (x l).key n) := by
  intro F
  induction L generalizing s with
  | nil => exact ⟨Aside.refl f s, rfl, rfl, rfl, rfl, fun _ _ _ _ _ h => h, fun l h => absurd h List.not_mem_nil⟩
  | cons l L ih =>
    let u := way i true l (ea l) (x l) s
    let r := u.readAt (i.who l) (x l) n
    let p := r.2.returned i lanesOut file l reg (ad l) (ext r.1.1) r.1.2
    have w := way_mem s i true l (ea l) (x l)
    have au : Aside f s u := aside_way f s i true l (ea l) (x l)
    have qu := au.quiet q
    have ar : Aside f u r.2 := aside_readAt f u (i.who l) (x l) n qu
    have rk := readAt_keeps u (i.who l) (x l) n qu
    have ap : Aside f r.2 p := aside_pendFor f r.2 lanesOut i _ ht hg
    have am : Aside f p (F s l) := aside_markRemote f p i l (x l) (some (n, sg)) ht hg
    have a : Aside f s (F s l) := ((au.trans ar).trans ap).trans am
    have hteams : r.2.teams = s.teams := rk.2.2.1.trans w.2.2.1
    have hgr : Safe.grp f r.2 = Safe.grp f s := by unfold Safe.grp State.grp State.team; rw [hteams]
    have hF : ∀ (P : State → Prop), P p → (∀ G : Group → Group, (∀ g, (G g).srcnt = g.srcnt ∧ (G g).amax = g.amax) → P (p.updGrp f.team f.grp G)) → P (F s l) := by
      intro P h1 h2
      show P (p.markRemote i l (x l) (some (n, sg)))
      unfold State.markRemote
      split
      · exact h1
      · rw [ht, hg]; exact h2 _ fun _ => ⟨rfl, rfl⟩
    have pm : p.mem = r.2.mem ∧ p.stores = r.2.stores ∧ p.ras = r.2.ras := ⟨rfl, rfl, rfl⟩
    have pg : (Safe.grp f p).srcnt = (Safe.grp f r.2).srcnt ∧ (Safe.grp f p).amax = (Safe.grp f r.2).amax := by
      show (Safe.grp f (r.2.pendFor lanesOut i _)).srcnt = _ ∧ (Safe.grp f (r.2.pendFor lanesOut i _)).amax = _
      unfold State.pendFor
      rw [ht, hg]
      have : ∀ (u : State) (h : Group → Group), Safe.grp f (u.updGrp f.team f.grp h) = h (Safe.grp f u) := fun u h => State.grp_updGrp u f.team f.grp h
      simp only [this]
      exact ⟨rfl, rfl⟩
    have m1 : (F s l).mem = s.mem := hF (fun z => z.mem = s.mem) (pm.1.trans (rk.1.trans w.1)) fun _ _ => pm.1.trans (rk.1.trans w.1)
    have st1 : (F s l).stores = s.stores := hF (fun z => z.stores = s.stores) (pm.2.1.trans (rk.2.1.trans w.2.1)) fun _ _ => pm.2.1.trans (rk.2.1.trans w.2.1)
    have po1 : (F s l).ras.poison = s.ras.poison := hF (fun z => z.ras.poison = s.ras.poison) (by rw [pm.2.2, rk.2.2.2.1]; exact w.2.2.2.1) fun _ _ => by
      show p.ras.poison = _; rw [pm.2.2, rk.2.2.2.1]; exact w.2.2.2.1
    have g1 : (Safe.grp f (F s l)).srcnt = (Safe.grp f s).srcnt ∧ (Safe.grp f (F s l)).amax = (Safe.grp f s).amax := by
      refine hF (fun z => (Safe.grp f z).srcnt = _ ∧ (Safe.grp f z).amax = _) ?_ fun G hG => ?_
      · rw [pg.1, pg.2, hgr]; exact ⟨rfl, rfl⟩
      · have : Safe.grp f (p.updGrp f.team f.grp G) = G (Safe.grp f p) := State.grp_updGrp _ _ _ _
        rw [this, (hG _).1, (hG _).2, pg.1, pg.2, hgr]; exact ⟨rfl, rfl⟩
    have c1 : ∀ fi k r' v b, Safe.Comes f s fi k r' v b → Safe.Comes f (F s l) fi k r' v b := fun fi k r' v b h => by
      apply comes_mark f p i l (x l) (some (n, sg)) ht hg
      refine comes_grow f s p _ _ _ _ _ h fun z hz => ?_
      show z ∈ (Safe.grp f (r.2.returned i lanesOut file l reg (ad l) (ext r.1.1) r.1.2)).out
      rw [returned_out f r.2 i lanesOut file l reg _ _ _ ht hg, hgr]
      exact List.mem_append_left _ hz
    have c2 : Safe.Comes f (F s l) file l reg (ext r.1.1) r.1.2 := comes_mark f p i l (x l) (some (n, sg)) ht hg _ _ _ _ _ (returned_comes f r.2 i lanesOut file l reg _ _ _ ht hg (hout l List.mem_cons_self))
    obtain ⟨b1, b2, b3, b4, b5, b6, b7⟩ := ih (fun k hk => hout k (List.mem_cons_of_mem _ hk)) (F s l) (a.quiet q) (m1.trans hm) (po1.trans hp)
    refine ⟨a.trans b1, b2.trans m1, b3.trans st1, b4.trans g1.1, b5.trans g1.2, fun fi k r' v b h => b6 _ _ _ _ _ (c1 _ _ _ _ _ h), fun k hk => ?_⟩
    rcases List.mem_cons.mp hk with rfl | hk
    · refine ⟨r.1.1, r.1.2, b6 _ _ _ _ _ c2, fun hk hc => ?_⟩
      have hd : (x k).direct (i.who k).core = true := by unfold Xl.direct; simp [hk, hc]
      have e : r.1 = (u.rd (x k).key n, u.isPoison (x k).key n) := by
        show (u.readAt (i.who k) (x k) n).1 = _
        unfold State.readAt
        simp only [hd, if_true, hk, hc, and_self, or_true]
      rw [e]
      refine ⟨?_, ?_⟩
      · show memRead u.mem _ _ = memRead s0.mem _ _
        rw [w.1, hm]
      · exact isPoison_eq s0 u _ _ (w.2.2.2.1.trans hp) qu.2.2.1 qu.2.2.2 q0.2.2.1 q0.2.2.2
    · exact b7 k hk

/-- Loads of lanes whose accesses are aligned and pass their checks: each lane in turn. -/
theorem loadLanes_ok (s : State) (i : Iss) (L : List Nat) (n : Nat) (sg : Bool) (ea : Nat → Nat) (x : Nat → Xl) (lanesOut : LaneMask) (file : RegFile) (reg : Nat)
    (ad : Nat → Nat) (ext : Nat → Word) (q : Safe.quiet s) (htxl : i.txl = 0) (mis : ∀ l ∈ L, ea l % n = 0)
    (chk : ∀ l ∈ L, s.check i.rg i.core .load false (ea l) (fun _ => false) keepAct (s.servedBy i.core l true) = .ok (x l))
    (dr : ∀ l ∈ L, s.drainDue (i.who l) (x l) = false) :
    loadLanes i L n sg ea (fun l r s => s.returned i lanesOut file l reg (ad l) (ext r.1) r.2) s = .done (L.foldl (fun s l =>
      let r := (way i true l (ea l) (x l) s).readAt (i.who l) (x l) n
      (r.2.returned i lanesOut file l reg (ad l) (ext r.1.1) r.1.2).markRemote i l (x l) (some (n, sg))) s) := by
  unfold loadLanes
  rw [if_neg (by rw [misaligned_none _ _ _ mis]; exact Bool.false_ne_true)]
  rw [checkLanes_ok _ _ _ _ _ _ x (fun l hl => by rw [htxl, show (0 : LaneMask).getLsbD l = false from BitVec.getLsbD_zero]; exact chk l hl) dr]
  simp only
  rw [eachLane_none _ _ _ _ _ _ htxl, List.foldl_map]
  clear mis chk dr
  congr 1
  let f : Focus := { team := i.t, grp := i.g, lanes := i.lanes }
  induction L generalizing s with
  | nil => rfl
  | cons l L ih =>
    rw [List.foldl_cons, List.foldl_cons]
    have au := aside_way f s i true l (ea l) (x l)
    have qu := au.quiet q
    have ar := (aside_readAt f _ (i.who l) (x l) n qu).quiet qu
    rw [loadLane_quiet _ _ _ _ qu]
    refine ih _ ?_
    exact (aside_markRemote f _ i l (x l) (some (n, sg)) rfl rfl).quiet ((aside_pendFor f _ lanesOut i _ rfl rfl).quiet ar)

/-- What popping ports leaves. -/
theorem popped_same (i : Instr) (f : Focus) (s : State) : (Safe.popped i f s).mem = s.mem ∧ (Safe.popped i f s).stores = s.stores ∧ (Safe.popped i f s).ras = s.ras ∧ 
  (Safe.grp f (Safe.popped i f s)).srcnt = (Safe.grp f s).srcnt ∧ (Safe.grp f (Safe.popped i f s)).amax = (Safe.grp f s).amax := by
  have hp : Safe.grp f (Safe.popped i f s) = popG i f (Safe.grp f s) := by
    unfold Safe.popped popG
    split
    · exact State.grp_updGrp s f.team f.grp _
    · rfl
  have h := popG_rest i f (Safe.grp f s) []
  refine ⟨?_, ?_, ?_, ?_, ?_⟩
  · unfold Safe.popped; split <;> rfl
  · unfold Safe.popped; split <;> rfl
  · unfold Safe.popped; split <;> rfl
  · rw [hp]; have := congrArg Group.srcnt h; exact this
  · rw [hp]; have := congrArg Group.amax h; exact this

/-! ## Lanes that store -/

theorem inFlight_stores (s : State) (w : Who) (e : InFlight) : (s.inFlight w e).stores =
    s.stores ++ [{ e with id := s.clk.ids, seq := s.clk.seq, team := w.t, grp := w.g, lane := w.lane, since := s.clk.time }] := rfl

/-- What one store of a lane does to memory and to the list of stores on their way. -/
theorem storeAt_spec (s : State) (w : Who) (x : Xl) (n v : Nat) (q : Safe.quiet s) :
    (s.storeAt w x n v).mem = (if Safe.performs w.core x then memWrite s.mem x.key n v else s.mem) ∧
    ∃ L, (s.storeAt w x n v).stores = s.stores ++ L ∧ (x.kind ≠ 0 ∨ x.coh = 1 → ∃ e ∈ L, e.team = w.t ∧ e.grp = w.g ∧ e.lane = w.lane ∧
      e.key = x.key ∧ e.size = n ∧ e.val = BitVec.ofNat 64 v ∧ e.performed = false ∧ e.remote = decide (x.kind ≠ 0)) := by
  have lw : ∀ (s : State), (s.l1Write w.core x.key n v).mem = s.mem ∧ (s.l1Write w.core x.key n v).stores = s.stores := fun s => by
    unfold State.l1Write; split <;> exact ⟨rfl, rfl⟩
  unfold State.storeAt
  by_cases hk : x.kind = 0
  · have hk' : ¬ x.kind ≠ 0 := fun h => h hk
    rw [if_neg hk']
    by_cases hc : x.coh = 2 ∧ (!x.direct w.core) = true
    · rw [if_pos hc]
      have : Safe.performs w.core x = false := by unfold Safe.performs; have := hc.2; simp at this; simp [hc.1, this]
      rw [this]
      exact ⟨rfl, [], (List.append_nil _).symm, fun h => by rcases h with h | h; exact absurd hk h; omega⟩
    · rw [if_neg hc]
      by_cases h1 : x.coh = 1
      · rw [if_pos h1]
        have : Safe.performs w.core x = false := by unfold Safe.performs; simp [h1]
        rw [this]
        refine ⟨(lw s).1, _, (inFlight_stores _ _ _).trans (congrArg (· ++ _) (lw s).2), fun _ => ⟨_, List.mem_cons_self, rfl, rfl, rfl, rfl, rfl, rfl, rfl, ?_⟩⟩
        simp [hk]
      · rw [if_neg h1]
        have : Safe.performs w.core x = true := by
          unfold Safe.performs
          by_cases h2 : x.coh = 2
          · have : x.direct w.core = true := by
              cases hd : x.direct w.core
              · exact absurd ⟨h2, by simp [hd]⟩ hc
              · rfl
            simp [hk, h2, this]
          · simp [hk, h1, h2]
        rw [this]
        have q1 := (aside_leaseWrite {} s w.core (x.key / 128)).quiet q
        obtain ⟨p, m, e, _⟩ := perform_quiet _ none x.key n v q1
        simp only
        rw [writeAt_quiet _ _ _ _ q1, e]
        exact ⟨rfl, [_], rfl, fun h => by rcases h with h | h; exact absurd hk h; exact absurd h h1⟩
  · rw [if_pos hk]
    have : Safe.performs w.core x = false := by unfold Safe.performs; simp [hk]
    rw [this]
    refine ⟨(lw s).1, _, (inFlight_stores _ _ _).trans (congrArg (· ++ _) (lw s).2), fun _ => ⟨_, List.mem_cons_self, rfl, rfl, rfl, rfl, rfl, rfl, rfl, ?_⟩⟩
    simp [hk]

theorem storeAt_out (f : Focus) (s : State) (w : Who) (x : Xl) (n v : Nat) (q : Safe.quiet s) (ht : w.t = f.team) (hg : w.g = f.grp) :
    (Safe.grp f (s.storeAt w x n v)).out = (Safe.grp f s).out ∧ (Safe.grp f (s.storeAt w x n v)).srcnt = (Safe.grp f s).srcnt ∧
    (Safe.grp f (s.storeAt w x n v)).amax = (Safe.grp f s).amax := by
  have up : ∀ (u : State) (l : Nat) (h : Thread → Thread), Safe.grp f (u.updGrp f.team f.grp fun g => g.updTh l h) = (Safe.grp f u).updTh l h := fun u l h => State.grp_updGrp u f.team f.grp _
  have lw : Safe.grp f (s.l1Write w.core x.key n v) = Safe.grp f s := by unfold State.l1Write; split <;> rfl
  unfold State.storeAt
  split
  · have e : Safe.grp f ((s.l1Write w.core x.key n v).countOut w) = (Safe.grp f (s.l1Write w.core x.key n v)).updTh w.lane fun th => { th with osat := th.osat + 1 } := by
      unfold State.countOut; rw [ht, hg]; exact up _ _ _
    have e2 : ∀ (u : State) (e : InFlight), Safe.grp f (u.inFlight w e) = Safe.grp f u := fun _ _ => rfl
    rw [e2, e, lw]; exact ⟨rfl, rfl, rfl⟩
  · split
    · exact ⟨rfl, rfl, rfl⟩
    · split
      · have e2 : ∀ (u : State) (e : InFlight), Safe.grp f (u.inFlight w e) = Safe.grp f u := fun _ _ => rfl
        simp only
        rw [e2, ht, hg, up, lw]; exact ⟨rfl, rfl, rfl⟩
      · have q1 := (aside_leaseWrite {} s w.core (x.key / 128)).quiet q
        obtain ⟨p, m, e, _⟩ := perform_quiet _ none x.key n v q1
        simp only
        rw [writeAt_quiet _ _ _ _ q1, e]; exact ⟨rfl, rfl, rfl⟩

/-- Stores of lanes in turn. -/
theorem stores_fold (f : Focus) (i : Iss) (n : Nat) (ea : Nat → Nat) (x : Nat → Xl) (v : Nat → Nat) (ht : i.t = f.team) (hg : i.g = f.grp)
    (L : List Nat) (hL : ∀ l ∈ L, f.lanes.getLsbD l = true) (s : State) (q : Safe.quiet s) :
    let F (s : State) (l : Nat) : State :=
      (way i false l (ea l) (x l) s).storeAt (i.who l) (x l) n (v l)
    Aside f s (L.foldl F s) ∧ (L.foldl F s).mem = L.foldl (fun m l => if Safe.performs i.core (x l) then memWrite m (x l).key n (v l) else m) s.mem ∧
      (∃ K, (L.foldl F s).stores = s.stores ++ K) ∧
      (Safe.grp f (L.foldl F s)).out = (Safe.grp f s).out ∧ (Safe.grp f (L.foldl F s)).srcnt = (Safe.grp f s).srcnt ∧ (Safe.grp f (L.foldl F s)).amax = (Safe.grp f s).amax ∧
      ∀ l ∈ L, (x l).kind ≠ 0 ∨ (x l).coh = 1 → ∃ e ∈ (L.foldl F s).stores, e.team = f.team ∧ e.grp = f.grp ∧ e.lane = l ∧ e.key = (x l).key ∧ e.size = n ∧
        e.val = BitVec.ofNat 64 (v l) ∧ e.performed = false ∧ e.remote = decide ((x l).kind ≠ 0) := by
  intro F
  induction L generalizing s with
  | nil => exact ⟨Aside.refl f s, rfl, ⟨[], (List.append_nil _).symm⟩, rfl, rfl, rfl, fun l h => absurd h List.not_mem_nil⟩
  | cons l L ih =>
    let u := way i false l (ea l) (x l) s
    have w := way_mem s i false l (ea l) (x l)
    have au : Aside f s u := aside_way f s i false l (ea l) (x l)
    have qu := au.quiet q
    have as : Aside f u (F s l) := aside_storeAt f u (i.who l) (x l) n (v l) qu ht hg (hL l List.mem_cons_self)
    have hgu : Safe.grp f u = Safe.grp f s := by unfold Safe.grp State.grp State.team; rw [w.2.2.1]
    obtain ⟨sm, K1, sk, se⟩ := storeAt_spec u (i.who l) (x l) n (v l) qu
    obtain ⟨o1, o2, o3⟩ := storeAt_out f u (i.who l) (x l) n (v l) qu ht hg
    obtain ⟨b1, b2, ⟨K2, b3⟩, b4, b5, b6, b7⟩ := ih (fun k hk => hL k (List.mem_cons_of_mem _ hk)) (F s l) ((au.trans as).quiet q)
    have fm : (F s l).mem = if Safe.performs i.core (x l) then memWrite s.mem (x l).key n (v l) else s.mem := by
      have : (F s l).mem = _ := sm
      rw [this, w.1]; rfl
    have fs : (F s l).stores = s.stores ++ K1 := by
      have : (F s l).stores = _ := sk
      rw [this, w.2.1]
    refine ⟨(au.trans as).trans b1, ?_, ⟨K1 ++ K2, ?_⟩, b4.trans (o1.trans (by rw [hgu])), b5.trans (o2.trans (by rw [hgu])), b6.trans (o3.trans (by rw [hgu])), fun k hk hr => ?_⟩
    · rw [List.foldl_cons, b2, fm, List.foldl_cons]
    · rw [List.foldl_cons, b3, fs, List.append_assoc]
    · rcases List.mem_cons.mp hk with rfl | hk
      · obtain ⟨e, he, h1, h2, h3⟩ := se hr
        refine ⟨e, ?_, h1.trans ht, h2.trans hg, h3⟩
        rw [List.foldl_cons, b3, fs]
        exact List.mem_append_left _ (List.mem_append_right _ he)
      · exact b7 k hk hr

/-- Bytes that no store names read as before. -/
theorem foldl_memWrite_other (L : List Nat) (c : Nat → Bool) (key : Nat → Nat) (n : Nat) (v : Nat → Nat) (m : SMap Byte) (b : Nat)
    (h : ∀ l ∈ L, c l = true → ¬ (key l ≤ b ∧ b < key l + n)) :
    SMap.get 0 (L.foldl (fun m l => if c l then memWrite m (key l) n (v l) else m) m) b = SMap.get 0 m b := by
  induction L generalizing m with
  | nil => rfl
  | cons l L ih =>
    rw [List.foldl_cons, ih _ fun k hk => h k (List.mem_cons_of_mem _ hk)]
    split
    · rename_i hc
      exact memWrite_get_other _ _ _ _ _ (by have := h l List.mem_cons_self hc; omega)
    · rfl

/-- Stores of lanes whose accesses are aligned and pass their checks: each lane in turn. -/
theorem storeLanes_ok (s : State) (i : Iss) (L : List Nat) (al n : Nat) (ea : Nat → Nat) (x : Nat → Xl) (v : Nat → Nat) (pre : State → State)
    (hL : ∀ l ∈ L, i.lanes.getLsbD l = true) (q : Safe.quiet (pre s)) (htxl : i.txl = 0) (mis : ∀ l ∈ L, ea l % al = 0)
    (chk : ∀ l ∈ L, s.check i.rg i.core .store false (ea l) (fun _ => false) keepAct (s.servedBy i.core l false) = .ok (x l))
    (dr : ∀ l ∈ L, s.drainDue (i.who l) (x l) = false) :
    storeLanes i L al n ea v pre s = .done (L.foldl (fun s l =>
      (way i false l (ea l) (x l) s).storeAt (i.who l) (x l) n (v l % 2 ^ (8 * n))) (pre s)) := by
  unfold storeLanes
  rw [if_neg (by rw [misaligned_none _ _ _ mis]; exact Bool.false_ne_true)]
  rw [checkLanes_ok _ _ _ _ _ _ x (fun l hl => by rw [htxl, show (0 : LaneMask).getLsbD l = false from BitVec.getLsbD_zero]; exact chk l hl) dr]
  simp only
  rw [eachLane_none _ _ _ _ _ _ htxl, List.foldl_map]
  clear mis chk dr
  congr 1
  let f : Focus := { team := i.t, grp := i.g, lanes := i.lanes }
  generalize pre s = s at *
  induction L generalizing s with
  | nil => rfl
  | cons l L ih =>
    rw [List.foldl_cons, List.foldl_cons]
    have qu := (aside_way f s i false l (ea l) (x l)).quiet q
    rw [storeLane_quiet _ _ _ _ _ qu]
    exact ih (fun k hk => hL k (List.mem_cons_of_mem _ hk)) _ ((aside_storeAt f _ (i.who l) (x l) n _ qu rfl rfl (hL l List.mem_cons_self)).quiet qu)

end Sys2Proof.Machine
end

