-- ==== Sys2Proof/Laws/Elements.lean ====
section
/-! SUPPORT. Laws of packed elements (R154): an element of a word made of elements, and the bounds of element operations. -/

namespace Sys2Proof.Machine

open Sys2Proof

/-- The width of W is one of the four. -/
theorem ewOf_cases (w : BitVec 2) : ewOf w = 64 ∨ ewOf w = 32 ∨ ewOf w = 16 ∨ ewOf w = 8 := by
  have h : w.toNat < 4 := w.isLt
  unfold ewOf
  have : w.toNat = 0 ∨ w.toNat = 1 ∨ w.toNat = 2 ∨ w.toNat = 3 := by omega
  rcases this with h | h | h | h <;> simp [h]

/-- Elements laid side by side, the first lowest. -/
def packed (w : Nat) (f : Nat → Nat) : Nat → Nat
  | 0 => 0
  | n + 1 => f 0 % 2 ^ w + 2 ^ w * packed w (fun e => f (e + 1)) n

theorem packed_eq (w n : Nat) (f : Nat → Nat) :
    (List.range n).foldr (fun e acc => f e % 2 ^ w + 2 ^ w * acc) 0 = packed w f n := by
  induction n generalizing f with
  | zero => rfl
  | succ n ih =>
    rw [List.range_succ_eq_map, List.foldr_cons, List.foldr_map, packed, ← ih]

theorem packed_lt (w n : Nat) (f : Nat → Nat) : packed w f n < 2 ^ (w * n) := by
  induction n generalizing f with
  | zero => simp [packed]
  | succ n ih =>
    rw [packed, Nat.mul_succ, Nat.add_comm (w * n) w, Nat.pow_add]
    have h1 : f 0 % 2 ^ w < 2 ^ w := Nat.mod_lt _ (Nat.two_pow_pos w)
    have h2 := ih (fun e => f (e + 1))
    calc f 0 % 2 ^ w + 2 ^ w * packed w (fun e => f (e + 1)) n
        < 2 ^ w + 2 ^ w * packed w (fun e => f (e + 1)) n := by omega
      _ = 2 ^ w * (packed w (fun e => f (e + 1)) n + 1) := by rw [Nat.mul_add, Nat.mul_one, Nat.add_comm]
      _ ≤ 2 ^ w * 2 ^ (w * n) := Nat.mul_le_mul_left _ h2

theorem packed_el (w n e : Nat) (f : Nat → Nat) (h : e < n) : packed w f n / 2 ^ (w * e) % 2 ^ w = f e % 2 ^ w := by
  induction n generalizing f e with
  | zero => omega
  | succ n ih =>
    have hp := Nat.two_pow_pos w
    cases e with
    | zero =>
      rw [packed, Nat.mul_zero, Nat.pow_zero, Nat.div_one, Nat.add_mul_mod_self_left, Nat.mod_mod]
    | succ e =>
      have h1 : f 0 % 2 ^ w < 2 ^ w := Nat.mod_lt _ hp
      rw [Nat.mul_succ, Nat.add_comm (w * e) w, Nat.pow_add, ← Nat.div_div_eq_div_mul, packed, Nat.add_mul_div_left _ _ hp,
        Nat.div_eq_of_lt h1, Nat.zero_add]
      exact ih e (fun e => f (e + 1)) (by omega)

/-- Element `e` of a word made of elements. -/
theorem el_ofEls (w e : Nat) (f : Nat → Nat) (hw : w * (64 / w) ≤ 64) (h : e < 64 / w) : el (ofEls w f) w e = f e % 2 ^ w := by
  unfold el ofEls
  have hlt : packed w f (64 / w) < 2 ^ 64 := Nat.lt_of_lt_of_le (packed_lt w _ f) (Nat.pow_le_pow_right (by omega) hw)
  rw [packed_eq, BitVec.toNat_ofNat, Nat.mod_eq_of_lt hlt]
  exact packed_el w _ e f h

theorem width_fits (w : Nat) : w * (64 / w) ≤ 64 := Nat.mul_div_le 64 w

theorem el_lt (v : Word) (w e : Nat) : el v w e < 2 ^ w := Nat.mod_lt _ (Nat.two_pow_pos w)

theorem wrap_lt (w : Nat) (v : Int) : wrap w v < 2 ^ w := by
  unfold wrap
  have h : (0 : Int) < (2 : Int) ^ w := Int.pow_pos (by decide)
  have h1 := Int.emod_nonneg v (Int.ne_of_gt h)
  have h2 := Int.emod_lt_of_pos v h
  have : ((v % (2 : Int) ^ w).toNat : Int) < ((2 ^ w : Nat) : Int) := by
    rw [Int.toNat_of_nonneg h1]; simpa using h2
  exact Int.ofNat_lt.mp this

theorem wrap_mod (w : Nat) (v : Int) : wrap w v % 2 ^ w = wrap w v := Nat.mod_eq_of_lt (wrap_lt w v)

theorem fit_mod (w : Nat) (sat sg : Bool) (v : Int) : fit w sat sg v % 2 ^ w = fit w sat sg v := wrap_mod w _

/-- An element of a two-source result. -/
theorem el_map2 (w e : Nat) (sg : Bool) (f : Int → Int → Nat) (a b : Word) (h : e < 64 / w) :
    el (map2 w sg f a b) w e = f (val sg w (el a w e)) (val sg w (el b w e)) % 2 ^ w := el_ofEls w e _ (width_fits w) h

/-- An element of a three-source result. -/
theorem el_map3 (w e : Nat) (sg : Bool) (f : Int → Int → Int → Nat) (d a b : Word) (h : e < 64 / w) :
    el (map3 w sg f d a b) w e = f (val sg w (el d w e)) (val sg w (el a w e)) (val sg w (el b w e)) % 2 ^ w :=
  el_ofEls w e _ (width_fits w) h

theorem shlEl_mod (w a c : Nat) : shlEl w a c % 2 ^ w = shlEl w a c := by
  unfold shlEl
  split
  · simp
  · exact Nat.mod_mod _ _

theorem shrEl_mod (w : Nat) (sg : Bool) (v : Word) (e c : Nat) : shrEl w sg (el v w e) c % 2 ^ w = shrEl w sg (el v w e) c := by
  unfold shrEl
  split
  · exact wrap_mod w _
  · split
    · simp
    · exact Nat.mod_eq_of_lt (Nat.lt_of_le_of_lt (Nat.div_le_self _ _) (el_lt v w e))

theorem rotEl_mod (w a c : Nat) : rotEl w a c % 2 ^ w = rotEl w a c := Nat.mod_mod _ _

/-- The range of an element's value. -/
theorem val_bounds (sg : Bool) (w v : Nat) (h : v < 2 ^ w) (hw : 1 ≤ w) :
    (if sg then -(2 : Int) ^ (w - 1) else 0) ≤ val sg w v ∧ val sg w v < (if sg then (2 : Int) ^ (w - 1) else (2 : Int) ^ w) := by
  obtain ⟨k, rfl⟩ : ∃ k, w = k + 1 := ⟨w - 1, by omega⟩
  have e : (2 : Int) ^ (k + 1) = 2 ^ k + 2 ^ k := by rw [Int.pow_succ]; omega
  have en : 2 ^ (k + 1) = 2 ^ k + 2 ^ k := by rw [Nat.pow_succ]; omega
  have c : ((2 ^ k : Nat) : Int) = (2 : Int) ^ k := by simp
  unfold val
  rw [Nat.add_sub_cancel, e]
  rw [en] at h
  cases sg
  · simp
    omega
  · simp only [if_true, true_and]
    split <;> omega

/-- An integer within the range of an element is the value of its bits. -/
theorem val_wrap (sg : Bool) (w : Nat) (x : Int) (hw : 1 ≤ w)
    (h : (if sg then -(2 : Int) ^ (w - 1) else 0) ≤ x ∧ x < (if sg then (2 : Int) ^ (w - 1) else (2 : Int) ^ w)) :
    val sg w (wrap w x) = x := by
  obtain ⟨k, rfl⟩ : ∃ k, w = k + 1 := ⟨w - 1, by omega⟩
  have e : (2 : Int) ^ (k + 1) = 2 ^ k + 2 ^ k := by rw [Int.pow_succ]; omega
  have c : ((2 ^ k : Nat) : Int) = (2 : Int) ^ k := by simp
  have hp : (0 : Int) < 2 ^ k := Int.pow_pos (by decide)
  rw [Nat.add_sub_cancel] at h
  unfold val wrap
  rw [Nat.add_sub_cancel]
  by_cases hx : 0 ≤ x
  · have hlt : x < (2 : Int) ^ (k + 1) := by cases sg <;> simp at h <;> omega
    rw [Int.emod_eq_of_lt hx hlt]
    have : ((x.toNat : Nat) : Int) = x := Int.toNat_of_nonneg hx
    cases sg
    · simp
      omega
    · simp only [if_true] at h
      have : ¬ (2 ^ k ≤ x.toNat) := by omega
      simp [this]
      omega
  · have hm : x % (2 : Int) ^ (k + 1) = x + 2 ^ (k + 1) := by
      rw [← Int.add_mul_emod_self_left x (2 ^ (k + 1)) 1, Int.mul_one]
      cases sg
      · simp at h; omega
      · simp only [if_true] at h
        exact Int.emod_eq_of_lt (by omega) (by omega)
    cases sg
    · simp at h; omega
    · simp only [if_true] at h
      rw [hm]
      have : (((x + (2 : Int) ^ (k + 1)).toNat : Nat) : Int) = x + 2 ^ (k + 1) := Int.toNat_of_nonneg (by omega)
      have h2 : 2 ^ k ≤ (x + (2 : Int) ^ (k + 1)).toNat := by omega
      simp only [h2, and_self, if_true, this]
      omega

/-- The value of a bit pattern, taken modulo 2^w, is the pattern. -/
theorem wrap_val (sg : Bool) (w v : Nat) (h : v < 2 ^ w) : wrap w (val sg w v) = v := by
  have c : ((2 ^ w : Nat) : Int) = (2 : Int) ^ w := by simp
  unfold wrap val
  split
  · rw [← Int.add_mul_emod_self_left _ (2 ^ w) 1, Int.mul_one, Int.sub_add_cancel]
    rw [Int.emod_eq_of_lt (by omega) (by omega)]
    rfl
  · rw [Int.emod_eq_of_lt (by omega) (by omega)]
    rfl

end Sys2Proof.Machine
end

