-- ==== Sys2Proof/Laws/Bits.lean ====
section
/-! SUPPORT. The bits of shifted, rotated and counted elements (R160, R163). -/

namespace Sys2Proof.Machine

open Sys2Proof

theorem shl_bit (w a c j : Nat) (hj : j < w) : (shlEl w a c).testBit j = (decide (c ≤ j) && a.testBit (j - c)) := by
  unfold shlEl
  split
  · have : ¬ c ≤ j := by omega
    simp [this]
  · rw [Nat.testBit_mod_two_pow, Nat.testBit_mul_two_pow]
    simp [hj]

theorem shrn_bit (w a c j : Nat) (ha : a < 2 ^ w) : (shrEl w false a c).testBit j = a.testBit (j + c) := by
  unfold shrEl
  simp only [Bool.false_eq_true, if_false]
  split
  · rw [Nat.zero_testBit]
    symm
    exact Nat.testBit_lt_two_pow (Nat.lt_of_lt_of_le ha (Nat.pow_le_pow_right (by omega) (by omega)))
  · rw [Nat.testBit_div_two_pow, Nat.add_comm]

theorem shrs_bit (w a c j : Nat) (ha : a < 2 ^ w) (hj : j < w) : (shrEl w true a c).testBit j = a.testBit (min (j + c) (w - 1)) := by
  unfold shrEl
  simp only [if_true]
  generalize hk : min c (w - 1) = k
  have hkw : k ≤ w - 1 := by omega
  have e1 : min (j + c) (w - 1) = min (j + k) (w - 1) := by omega
  rw [e1]
  clear e1 hk
  obtain ⟨m, rfl⟩ : ∃ m, w = m + 1 := ⟨w - 1, by omega⟩
  rw [Nat.add_sub_cancel] at *
  have en : 2 ^ (m + 1) = 2 ^ m + 2 ^ m := by rw [Nat.pow_succ]; omega
  unfold val
  rw [Nat.add_sub_cancel]
  by_cases hs : 2 ^ m ≤ a
  · -- negative
    simp only [hs, and_self, if_true]
    have hsplit : (2 : Int) ^ (m + 1) = 2 ^ k * 2 ^ (m + 1 - k) := by rw [← Int.pow_add]; congr 1; omega
    have hd : ((a : Int) - 2 ^ (m + 1)) / 2 ^ k = ((a / 2 ^ k : Nat) : Int) - 2 ^ (m + 1 - k) := by
      have hp : (2 : Int) ^ k ≠ 0 := Int.ne_of_gt (Int.pow_pos (by decide))
      rw [hsplit, Int.sub_eq_add_neg, ← Int.mul_neg, Int.add_mul_ediv_left _ _ hp]
      simp [Int.sub_eq_add_neg]
    have hq : a / 2 ^ k < 2 ^ (m + 1 - k) := by
      rw [Nat.div_lt_iff_lt_mul (Nat.two_pow_pos k), ← Nat.pow_add]
      have : m + 1 - k + k = m + 1 := by omega
      rw [this]; exact ha
    rw [hd]
    have hle : 2 ^ (m + 1 - k) ≤ 2 ^ (m + 1) := Nat.pow_le_pow_right (by omega) (by omega)
    have hw : wrap (m + 1) (((a / 2 ^ k : Nat) : Int) - 2 ^ (m + 1 - k)) = 2 ^ (m + 1 - k) * (2 ^ k - 1) + a / 2 ^ k := by
      generalize a / 2 ^ k = q at hq ⊢
      unfold wrap
      rw [← Int.add_mul_emod_self_left _ (2 ^ (m + 1)) 1, Int.mul_one]
      have c1 : ((2 ^ (m + 1 - k) : Nat) : Int) = (2 : Int) ^ (m + 1 - k) := by simp
      have c2 : ((2 ^ (m + 1) : Nat) : Int) = (2 : Int) ^ (m + 1) := by simp
      have e3 : 2 ^ (m + 1 - k) * (2 ^ k - 1) = 2 ^ (m + 1) - 2 ^ (m + 1 - k) := by
        rw [Nat.mul_sub, ← Nat.pow_add, Nat.mul_one]
        congr 2; omega
      rw [Int.emod_eq_of_lt (by omega) (by omega), e3]
      omega
    rw [hw, Nat.testBit_two_pow_mul_add _ hq]
    split
    · rename_i hlt
      rw [Nat.testBit_div_two_pow]
      congr 1; omega
    · rename_i hlt
      have hmin : min (j + k) m = m := by omega
      rw [hmin, Nat.testBit_two_pow_sub_one]
      have : j - (m + 1 - k) < k := by omega
      simp only [this, decide_true]
      symm
      rw [Nat.testBit_eq_decide_div_mod_eq]
      have : a / 2 ^ m = 1 := Nat.div_eq_of_lt_le (by omega) (by omega)
      simp [this]
  · simp only [hs, and_false, if_false]
    have hd : (a : Int) / 2 ^ k = ((a / 2 ^ k : Nat) : Int) := by simp
    have hq : a / 2 ^ k < 2 ^ (m + 1) := Nat.lt_of_le_of_lt (Nat.div_le_self _ _) ha
    have c2 : ((2 ^ (m + 1) : Nat) : Int) = (2 : Int) ^ (m + 1) := by simp
    rw [hd]
    have hw : wrap (m + 1) ((a / 2 ^ k : Nat) : Int) = a / 2 ^ k := by
      generalize a / 2 ^ k = q at hq ⊢
      unfold wrap
      rw [Int.emod_eq_of_lt (by omega) (by omega), Int.toNat_natCast]
    rw [hw, Nat.testBit_div_two_pow]
    by_cases h : j + k ≤ m
    · congr 1; omega
    · have hmin : min (j + k) m = m := by omega
      rw [hmin, Nat.testBit_lt_two_pow (Nat.lt_of_lt_of_le (by omega : a < 2 ^ m) (Nat.pow_le_pow_right (by omega) (by omega)))]
      exact (Nat.testBit_lt_two_pow (by omega)).symm

theorem rot_bit (w a c j : Nat) (ha : a < 2 ^ w) (hj : j < w) : (rotEl w a c).testBit ((j + c) % w) = a.testBit j := by
  unfold rotEl
  generalize hk : c % w = k
  have hkw : k < w := hk ▸ Nat.mod_lt _ (by omega)
  have hm : (j + c) % w = if j + k < w then j + k else j + k - w := by
    rw [Nat.add_mod, hk, Nat.mod_eq_of_lt hj]
    split
    · exact Nat.mod_eq_of_lt ‹_›
    · rw [Nat.mod_eq_sub_mod (by omega)]
      exact Nat.mod_eq_of_lt (by omega)
  have hlt : a / 2 ^ (w - k) < 2 ^ k := by
    rw [Nat.div_lt_iff_lt_mul (Nat.two_pow_pos _), ← Nat.pow_add]
    have : k + (w - k) = w := by omega
    rw [this]; exact ha
  show ((a * 2 ^ k + a / 2 ^ (w - k)) % 2 ^ w).testBit _ = _
  rw [Nat.testBit_mod_two_pow, Nat.mul_comm, Nat.testBit_two_pow_mul_add _ hlt, hm]
  split
  · have : ¬ j + k < k := by omega
    simp only [this, if_false]
    rw [Nat.add_sub_cancel]
    simp [*]
  · have h1 : j + k - w < k := by omega
    simp only [h1, if_true]
    rw [Nat.testBit_div_two_pow]
    have : j + k - w + (w - k) = j := by omega
    rw [this]
    have : j + k - w < w := by omega
    simp [this]

theorem ones_len (x n : Nat) : onesOf x n = ((List.range n).filter fun j => x.testBit j).length := by
  induction n generalizing x with
  | zero => rfl
  | succ n ih =>
    rw [onesOf, ih, List.range_succ_eq_map, List.filter_cons, List.filter_map, Nat.testBit_zero]
    have : ((fun j => x.testBit j) ∘ Nat.succ) = fun j => (x / 2).testBit j := by
      funext j
      show x.testBit (j + 1) = _
      rw [Nat.testBit_succ]
    rw [this]
    by_cases h : x % 2 = 1
    · simp [h]; omega
    · have : x % 2 = 0 := by omega
      simp [this]

theorem ones_more (x w n : Nat) (hx : x < 2 ^ w) (hn : w ≤ n) :
    ((List.range n).filter fun j => x.testBit j).length = ((List.range w).filter fun j => x.testBit j).length := by
  obtain ⟨k, rfl⟩ : ∃ k, n = w + k := ⟨n - w, by omega⟩
  rw [List.range_add, List.filter_append, List.length_append]
  have : (List.filter (fun j => x.testBit j) (List.map (fun x => w + x) (List.range k))) = [] := by
    rw [List.filter_eq_nil_iff]
    intro j hj
    simp only [List.mem_map, List.mem_range] at hj
    obtain ⟨a, _, rfl⟩ := hj
    rw [Nat.testBit_lt_two_pow (Nat.lt_of_lt_of_le hx (Nat.pow_le_pow_right (by omega) (by omega)))]
    simp
  rw [this]; rfl

theorem width_spec (x n : Nat) : widthOf x n ≤ n ∧ (x < 2 ^ n → x < 2 ^ widthOf x n) ∧ (1 ≤ widthOf x n → 2 ^ (widthOf x n - 1) ≤ x) := by
  induction n with
  | zero => simp [widthOf]
  | succ n ih =>
    unfold widthOf
    split
    · refine ⟨by omega, id, fun _ => by simpa using ‹2 ^ n ≤ x›⟩
    · refine ⟨by omega, fun _ => ih.2.1 (by omega), ih.2.2⟩

theorem width_le (x w n : Nat) (hx : x < 2 ^ w) : widthOf x n ≤ w := by
  have h := (width_spec x n).2.2
  by_cases h0 : 1 ≤ widthOf x n
  · have := h h0
    have : 2 ^ (widthOf x n - 1) < 2 ^ w := Nat.lt_of_le_of_lt this hx
    have := (Nat.pow_lt_pow_iff_right (by omega : 1 < 2)).mp this
    omega
  · omega

end Sys2Proof.Machine
end

