-- ==== Sys2Proof/Laws/Results.lean ====
section
/-! SUPPORT. Completion with a result, from the form of an instruction's meaning; the fields of operands. -/

namespace Sys2Proof.Machine

open Sys2Proof

theorem tx_lt (r : BitVec 6) : (tx r).2 < 64 := r.isLt

theorem tb_lt (u : Bool) (r : BitVec 6) : (tb u r).2 < 64 := by
  unfold tb; split <;> exact r.isLt

theorem tw_lt (r : BitVec 5) : (tw r).2 < 64 := Nat.lt_of_lt_of_le r.isLt (by decide)

theorem rd_a (a : BitVec 6) : ∀ o ∈ [tx a], o.2 < 64 := by
  intro o ho
  simp only [List.mem_singleton] at ho
  subst ho
  exact tx_lt _

theorem rd_ab (u : Bool) (a b : BitVec 6) : ∀ o ∈ [tx a, tb u b], o.2 < 64 := by
  intro o ho
  simp only [List.mem_cons, List.not_mem_nil, or_false] at ho
  rcases ho with rfl | rfl
  · exact tx_lt _
  · exact tb_lt _ _

theorem rd_abd (u : Bool) (a b d : BitVec 6) : ∀ o ∈ [tx a, tb u b, tx d], o.2 < 64 := by
  intro o ho
  simp only [List.mem_cons, List.not_mem_nil, or_false] at ho
  rcases ho with rfl | rfl | rfl
  · exact tx_lt _
  · exact tb_lt _ _
  · exact tx_lt _

/-- A meaning of the shape of `toX` completes with its value. -/
theorem completesX_of (m : State → Host.Outcome State Fault Refusal) (i : Instr) (sm : Bool) (d : BitVec 6) (V : Iss → Nat → Word)
    (P : Focus → State → Nat → Word → Prop) (he : exec i = m) (hm : ∀ s, m s = toX (opOf i) d.toNat V s) (hsm : (opOf i).sm = sm) (hd : d.toNat ∈ (opOf i).wx)
    (hr : ∀ o ∈ (opOf i).rd, o.2 < 64) 
    (hP : ∀ f s l, P f s l (V (Safe.iss i f s) l)) : Safe.CompletesX i sm d.toNat P := by
  intro f s h
  obtain ⟨t, ht, hw⟩ := toX_spec i d.toNat V f s h hd d.isLt hr
  rw [hsm] at hw
  exact ⟨_, t, ((congrFun he s).trans (hm s)).trans ht, hw, hP f s⟩

/-- A meaning of the shape of `toP` completes with its predicate. -/
theorem completesP_of (m : State → Host.Outcome State Fault Refusal) (i : Instr) (sm : Bool) (k : Nat) (V : Iss → Nat → Bool)
    (P : Focus → State → Nat → Bool → Prop) (he : exec i = m) (hm : ∀ s, m s = toP (opOf i) k V s) (hsm : (opOf i).sm = sm)
    (hP : ∀ f s l, P f s l (V (Safe.iss i f s) l)) : Safe.CompletesP i sm k P := by
  intro f s h
  obtain ⟨t, ht, hw⟩ := toP_spec i k V f s h
  rw [hsm] at hw
  exact ⟨_, t, ((congrFun he s).trans (hm s)).trans ht, hw, hP f s⟩

/-- A meaning of the shape of `toW` completes with its value. -/
theorem completesW_of (m : State → Host.Outcome State Fault Refusal) (i : Instr) (sm : Bool) (d : Nat) (V : Iss → Word)
    (P : Focus → State → Word → Prop) (he : exec i = m) (hm : ∀ s, m s = toW (opOf i) d V s) (hsm : (opOf i).sm = sm)
    (hP : ∀ f s, P f s (V (Safe.iss i f s))) : Safe.CompletesW i sm d P := by
  intro f s h
  obtain ⟨t, ht, hw⟩ := toW_spec i d V f s h
  rw [hsm] at hw
  exact ⟨_, t, ((congrFun he s).trans (hm s)).trans ht, hw, hP f s⟩

end Sys2Proof.Machine
end

