-- ==== Sys2Proof/Laws/Floats.lean ====
section
/-! SUPPORT. A value in a thread register together with SRCNT and SY.AMAX (R145, R199), and results outstanding in every lane of an
issue (R99, R206). -/

namespace Sys2Proof.Machine

open Sys2Proof

/-- A field that values in registers, results on their way and ports do not reach is as before `takeX`. -/
theorem takeX_keep {β : Type} (π : Group → β) (f : Focus) (st : SMap Stream) (d : Nat) (v : Nat → Word) (g : Group)
    (h : ∀ (u : Group) a b p, π { u with x := a, out := b, ports := p } = π u := by intros; rfl) : π (takeX f st d v g) = π g :=
  (h _ [] [] []).symm.trans ((takeX_rest f st d v g [] [] []).symm ▸ h g [] [] [])

/-- A field other than the ports is as before the pops. -/
theorem popG_keep {β : Type} (π : Group → β) (i : Instr) (f : Focus) (g : Group)
    (h : ∀ (u : Group) p, π { u with ports := p } = π u := by intros; rfl) : π (popG i f g) = π g :=
  (h _ []).symm.trans ((popG_rest i f g []).symm ▸ h g [])

theorem takeX_fields (f : Focus) (st : SMap Stream) (d : Nat) (v : Nat → Word) (g : Group) :
    (takeX f st d v g).srcnt = g.srcnt ∧ (takeX f st d v g).amax = g.amax ∧ (takeX f st d v g).thr = g.thr ∧
      (takeX f st d v g).tx = g.tx ∧ (takeX f st d v g).w = g.w ∧ (takeX f st d v g).p = g.p :=
  ⟨takeX_keep Group.srcnt f st d v g, takeX_keep Group.amax f st d v g, takeX_keep Group.thr f st d v g,
    takeX_keep (·.tx) f st d v g, takeX_keep (fun u => u.w) f st d v g, takeX_keep (fun u => u.p) f st d v g⟩

theorem popG_fields (i : Instr) (f : Focus) (g : Group) :
    (popG i f g).srcnt = g.srcnt ∧ (popG i f g).amax = g.amax ∧ (popG i f g).thr = g.thr ∧ (popG i f g).tx = g.tx ∧
      (popG i f g).w = g.w ∧ (popG i f g).p = g.p ∧ (popG i f g).x = g.x := by
  refine ⟨?_, ?_, ?_, ?_, ?_, ?_, ?_⟩
  all_goals exact popG_keep _ i f g

/-- A value in a thread-register field, and then new values of SRCNT and SY.AMAX. -/
theorem toA_spec (i : Instr) (d : Nat) (v : Nat → Word) (sc : BitVec 32 → BitVec 32) (am : SMap Word → SMap Word) (body : Iss → State → Res)
    (f : Focus) (s : State) (h : Safe.Issues i f s) (hd : d ∈ (opOf i).wx) (h64 : d < 64) (hr : ∀ o ∈ (opOf i).rd, o.2 < 64)
    (hb : body (Safe.iss i f s) (Safe.popped i f s) = .done ((Safe.popped i f s).updGrp f.team f.grp fun g =>
      { takeX f ((Safe.popped i f s).team f.team).streams d v g with srcnt := sc g.srcnt, amax := am g.amax })) :
    ∃ t, issue (opOf i) body s = .next t ∧ Safe.Takes f d v s t ∧ (Safe.grp f t).srcnt = sc (Safe.grp f s).srcnt ∧
      (Safe.grp f t).amax = am (Safe.grp f s).amax ∧ Safe.OnlyGroup f s t ∧
      Safe.Frame f (fun l r => f.lanes.getLsbD l = true ∧ r = d) (fun _ => False) (fun _ _ => False) s t ∧
      Safe.GoesOn f (opOf i).sm s t := by
  let W : Group → Group := fun g => { takeX f (s.team f.team).streams d v g with srcnt := sc g.srcnt, amax := am g.amax }
  rw [popped_streams] at hb
  obtain ⟨t, ht, sp⟩ := done_spec i body f s W h hb (fun g => (takeX_fields f _ d v g).2.2.1) (fun g => (takeX_fields f _ d v g).2.2.2.1)
  have pg := popG_fields i f (Safe.grp f s)
  have tk := takeX_fields f (s.team f.team).streams d v (popG i f (Safe.grp f s))
  have hx : ∀ l r, r < 64 → (Safe.grp f t).xr l r = if f.lanes.getLsbD l = true ∧ r = d ∧ d < 60 then v l else (Safe.grp f s).xr l r := by
    intro l r hr
    have e : (Safe.grp f t).x = (takeX f (s.team f.team).streams d v (popG i f (Safe.grp f s))).x := by
      have := congrArg Group.x sp.group
      exact this
    rw [Group.xr_of_x _ _ l r e, takeX_xr _ _ _ _ _ _ _ hr, Group.xr_of_x _ _ l r pg.2.2.2.2.2.2]
  have hrest : Safe.sameRegs (Safe.grp f t) (Safe.grp f s) = Safe.grp f s := by
    have a := congrArg (fun x : Group => Safe.sameRegs x (Safe.grp f s)) sp.group
    have b := congrArg (fun x : Group => Safe.sameRegs { x with srcnt := 0, amax := [] } (Safe.grp f s))
      (takeX_rest f (s.team f.team).streams d v (popG i f (Safe.grp f s)) [] [] [])
    have c := congrArg (fun x : Group => Safe.sameRegs x (Safe.grp f s)) (popG_rest i f (Safe.grp f s) [])
    exact a.trans (b.trans c)
  refine ⟨t, ht, ⟨fun h60 l hl => ?_, fun h60 h64' l hl => ?_⟩, ?_, ?_, sp.only, ?_, sp.next⟩
  · rw [hx _ _ (by omega)]; simp [hl, h60]
  · have e : (Safe.grp f t).ports = (takeX f (s.team f.team).streams d v (popG i f (Safe.grp f s))).ports := by
      have := congrArg Group.ports sp.group
      exact this
    have : (Safe.grp f t).port l (d - 60) = (takeX f (s.team f.team).streams d v (popG i f (Safe.grp f s))).port l (d - 60) := by
      unfold Group.port; rw [e]
    rw [this, takeX_port _ _ _ _ _ _ h60 h64', popG_port i f _ l _ (by omega) hr (dest_not_source i f s h d hd h60 hr)]
    simp [hl]
  · have e : (Safe.grp f t).srcnt = sc (popG i f (Safe.grp f s)).srcnt := by
      have := congrArg Group.srcnt sp.group
      exact this
    rw [e, pg.1]
  · have e : (Safe.grp f t).amax = am (popG i f (Safe.grp f s)).amax := by
      have := congrArg Group.amax sp.group
      exact this
    rw [e, pg.2.1]
  · exact {
      x := fun l r hr hn => by
        rw [hx _ _ hr]
        have : ¬ (f.lanes.getLsbD l = true ∧ r = d ∧ d < 60) := fun ⟨a, b, _⟩ => hn ⟨a, b⟩
        simp [this]
      w := fun r _ => by
        have e : (Safe.grp f t).w = (takeX f (s.team f.team).streams d v (popG i f (Safe.grp f s))).w := by
          have := congrArg Group.w sp.group
          exact this
        exact Group.wr_of_w _ _ r (e.trans (tk.2.2.2.2.1.trans pg.2.2.2.2.1))
      p := fun k l _ => by
        have e : (Safe.grp f t).p = (takeX f (s.team f.team).streams d v (popG i f (Safe.grp f s))).p := by
          have := congrArg Group.p sp.group
          exact this
        exact Group.pr_of_p _ _ k l (e.trans (tk.2.2.2.2.2.trans pg.2.2.2.2.2.1))
      rest := hrest
      threads := sp.threads
      still := sp.still }

/-- The group after a setD, an srBump and an update of SY.AMAX. -/
theorem setD_updGrp (i : Instr) (f : Focus) (s0 s : State) (d : Nat) (v : Nat → Word) (A : Group → Group) :
    (setD (Safe.iss i f s0) d v s).updGrp f.team f.grp A = s.updGrp f.team f.grp fun g => A (takeX f (s.team f.team).streams d v g) := by
  show (s.updGrp f.team f.grp (fun g => takeX f (s.team f.team).streams d v g)).updGrp f.team f.grp A = _
  rw [State.updGrp_updGrp]

/-- All that an instruction of the shape of `toF` can do. -/
theorem toF_spec (i : Instr) (d : Nat) (r : BitVec 2) (v : Iss → Nat → Word) (f : Focus) (s : State) (h : Safe.Issues i f s)
    (hd : d ∈ (opOf i).wx) (h64 : d < 64) (hr : ∀ o ∈ (opOf i).rd, o.2 < 64) :
    ∃ t, toF (opOf i) d r v s = .next t ∧ Safe.WritesF f (opOf i).sm d r (Safe.grp f s).amax (v (Safe.iss i f s)) s t := by
  obtain ⟨t, ht, h1, h2, h3, h4, h5, h6⟩ := toA_spec i d (v (Safe.iss i f s)) (fun n => if r = 3 then n + 1 else n) id
    (fun i s => .done (srBump i r (setD i d (v i) s))) f s h hd h64 hr (by
      show Res.done (srBump (Safe.iss i f s) r (setD (Safe.iss i f s) d (v (Safe.iss i f s)) (Safe.popped i f s))) = _
      unfold srBump
      have tf := takeX_fields f ((Safe.popped i f s).team f.team).streams d (v (Safe.iss i f s))
      split
      · rename_i h3
        show Res.done ((setD _ d _ (Safe.popped i f s)).updGrp f.team f.grp _) = _
        rw [setD_updGrp]
        congr 2
        funext g
        simp only [id]
        rw [(tf g).1]
        have := (tf g).2.1
        rw [← this]
      · rename_i h3
        show Res.done ((Safe.popped i f s).updGrp f.team f.grp fun g => takeX f _ d _ g) = _
        congr 2
        funext g
        simp only [id]
        have a := (tf g).1
        have b := (tf g).2.1
        rw [← a, ← b]
        rfl)
  exact ⟨t, ht, { takes := h1, srcnt := h2, amax := h3, only := h4, frame := h5, next := h6 }⟩

/-- A meaning of the shape of `toF` completes with its value. -/
theorem completesF_of (m : State → Host.Outcome State Fault Refusal) (i : Instr) (sm : Bool) (d : BitVec 6) (r : BitVec 2)
    (V : Iss → Nat → Word) (P : Focus → State → Nat → Word → Prop) (he : exec i = m) (hm : ∀ s, m s = toF (opOf i) d.toNat r V s)
    (hsm : (opOf i).sm = sm) (hd : d.toNat ∈ (opOf i).wx) (hr : ∀ o ∈ (opOf i).rd, o.2 < 64)
    (hP : ∀ f s l, P f s l (V (Safe.iss i f s) l)) : Safe.CompletesF i sm d.toNat r P := by
  intro f s h
  obtain ⟨t, ht, hw⟩ := toF_spec i d.toNat r V f s h hd d.isLt hr
  rw [hsm] at hw
  exact ⟨_, t, ((congrFun he s).trans (hm s)).trans ht, hw, hP f s⟩

/-! ## Results outstanding -/

/-- The next name of a result or access is another. -/
def withIds (n : Nat) (s : State) : State := { s with clk := { s.clk with ids := n } }

/-- What every issue does whose effect changes the group, leaving its threads and its transaction, and takes names. -/
theorem done_ids_spec (i : Instr) (body : Iss → State → Res) (f : Focus) (s S : State) (W : Group → Group) (n : Nat)
    (h : Safe.Issues i f s) (hb : body (Safe.iss i f s) (Safe.popped i f s) = .done S)
    (hS : ∀ A, S.updGrp f.team f.grp A = withIds n ((Safe.popped i f s).updGrp f.team f.grp fun g => A (W g)))
    (hn : s.clk.ids ≤ n) (hthr : ∀ g, (W g).thr = g.thr) (htx : ∀ g, (W g).tx = g.tx) :
    ∃ t, issue (opOf i) body s = .next t ∧ DoneSpec f (opOf i).sm (fun g => W (popG i f g)) s t := by
  obtain ⟨t, ht, sp⟩ := done_spec i (fun _ s => .done (s.updGrp f.team f.grp W)) f s W h rfl hthr htx
  rw [issue_of i _ f s h] at ht
  have e : t = finish (Safe.iss i f s) (opOf i).sm s (.done ((Safe.popped i f s).updGrp f.team f.grp W)) := by
    injection ht with ht
    exact ht.symm
  have h0 := hS fun g => g
  have hg : S.grp f.team f.grp = ((Safe.popped i f s).updGrp f.team f.grp W).grp f.team f.grp := by
    have := congrArg (fun x : State => x.grp f.team f.grp) h0
    exact (State.grp_updGrp S f.team f.grp fun g => g).symm.trans this
  have hc : S.clk.cycle = ((Safe.popped i f s).updGrp f.team f.grp W).clk.cycle := by
    have := congrArg (fun x : State => x.clk.cycle) h0
    exact this
  refine ⟨withIds n t, ?_, ?_⟩
  · rw [issue_of i _ f s h, hb, e]
    congr 1
    show ((S.updGrp f.team f.grp fun g => (g.advance (f.lanes &&& ~~~ (if (S.grp f.team f.grp).tx.isNone = true then (Safe.iss i f s).txl else 0)) (Safe.iss i f s).pt (opOf i).sm).yields (Safe.iss i f s).pt S.clk.cycle).issued f.team f.grp (opOf i).sm) = _
    rw [hg, hc]
    show ((S.updGrp f.team f.grp _).issued f.team f.grp (opOf i).sm) = withIds n
      ((((Safe.popped i f s).updGrp f.team f.grp W).updGrp f.team f.grp fun g => (g.advance (f.lanes &&& ~~~ (if (((Safe.popped i f s).updGrp f.team f.grp W).grp f.team f.grp).tx.isNone = true then (Safe.iss i f s).txl else 0)) (Safe.iss i f s).pt (opOf i).sm).yields (Safe.iss i f s).pt ((Safe.popped i f s).updGrp f.team f.grp W).clk.cycle).issued f.team f.grp (opOf i).sm)
    rw [hS, State.updGrp_updGrp]
    rfl
  · exact {
      only := {
        rest := sp.only.rest
        clk := by
          refine ⟨?_, hn⟩
          have := sp.only.clk.1
          show ({ t.clk with ids := n } : Clk) = { s.clk with seq := s.clk.seq + 1, ids := n }
          rw [this]
        others := sp.only.others
        team := sp.only.team
        groups := sp.only.groups }
      next := sp.next
      threads := sp.threads
      still := sp.still
      group := sp.group }

end Sys2Proof.Machine
end

