-- ==== Sys2Proof/Laws/Outstanding.lean ====
section
/-! SUPPORT. Results outstanding in every lane of an issue, in a register or in an outbound stream (R99, R105, R206). -/

namespace Sys2Proof.Machine

open Sys2Proof

/-- What a result outstanding for a thread register adds to the group. -/
def pendX (f : Focus) (k : PendKind) (seq d : Nat) (v : Nat → Word) (L : List Nat) (n : Nat) (g : Group) : Group :=
  { g with out := g.out ++ (L.zipIdx n).map fun e => { id := e.2, seq := seq, kind := k, lane := e.1, lanes := f.lanes, file := .x, reg := d, val := v e.1 } }

theorem pend_fold (i : Instr) (f : Focus) (s0 : State) (k : PendKind) (d : Nat) (hd : d < 60) (v : Nat → Word) (L : List Nat) (s : State) (A : Group → Group) :
    (L.foldl (fun s l => pendField (Safe.iss i f s0) k d l (v l) s) s).updGrp f.team f.grp A =
      withIds (s.clk.ids + L.length) (s.updGrp f.team f.grp fun g => A (pendX f k s.clk.seq d v L s.clk.ids g)) := by
  induction L generalizing s with
  | nil =>
    show s.updGrp f.team f.grp A = withIds (s.clk.ids + 0) (s.updGrp f.team f.grp fun g => A { g with out := g.out ++ [] })
    have : (fun g : Group => A ({ g with out := g.out ++ [] } : Group)) = A := by funext g; rw [List.append_nil]
    rw [this]
    rfl
  | cons l L ih =>
    rw [List.foldl_cons, ih]
    have e : pendField (Safe.iss i f s0) k d l (v l) s = withIds (s.clk.ids + 1) (s.updGrp f.team f.grp (pendX f k s.clk.seq d v [l] s.clk.ids)) := by
      unfold pendField
      rw [if_neg (by omega)]
      rfl
    rw [e]
    show withIds (s.clk.ids + 1 + L.length) (withIds (s.clk.ids + 1) ((s.updGrp f.team f.grp (pendX f k s.clk.seq d v [l] s.clk.ids)).updGrp f.team f.grp
      fun g => A (pendX f k s.clk.seq d v L (s.clk.ids + 1) g))) = _
    rw [State.updGrp_updGrp]
    have : s.clk.ids + 1 + L.length = s.clk.ids + (l :: L).length := by rw [List.length_cons]; omega
    rw [this]
    show withIds _ (s.updGrp f.team f.grp _) = withIds _ (s.updGrp f.team f.grp _)
    congr 2
    funext g
    congr 1
    unfold pendX
    simp only [List.zipIdx_cons, List.zipIdx_nil, List.map_cons, List.map_nil, List.append_assoc]
    rfl

theorem pend_eq (s : State) (i : Iss) (p : Pend) : s.pend i p = withIds (s.clk.ids + 1) (s.updGrp i.t i.g fun g =>
   { g with out := g.out ++ [{ p with id := s.clk.ids, seq := s.clk.seq, lanes := i.lanes }] }) := rfl

/-- What results outstanding for an outbound stream leave. -/
structure PortFold (f : Focus) (k : PendKind) (d : Nat) (v : Nat → Word) (L : List Nat) (s F : State) (H : Group → Group) (n : Nat) : Prop where
  upd : ∀ A, F.updGrp f.team f.grp A = withIds n (s.updGrp f.team f.grp fun g => A (H g))
  le : s.clk.ids ≤ n
  rest : ∀ g, ({ H g with ports := [], out := [] } : Group) = { g with ports := [], out := [] }
  sub : ∀ g, ∀ q ∈ g.out, q ∈ (H g).out
  off : ∀ g l, l ∉ L → (H g).port l (d - 60) = g.port l (d - 60)
  on : ∀ l ∈ L, let p := (s.grp f.team f.grp).port l (d - 60)
    if (SMap.get {} (s.team f.team).streams (d - 60) : Stream).count ≤ p.pushed then (H (s.grp f.team f.grp)).port l (d - 60) = p
    else (H (s.grp f.team f.grp)).port l (d - 60) = { p with push := p.push ++ [none], pushed := p.pushed + 1 } ∧
      ∃ q ∈ (H (s.grp f.team f.grp)).out, q.kind = k ∧ q.lane = l ∧ q.file = .port ∧ q.reg = d - 60 ∧ q.addr = p.pushed ∧ q.val = v l ∧ q.live = true

theorem port_fold (i : Instr) (f : Focus) (s0 : State) (k : PendKind) (d : Nat) (hd : 60 ≤ d) (h64 : d < 64) (v : Nat → Word) (L : List Nat) (nd : L.Nodup) (s : State) :
    ∃ H n, PortFold f k d v L s (L.foldl (fun s l => pendField (Safe.iss i f s0) k d l (v l) s) s) H n := by
  induction L generalizing s with
  | nil => exact ⟨id, s.clk.ids, ⟨fun A => rfl, Nat.le_refl _, fun _ => rfl, fun _ _ h => h, fun _ _ _ => rfl, fun l h => absurd h List.not_mem_nil⟩⟩
  | cons l L ih =>
    have nd' := List.nodup_cons.mp nd
    rw [List.foldl_cons]
    -- one lane
    by_cases hc : (SMap.get {} (s.team f.team).streams (d - 60) : Stream).count ≤ ((s.grp f.team f.grp).port l (d - 60)).pushed
    · have e : pendField (Safe.iss i f s0) k d l (v l) s = s := by
        unfold pendField
        rw [if_pos hd]
        exact if_pos hc
      rw [e]
      obtain ⟨H, n, p⟩ := ih nd'.2 s
      refine ⟨H, n, ⟨p.upd, p.le, p.rest, p.sub, fun g m hm => p.off g m fun h => hm (List.mem_cons_of_mem _ h), ?_⟩⟩
      intro m hm
      rcases List.mem_cons.mp hm with rfl | hm
      · dsimp only
        rw [if_pos hc]
        exact p.off _ _ nd'.1
      · exact p.on m hm
    · let K : Group → Group := fun g => { g.updPort l (d - 60) fun p => { p with push := p.push ++ [none], pushed := p.pushed + 1 } with
        out := g.out ++ [{ id := s.clk.ids, seq := s.clk.seq, kind := k, lane := l, lanes := f.lanes, file := .port, reg := d - 60, val := v l, addr := ((s.grp f.team f.grp).port l (d - 60)).pushed }] }
      have e : pendField (Safe.iss i f s0) k d l (v l) s = withIds (s.clk.ids + 1) (s.updGrp f.team f.grp K) := by
        unfold pendField
        rw [if_pos hd]
        refine (if_neg hc).trans ?_
        rw [pend_eq]
        show withIds (s.clk.ids + 1) ((s.updGrp f.team f.grp (fun g => g.updPort l (d - 60) fun p => { p with push := p.push ++ [none], pushed := p.pushed + 1 })).updGrp f.team f.grp
          fun g => { g with out := g.out ++ [{ id := s.clk.ids, seq := s.clk.seq, kind := k, lane := l, lanes := f.lanes, file := .port, reg := d - 60, val := v l, addr := ((s.grp f.team f.grp).port l (d - 60)).pushed }] }) = _
        rw [State.updGrp_updGrp]
        rfl
      rw [e]
      obtain ⟨H, n, p⟩ := ih nd'.2 (withIds (s.clk.ids + 1) (s.updGrp f.team f.grp K))
      have hg : (withIds (s.clk.ids + 1) (s.updGrp f.team f.grp K)).grp f.team f.grp = K (s.grp f.team f.grp) := State.grp_updGrp s f.team f.grp K
      have hst : ((withIds (s.clk.ids + 1) (s.updGrp f.team f.grp K)).team f.team).streams = (s.team f.team).streams := by
        show ((s.updGrp f.team f.grp K).team f.team).streams = _
        rw [State.team_updGrp]; rfl
      have kport : ∀ g m, (K g).port m (d - 60) = if m = l then { g.port l (d - 60) with push := (g.port l (d - 60)).push ++ [none], pushed := (g.port l (d - 60)).pushed + 1 } else g.port m (d - 60) := by
        intro g m
        show (g.updPort l (d - 60) fun p => { p with push := p.push ++ [none], pushed := p.pushed + 1 }).port m (d - 60) = _
        rw [port_updPort _ _ _ _ _ _ (by omega) (by omega)]
        by_cases h : m = l <;> simp [h]
      refine ⟨fun g => H (K g), n, ⟨?_, ?_, ?_, ?_, ?_, ?_⟩⟩
      · intro A
        rw [p.upd]
        show withIds n ((s.updGrp f.team f.grp K).updGrp f.team f.grp fun g => A (H g)) = _
        rw [State.updGrp_updGrp]
      · have := p.le
        exact Nat.le_trans (Nat.le_succ _) this
      · intro g
        rw [p.rest]
        rfl
      · intro g q hq
        exact p.sub _ _ (List.mem_append_left _ hq)
      · intro g m hm
        have h1 : m ∉ L := fun h => hm (List.mem_cons_of_mem _ h)
        have h2 : ¬ m = l := fun h => hm (h ▸ List.mem_cons_self)
        rw [p.off _ _ h1, kport, if_neg h2]
      · intro m hm
        rcases List.mem_cons.mp hm with rfl | hm
        · dsimp only
          rw [if_neg hc]
          refine ⟨?_, _, p.sub _ _ (List.mem_append_right _ List.mem_cons_self), rfl, rfl, rfl, rfl, rfl, rfl, rfl⟩
          rw [p.off _ _ nd'.1, kport, if_pos rfl]
        · have hne : ¬ m = l := fun h => nd'.1 (h ▸ hm)
          have := p.on m hm
          rw [hg, hst] at this
          dsimp only at this ⊢
          rw [kport, if_neg hne] at this
          exact this

/-- All that an SFU instruction can do. -/
theorem sfu_spec (i : Instr) (fn : Sfu) (d : Nat) (w : BitVec 2) (k acc : Bool) (f : Focus) (s : State) (h : Safe.Issues i f s) (h64 : d < 64)
   (hd : d ∈ (opOf i).wx) (hr : ∀ o ∈ (opOf i).rd, o.2 < 64) :
   ∃ t, toSfu (opOf i) fn d w k acc s = .next t ∧ Safe.Promises f (opOf i).sm .sf d (fun l => ofEls (ewOf w) fun e =>
      fn.result w k acc (Safe.iss i f s).fpm (el ((Safe.iss i f s).v 0 l) (ewOf w) e) (el ((Safe.iss i f s).v 1 l) (ewOf w) e)) s t := by
  let v : Nat → Word := fun l => ofEls (ewOf w) fun e =>
      fn.result w k acc (Safe.iss i f s).fpm (el ((Safe.iss i f s).v 0 l) (ewOf w) e) (el ((Safe.iss i f s).v 1 l) (ewOf w) e)
  have pg := popG_fields i f (Safe.grp f s)
  have hclk : (Safe.popped i f s).clk = s.clk := by unfold Safe.popped; split <;> rfl
  have hpg : (Safe.popped i f s).grp f.team f.grp = popG i f (Safe.grp f s) := by
    unfold Safe.popped popG
    split
    · exact State.grp_updGrp s f.team f.grp _
    · rfl
  have main : ∃ H n t, toSfu (opOf i) fn d w k acc s = .next t ∧ DoneSpec f (opOf i).sm (fun g => H (popG i f g)) s t ∧
      (∀ g, ({ H g with ports := [], out := [] } : Group) = { g with ports := [], out := [] }) ∧
      (d < 60 → H = pendX f .sf s.clk.seq d v (lanesOf f.lanes) s.clk.ids) ∧
      (60 ≤ d → PortFold f .sf d v (lanesOf f.lanes) (Safe.popped i f s) ((lanesOf f.lanes).foldl (fun s' l => pendField (Safe.iss i f s) .sf d l (v l) s') (Safe.popped i f s)) H n) := by
    by_cases h60 : d < 60
    · have hS := pend_fold i f s .sf d h60 v (lanesOf f.lanes) (Safe.popped i f s)
      rw [hclk] at hS
      obtain ⟨t, ht, sp⟩ := done_ids_spec i (f := f) (s := s) (S := _) (W := pendX f .sf s.clk.seq d v (lanesOf f.lanes) s.clk.ids) (n := _) (h := h) (body := fun i s => .done (overLanes i.lanes (fun l s =>
    pendField i .sf d l (ofEls (ewOf w) fun e =>
      fn.result w k acc i.fpm (el (i.v 0 l) (ewOf w) e) (el (i.v 1 l) (ewOf w) e)) s) s)) rfl hS (Nat.le_add_right _ _) (fun _ => rfl) (fun _ => rfl)
      exact ⟨_, 0, t, ht, sp, fun _ => rfl, fun _ => rfl, fun h => by omega⟩
    · obtain ⟨H, n, p⟩ := port_fold i f s .sf d (by omega) h64 v (lanesOf f.lanes) (nodup_lanesOf _) (Safe.popped i f s)
      have hle := p.le
      rw [hclk] at hle
      obtain ⟨t, ht, sp⟩ := done_ids_spec i (f := f) (s := s) (S := _) (W := H) (n := n) (h := h) (body := fun i s => .done (overLanes i.lanes (fun l s =>
    pendField i .sf d l (ofEls (ewOf w) fun e =>
      fn.result w k acc i.fpm (el (i.v 0 l) (ewOf w) e) (el (i.v 1 l) (ewOf w) e)) s) s)) rfl p.upd hle (fun g => by have := congrArg Group.thr (p.rest g); exact this) (fun g => by have := congrArg Group.tx (p.rest g); exact this)
      exact ⟨H, n, t, ht, sp, p.rest, fun h => by omega, fun _ => p⟩
  obtain ⟨H, n, t, ht, sp, hrest, h1, h2⟩ := main
  have hx : ({ (Safe.grp f t).bare with ports := [], out := [] } : Group) = { (Safe.grp f s).bare with ports := [], out := [] } := by
    rw [sp.group]
    have a := congrArg (fun g : Group => g.bare) (hrest (popG i f (Safe.grp f s)))
    have b := congrArg (fun g : Group => ({ g.bare with out := [] } : Group)) (popG_rest i f (Safe.grp f s) [])
    exact a.trans b
  refine ⟨t, ht, { reg := ?_, port := ?_, only := sp.only, frame := ?_, srcnt := ?_, amax := ?_, next := sp.next }⟩
  · intro h60
    have e : (Safe.grp f t).out = (H (popG i f (Safe.grp f s))).out := by have := congrArg Group.out sp.group; exact this
    have po : (popG i f (Safe.grp f s)).out = (Safe.grp f s).out := by have := congrArg Group.out (popG_rest i f (Safe.grp f s) []); exact this
    rw [e, h1 h60]
    show (popG i f (Safe.grp f s)).out ++ ((lanesOf f.lanes).zipIdx s.clk.ids).map _ = _
    rw [po]
    congr 1
    rw [List.zipIdx_eq_map_add, List.map_map]
    apply List.map_congr_left
    intro e _
    show ({ id := s.clk.ids + e.2, seq := _, kind := _, lane := _, lanes := _, file := _, reg := _, val := _ } : Pend) = _
    rfl
  · intro h60 h64 l hl
    have p := h2 h60
    have := p.on l ((mem_lanesOf _ _).mpr hl)
    rw [hpg, popped_streams] at this
    have pp : (popG i f (Safe.grp f s)).port l (d - 60) = (Safe.grp f s).port l (d - 60) := popG_port i f _ l _ (by omega) hr (dest_not_source i f s h d hd h60 hr)
    dsimp only at this ⊢
    rw [pp] at this
    have e : (Safe.grp f t).out = (H (popG i f (Safe.grp f s))).out := by have := congrArg Group.out sp.group; exact this
    have e2 : (Safe.grp f t).port l (d - 60) = (H (popG i f (Safe.grp f s))).port l (d - 60) := by
      have := congrArg Group.ports sp.group
      have : (Safe.grp f t).ports = (H (popG i f (Safe.grp f s))).ports := this
      unfold Group.port; rw [this]
    rw [e, e2]
    exact this
  · exact {
      x := fun l r _ _ => by have := congrArg Group.x hx; exact Group.xr_of_x _ _ l r this
      w := fun r _ => by have := congrArg Group.w hx; exact Group.wr_of_w _ _ r this
      p := fun k l _ => by have := congrArg Group.p hx; exact Group.pr_of_p _ _ k l this
      rest := by have := congrArg (fun g : Group => Safe.sameRegs g (Safe.grp f s)) hx; exact this
      threads := sp.threads
      still := sp.still }
  · have := congrArg Group.srcnt hx; exact this
  · have := congrArg Group.amax hx; exact this

end Sys2Proof.Machine
end

