-- ==== Sys2Proof/Tests/Slice0.lean ====
section
/-! SUPPORT. Tests on fixed values: the static checks refuse ill-formed terms, words written out from the manual's encodings
decode to what they stand for, and single steps on small states give the manual's results. -/

namespace Sys2Proof.Tests

open Sys2Proof Sys2Proof.Machine

-- One theorem after another: side by side they would hold one thread stack each.
set_option Elab.async false

/-! ## Static checks (R94, R103–R111, R128, R155, R201, R203) -/

/-- R94: N = 0, CLASS = 7, QN without OQ. -/
theorem test_wf_header :
    (Instr.clauseHeader false false 0 false false false false false false false false 0 0).wellFormed = false ∧
    (Instr.clauseHeader false false 0 false false false false false false false false 7 1).wellFormed = false ∧
    (Instr.clauseHeader false false 3 false false false false false false false false 0 1).wellFormed = false ∧
    (Instr.clauseHeader false false 3 true false false false false false false false 0 1).wellFormed = true := by decide

/-- R104: U = 1 with B in 32–63; the kind bit with W = 00. -/
theorem test_wf_uniform_operand :
    (Instr.add false 1 2 32 true 0 false false).wellFormed = false ∧
    (Instr.add false 1 2 31 true 0 false false).wellFormed = true ∧
    (Instr.fadd false 1 2 3 false 0 true 0).wellFormed = false := by decide

/-- R166, R178, R185: widths and ports that the description does not allow. -/
theorem test_wf_lane :
    (Instr.mulw false 1 2 3 false 0 false false).wellFormed = false ∧
    (Instr.xtow false 1 60 0 0 0 false).wellFormed = false ∧
    (Instr.lget false 1 2 0 4 2 0).wellFormed = false ∧
    (Instr.lred false 1 2 true 0 0).wellFormed = false ∧
    (Instr.sprm false 1 2 1 0 3).wellFormed = false ∧
    (Instr.pack false 1 2 false 1 3).wellFormed = false ∧
    (Instr.unpk false 1 2 false 1 2).wellFormed = false := by decide

/-- R197, R201, R203, R192: pairings of formats and grades. -/
theorem test_wf_float :
    (Instr.fcvt false 1 2 15 0 false 0 false 0).wellFormed = false ∧
    (Instr.fqst false 1 2 0 false 0 false 3 0).wellFormed = false ∧
    (Instr.rcp false 1 2 3 false false).wellFormed = false ∧
    (Instr.sin false 1 2 0 false true).wellFormed = false ∧
    (Instr.fsgn false 1 2 3 false 1 false 0).wellFormed = false := by decide

/-- R107, R108, R110, R128, R209, R215, R236: sizes, conditions, register ranges, numbers of system registers. -/
theorem test_wf_memory_system :
    (Instr.ld false 1 2 0 7).wellFormed = false ∧
    (Instr.red false 1 2 0 true 6).wellFormed = false ∧
    (Instr.fenceRel false 3).wellFormed = false ∧
    (Instr.br false 7 true 0).wellFormed = false ∧
    (Instr.push false 0 25 0 false).wellFormed = false ∧
    (Instr.pushx false 0 53 0 false).wellFormed = false ∧
    (Instr.mfs false 1 0x007).wellFormed = false ∧
    (Instr.timer false 31 0).wellFormed = false := by decide

/-! ## Decoding -/

/-- Words printed in the manual: the kernel under R125, the examples of R185, R216, R222, R228 and R236. -/
theorem test_decode_printed :
    decodeTableWord 32 0x00000003 = some (.clauseHeader false false 0 false false false false false false false false 0 3) ∧
    decodeTableWord 32 0x1D080003 = some (.movi false 2 3) ∧
    decodeTableWord 32 0x0A040080 = some (.shl false 1 0 2 false 0) ∧
    decodeTableWord 32 0x01041020 = some (.add false 1 1 0 true 0 false false) ∧
    decodeTableWord 32 0xD80C1003 = some (.ld true 3 1 0 3) ∧
    decodeTableWord 32 0x180C3005 = some (.addi false 3 3 5) ∧
    decodeTableWord 32 0x590C1003 = some (.st false 3 1 0 3) ∧
    decodeTableWord 32 0x6F000000 = some (.exit false) ∧
    decodeTableWord 32 0x685FFFF0 = some (.br false 2 true 0xFFFF0) ∧
    decodeTableWord 32 0x5E142268 = some (.amo false 5 2 9 2 true 0) ∧
    decodeTableWord 32 0x61000005 = some (.fenceRel false 1) ∧
    decodeTableWord 32 0x7D147000 = none := by decide

/-- The clause printed after R186. -/
theorem test_decode_clause_words :
    decodeTableWord 32 0x1E12BEEF = some (.movh false 4 2 0xBEEF) ∧
    decodeTableWord 32 0x48180040 = some (.umovi false 6 0 0x0040) ∧
    decodeTableWord 32 0x4A1C0181 = some (.ulea false 7 0 6 1) ∧
    decodeTableWord 32 0x4B107000 = some (.rfal false 4 7) ∧
    decodeTableWord 32 0x4C2093A8 = some (.xtow false 8 9 7 2 2 false) ∧
    decodeTableWord 32 0x100C40AD = some (.cmp false 3 4 2 true 1 2 true) := by decide

/-- R115: unlisted OP values, unused selectors, reserved bits. -/
theorem test_decode_reserved :
    decodeInstr 0 = .error .noInstruction ∧ decodeInstr 0x2E000000 = .error .noInstruction ∧
    decodeInstr 0x67000000 = .error .noInstruction ∧ decodeInstr 0x7D007000 = .error .noInstruction ∧
    decodeInstr 0x7E000006 = .error .noInstruction ∧ decodeInstr 0x6F000001 = .error .reservedField ∧
    decodeHeader 0x00200001 = .error .reservedField :=
  ⟨rfl, rfl, rfl, rfl, rfl, rfl, rfl⟩

/-- Words of the integer family, from the fields of R102 and the OP values of R113 and R114. -/
theorem test_decode_integer_1 :
    decodeTableWord 32 0x0120D488 = some (.add false 8 13 18 false 1 false false) ∧
    decodeTableWord 32 0x0220D488 = some (.sub false 8 13 18 false 1 false false) ∧
    decodeTableWord 32 0x0320D488 = some (.mull false 8 13 18 false 1 false false) ∧
    decodeTableWord 32 0x0420D488 = some (.mulh false 8 13 18 false 1 false) ∧
    decodeTableWord 32 0x0520D488 = some (.imad false 8 13 18 false 1 false false) ∧
    decodeTableWord 32 0x0620D480 = some (.and false 8 13 18 false) ∧
    decodeTableWord 32 0x0720D480 = some (.or false 8 13 18 false) ∧
    decodeTableWord 32 0x0820D480 = some (.xor false 8 13 18 false) ∧
    decodeTableWord 32 0x0920D480 = some (.andn false 8 13 18 false) ∧
    decodeTableWord 32 0x0A20D488 = some (.shl false 8 13 18 false 1) ∧
    decodeTableWord 32 0x0B20D488 = some (.shr false 8 13 18 false 1 false) ∧
    decodeTableWord 32 0x0C20D488 = some (.rot false 8 13 18 false 1) ∧
    decodeTableWord 32 0x0D20D488 = some (.min false 8 13 18 false 1 false) ∧
    decodeTableWord 32 0x0E20D488 = some (.max false 8 13 18 false 1 false) ∧
    decodeTableWord 32 0x0F20D488 = some (.absd false 8 13 18 false 1 false) ∧
    decodeTableWord 32 0x1004D48A = some (.cmp false 1 13 18 false 1 1 false) := by
  decide

/-- Words of the integer family, from the fields of R102 and the OP values of R113 and R114. -/
theorem test_decode_integer_2 :
    decodeTableWord 32 0x1120D484 = some (.sel false 8 13 18 false 4) ∧
    decodeTableWord 32 0x1220D010 = some (.popc false 8 13 2) ∧
    decodeTableWord 32 0x1320D010 = some (.clz false 8 13 2) ∧
    decodeTableWord 32 0x1420D480 = some (.bfx false 8 13 18 false false) ∧
    decodeTableWord 32 0x1520D480 = some (.bfi false 8 13 18 false) ∧
    decodeTableWord 32 0x1620D488 = some (.dot4 false 8 13 18 false false false false) ∧
    decodeTableWord 32 0x1720D488 = some (.mulw false 8 13 18 false 1 false false) ∧
    decodeTableWord 32 0x1820D012 = some (.addi false 8 13 18) ∧
    decodeTableWord 32 0x1920D012 = some (.andi false 8 13 18) ∧
    decodeTableWord 32 0x1A20D012 = some (.ori false 8 13 18) ∧
    decodeTableWord 32 0x1B20D012 = some (.xori false 8 13 18) ∧
    decodeTableWord 32 0x1C20D817 = some (.shfi false 8 13 2 23) ∧
    decodeTableWord 32 0x1D20000D = some (.movi false 8 13) ∧
    decodeTableWord 32 0x1E210012 = some (.movh false 8 1 18) ∧
    decodeTableWord 32 0x1F20D484 = some (.lea false 8 13 18 false 4) := by
  decide

/-- Words of the float family, from the fields of R102 and the OP values of R113 and R114. -/
theorem test_decode_float :
    decodeTableWord 32 0x2020D48A = some (.fadd false 8 13 18 false 1 false 2) ∧
    decodeTableWord 32 0x2120D48A = some (.fsub false 8 13 18 false 1 false 2) ∧
    decodeTableWord 32 0x2220D48A = some (.fmul false 8 13 18 false 1 false 2) ∧
    decodeTableWord 32 0x2320D48A = some (.ffma false 8 13 18 false 1 false 2) ∧
    decodeTableWord 32 0x2420D488 = some (.fmin false 8 13 18 false 1 false) ∧
    decodeTableWord 32 0x2520D488 = some (.fmax false 8 13 18 false 1 false) ∧
    decodeTableWord 32 0x2604D48A = some (.fcmp false 1 13 18 false 1 false 2) ∧
    decodeTableWord 32 0x2720D48A = some (.fsgn false 8 13 18 false 1 false 2) ∧
    decodeTableWord 32 0x2820D2CB = some (.fcvt false 8 13 2 3 false 1 false 3) ∧
    decodeTableWord 32 0x2920D453 = some (.fqst false 8 13 2 false 1 false 2 3) ∧
    decodeTableWord 32 0x2A20D010 = some (.fcls false 8 13 2 false) ∧
    decodeTableWord 32 0x2B20D48A = some (.fscl false 8 13 18 false 1 false 2) ∧
    decodeTableWord 32 0x2C20D492 = some (.fdot2 false 8 13 18 false false false 2) ∧
    decodeTableWord 32 0x2D20D011 = some (.frnd false 8 13 2 false 1) := by
  decide

/-- Words of the sfu family, from the fields of R102 and the OP values of R113 and R114. -/
theorem test_decode_sfu :
    decodeTableWord 32 0x3020D010 = some (.rcp false 8 13 2 false false) ∧
    decodeTableWord 32 0x3120D010 = some (.rsq false 8 13 2 false false) ∧
    decodeTableWord 32 0x3220D010 = some (.sqrt false 8 13 2 false false) ∧
    decodeTableWord 32 0x3320D010 = some (.exp2 false 8 13 2 false false) ∧
    decodeTableWord 32 0x3420D010 = some (.log2 false 8 13 2 false false) ∧
    decodeTableWord 32 0x3520D010 = some (.sin false 8 13 2 false false) ∧
    decodeTableWord 32 0x3620D010 = some (.cos false 8 13 2 false false) ∧
    decodeTableWord 32 0x3720D010 = some (.tanh false 8 13 2 false false) ∧
    decodeTableWord 32 0x3820D010 = some (.sigm false 8 13 2 false false) ∧
    decodeTableWord 32 0x3920D010 = some (.erf false 8 13 2 false false) ∧
    decodeTableWord 32 0x3A20D010 = some (.gelu false 8 13 2 false false) ∧
    decodeTableWord 32 0x3B20D010 = some (.silu false 8 13 2 false false) ∧
    decodeTableWord 32 0x3C20D488 = some (.fdiv false 8 13 18 false 1 false false) := by
  decide

/-- Words of the uniform family, from the fields of R102 and the OP values of R113 and R114. -/
theorem test_decode_uniform :
    decodeTableWord 32 0x4020D480 = some (.uadd false 8 13 18 false false) ∧
    decodeTableWord 32 0x4120D480 = some (.usub false 8 13 18 false false) ∧
    decodeTableWord 32 0x4220D480 = some (.umul false 8 13 18 false false) ∧
    decodeTableWord 32 0x4320D480 = some (.uand false 8 13 18) ∧
    decodeTableWord 32 0x4420D480 = some (.uor false 8 13 18) ∧
    decodeTableWord 32 0x4520D480 = some (.uxor false 8 13 18) ∧
    decodeTableWord 32 0x4620D486 = some (.ushf false 8 13 18 3) ∧
    decodeTableWord 32 0x4704D486 = some (.ucmp false 1 13 18 3 false) ∧
    decodeTableWord 32 0x48210012 = some (.umovi false 8 1 18) ∧
    decodeTableWord 32 0x4920D012 = some (.uaddi false 8 13 18) ∧
    decodeTableWord 32 0x4A20D487 = some (.ulea false 8 13 18 7) ∧
    decodeTableWord 32 0x4B20D000 = some (.rfal false 8 13) ∧
    decodeTableWord 32 0x4C20D974 = some (.xtow false 8 13 18 7 1 false) ∧
    decodeTableWord 32 0x4D20D000 = some (.wtox false 8 13) ∧
    decodeTableWord 32 0x4E20D480 = some (.umin false 8 13 18 false) ∧
    decodeTableWord 32 0x4F20D480 = some (.umax false 8 13 18 false) := by
  decide

/-- Words of the lane family, from the fields of R102 and the OP values of R113 and R114. -/
theorem test_decode_lane :
    decodeTableWord 32 0x5020D975 = some (.lget false 8 13 18 7 1 1) ∧
    decodeTableWord 32 0x5120D903 = some (.lshf false 8 13 18 3) ∧
    decodeTableWord 32 0x5220D00D = some (.lred false 8 13 false 3 1) ∧
    decodeTableWord 32 0x5320D005 = some (.lscan false 8 13 false false 1 1) ∧
    decodeTableWord 32 0x5404D02D = some (.vote false 1 13 2 3 1) ∧
    decodeTableWord 32 0x5520D02D = some (.sprm false 8 13 2 3 1) ∧
    decodeTableWord 32 0x5620D00D = some (.pack false 8 13 false 3 1) ∧
    decodeTableWord 32 0x5720D00D = some (.unpk false 8 13 false 3 1) := by
  decide

/-- Words of the memory family, from the fields of R102 and the OP values of R113 and R114. -/
theorem test_decode_memory_1 :
    decodeTableWord 32 0x5820D097 = some (.ld false 8 13 18 7) ∧
    decodeTableWord 32 0x5920D093 = some (.st false 8 13 18 3) ∧
    decodeTableWord 32 0x5A20D097 = some (.lds false 8 13 18 7) ∧
    decodeTableWord 32 0x5B20D093 = some (.sts false 8 13 18 3) ∧
    decodeTableWord 32 0x5C20D097 = some (.ldu false 8 13 18 7) ∧
    decodeTableWord 32 0x5D20D093 = some (.stu false 8 13 18 3) ∧
    decodeTableWord 32 0x5E20D4B1 = some (.amo false 8 13 18 3 false 1) ∧
    decodeTableWord 32 0x5F20D4B0 = some (.cas false 8 13 18 3 false) ∧
    decodeTableWord 32 0x60008364 = some (.red false 8 13 2 false 4) ∧
    decodeTableWord 32 0x61000005 = some (.fenceRel false 1) ∧
    decodeTableWord 32 0x61000006 = some (.fenceAcq false 1) ∧
    decodeTableWord 32 0x61000007 = some (.fenceAr false 1) ∧
    decodeTableWord 32 0x6200D093 = some (.pref false false 13 18) ∧
    decodeTableWord 32 0x6320D093 = some (.wback false 8 13 18) ∧
    decodeTableWord 32 0x6420D093 = some (.inval false 8 13 18) ∧
    decodeTableWord 32 0x65008000 = some (.publ false 8) := by
  decide

/-- Words of the memory family, from the fields of R102 and the OP values of R113 and R114. -/
theorem test_decode_memory_2 :
    decodeTableWord 32 0x6620D484 = some (.samo false 8 13 18 false 4) ∧
    decodeTableWord 32 0x6620D4A0 = some (.samoCas false 8 13 18 false) := by
  decide

/-- Words of the control family, from the fields of R102 and the OP values of R113 and R114. -/
theorem test_decode_control_1 :
    decodeTableWord 32 0x68200012 = some (.br false 1 false 18) ∧
    decodeTableWord 32 0x69008000 = some (.jmpr false 8) ∧
    decodeTableWord 32 0x6920D001 = some (.jmprLink false 8 13) ∧
    decodeTableWord 32 0x6AE00008 = some (.call false 8) ∧
    decodeTableWord 32 0x6B008000 = some (.ret false 8) ∧
    decodeTableWord 32 0x6C040000 = some (.enrol false 1) ∧
    decodeTableWord 32 0x6D040000 = some (.rejoin false 1) ∧
    decodeTableWord 32 0x6E040000 = some (.strike false 1) ∧
    decodeTableWord 32 0x6F000000 = some (.exit false) ∧
    decodeTableWord 32 0x70200000 = some (.txbeg false 8) ∧
    decodeTableWord 32 0x71000000 = some (.txend false) ∧
    decodeTableWord 32 0x72000000 = some (.retry false) ∧
    decodeTableWord 32 0x73E00008 = some (.txelse false 8) ∧
    decodeTableWord 32 0x74000008 = some (.txabt false 8) ∧
    decodeTableWord 32 0x75008000 = some (.tdec false 8) ∧
    decodeTableWord 32 0x7620D000 = some (.tspawn false 8 13) := by
  decide

/-- Words of the control family, from the fields of R102 and the OP values of R113 and R114. -/
theorem test_decode_control_2 :
    decodeTableWord 32 0x77008000 = some (.barv false 8) := by
  decide

/-- Words of the matrix family, from the fields of R102 and the OP values of R113 and R114. -/
theorem test_decode_matrix :
    decodeTableWord 32 0x7820D480 = some (.mma false 8 13 18) ∧
    decodeTableWord 32 0x7820D481 = some (.mmaAcc false 8 13 18) ∧
    decodeTableWord 32 0x7920D480 = some (.obRes false 8 13 18) ∧
    decodeTableWord 32 0x79008001 = some (.obRel false 8) ∧
    decodeTableWord 32 0x79008342 = some (.obSets false 8 13) ∧
    decodeTableWord 32 0x79008343 = some (.obSetz false 8 13) ∧
    decodeTableWord 32 0x7A008000 = some (.accAcq false 8) ∧
    decodeTableWord 32 0x7A000001 = some (.accRel false) ∧
    decodeTableWord 32 0x7A008002 = some (.accZero false 8) ∧
    decodeTableWord 32 0x7A20D483 = some (.accRd false 8 13 18) ∧
    decodeTableWord 32 0x7B008340 = some (.tileFetch false 8 13) ∧
    decodeTableWord 32 0x7B20D481 = some (.tileDrain false 8 13 18) ∧
    decodeTableWord 32 0x7B20D482 = some (.tileDradd false 8 13 18) ∧
    decodeTableWord 32 0x7B008003 = some (.tileUnpin false 8) := by
  decide

/-- Words of the engine_system family, from the fields of R102 and the OP values of R113 and R114. -/
theorem test_decode_engine_system_1 :
    decodeTableWord 32 0x7C20D400 = some (.push false 8 13 2 false) ∧
    decodeTableWord 32 0x7C20D500 = some (.pushx false 8 13 2 false) ∧
    decodeTableWord 32 0x7D20000D = some (.mfs false 8 13) ∧
    decodeTableWord 32 0x7D20100D = some (.mts false 8 13) ∧
    decodeTableWord 32 0x7D002008 = some (.trap false 8) ∧
    decodeTableWord 32 0x7D003000 = some (.eret false) ∧
    decodeTableWord 32 0x7D003001 = some (.eretNext false) ∧
    decodeTableWord 32 0x7D004000 = some (.preend false) ∧
    decodeTableWord 32 0x7D005000 = some (.haltt false) ∧
    decodeTableWord 32 0x7D005001 = some (.halttRel false) ∧
    decodeTableWord 32 0x7D206002 = some (.timer false 8 2) ∧
    decodeTableWord 32 0x7E20D000 = some (.wsplit false 8 13) ∧
    decodeTableWord 32 0x7E20D800 = some (.wsplitLdr false 8 13) ∧
    decodeTableWord 32 0x7E000001 = some (.wret false) ∧
    decodeTableWord 32 0x7E20D002 = some (.wborrow false 8 13) ∧
    decodeTableWord 32 0x7E000003 = some (.idend false) := by
  decide

/-- Words of the engine_system family, from the fields of R102 and the OP values of R113 and R114. -/
theorem test_decode_engine_system_2 :
    decodeTableWord 32 0x7E000004 = some (.nop false) ∧
    decodeTableWord 32 0x7E000005 = some (.yield false) := by
  decide

/-! ## Single steps: states in which a word issues -/

/-- All lanes of group 0 of team 0. -/
def fAll : Focus := { team := 0, grp := 0, lanes := 0xFFFFFFFF }

/-- Lane 0 of group 0 of team 0. -/
def f1 : Focus := { team := 0, grp := 0, lanes := 1 }

/-- The instruction's word where the first step after reset fetches it. -/
def at_ (i : Instr) : State := State.reset.withFetchWord 32 ((encode i).getD 0)

/-- The same with lane 0 alone in focus. -/
def at1 (i : Instr) : State := { at_ i with focus := some f1 }

/-- Change group 0 of team 0. -/
def onG (h : Group → Group) (s : State) : State := s.updGrp 0 0 h

/-- Change team 0. -/
def onT (h : Team → Team) (s : State) : State := s.updTeam 0 h

/-- Thread register `r` of every lane. -/
def xs (r : Nat) (v : Nat → Nat) : State → State := onG fun g => overLanes 0xFFFFFFFF (fun l g => g.setX l r (BitVec.ofNat 64 (v l))) g

/-- Thread register `r` of lane 0. -/
def x0 (r v : Nat) : State → State := onG fun g => g.setX 0 r (BitVec.ofNat 64 v)

/-- Uniform register `r`. -/
def w0 (r v : Nat) : State → State := onG fun g => g.setW r (BitVec.ofNat 64 v)

/-- Every thread of the group. -/
def ths (h : Thread → Thread) : State → State := onG fun g => g.mapTh 0xFFFFFFFF h

/-- The checks of Safe.Issues, each decided. -/
def issuesB (i : Instr) (f : Focus) (s : State) : Bool :=
  decide (s.focus = some f) && !(opOf i).bad (s.team f.team) (Safe.grp f s) (Safe.place f s) f.lanes (Safe.iss i f s).txl &&
  !(match (opOf i).sys with | some n => decide (0x800 ≤ n) && !(s.team f.team).harbour | none => false) &&
  !(opOf i).portBad (s.team f.team) (Safe.iss i f s).txl &&
  (if (s.team f.team).dbgctl.getLsbD 0 then (opOf i).hazardReg (Safe.grp f s) f.lanes else none).isNone &&
  ((Safe.grp f s).starved (s.team f.team).streams f.lanes (opOf i).rd).isEmpty

theorem issues_of {i : Instr} {f : Focus} {s : State} (h : issuesB i f s = true) : Safe.Issues i f s := by
  simp only [issuesB, Bool.and_eq_true, Bool.not_eq_true', decide_eq_true_eq, Option.isNone_iff_eq_none, List.isEmpty_iff] at h
  obtain ⟨⟨⟨⟨⟨h1, h2⟩, h3⟩, h4⟩, h5⟩, h6⟩ := h
  exact ⟨h1, h2, h3, h4, h5, h6⟩

/-- The instructions of a list all issue. -/
theorem all_issue {L : List Instr} (h : ∀ i ∈ L, issuesB i fAll (at_ i) = true) : ∀ i ∈ L, Safe.Issues i fAll (at_ i) :=
  fun i hi => issues_of (h i hi)

/-- A statement about every lane of a mask, from the list of its lanes. -/
theorem of_lanes {m : LaneMask} {P : Nat → Prop} (h : ∀ l ∈ lanesOf m, P l) : ∀ l, m.getLsbD l = true → P l := by
  intro l hl
  have hlt : l < 32 := BitVec.lt_of_getLsbD hl
  exact h l (by simp [lanesOf, hlt, hl])

/-- What is seen of the next state. -/
def seen {α : Type} (o : Host.Outcome State Fault Refusal) (look : State → α) : Option α :=
  match o with
  | .next t => some (look t)
  | _ => none

/-- Thread register x8 of lane 0 after an instruction on x13, x18 and x8 of lane 0. -/
def res (i : Instr) (a b c : Nat) : Option Nat :=
  seen (exec i (x0 13 a (x0 18 b (x0 8 c (at1 i))))) fun t => ((t.grp 0 0).xr 0 8).toNat

/-- Predicate p1 of lane 0 after an instruction on x13 and x18. -/
def resP (i : Instr) (a b : Nat) : Option Bool := seen (exec i (x0 13 a (x0 18 b (at1 i)))) fun t => (t.grp 0 0).pr 1 0

/-- Uniform register w8 after an instruction on w13 and w18. -/
def resW (i : Instr) (a b : Nat) : Option Nat := seen (exec i (w0 13 a (w0 18 b (at1 i)))) fun t => ((t.grp 0 0).wr 8).toNat

/-- Lanes 0 and 31. -/
def fB : Focus := { team := 0, grp := 0, lanes := 0x80000001 }

/-- The word in focus for lanes 0 and 31, x13 of each lane an address in the code's page, 8 bytes apart from 0x2800 on. -/
def atB (i : Instr) : State := { xs 13 (fun l => 0x2800 + 8 * l) (at_ i) with focus := some fB }

/-- The translation of an access. -/
def xlOf (i : Instr) (f : Focus) (s : State) (acc : Acc) (bar : Xl → Bool) (l ea : Nat) : Xl :=
  match s.check (Safe.iss i f s).rg (Safe.iss i f s).core acc false ea bar keepAct (s.servedBy (Safe.iss i f s).core l (acc = .load)) with
  | .ok x => x
  | .error _ => {}

/-- Whether an access translates, and follows no drain that is still to come. -/
def goesB (i : Instr) (f : Focus) (s : State) (acc : Acc) (bar : Xl → Bool) (l ea : Nat) : Bool :=
  match s.check (Safe.iss i f s).rg (Safe.iss i f s).core acc false ea bar keepAct (s.servedBy (Safe.iss i f s).core l (acc = .load)) with
  | .ok x => !s.drainDue ((Safe.iss i f s).who l) x
  | .error _ => false

theorem access_of {i : Instr} {f : Focus} {s : State} {acc : Acc} {bar : Xl → Bool} {l ea : Nat} (h : goesB i f s acc bar l ea = true) :
    Safe.access i f s acc bar l ea (xlOf i f s acc bar l ea) := by
  unfold goesB at h
  unfold Safe.access xlOf
  split at h <;> simp_all

/-- No transaction, no sleeper, no lost keys, no lost stack: decided. -/
def quietB (s : State) : Bool :=
  (s.teams.all fun e => e.2.groups.all fun h => h.2.tx.isNone) && s.cache.wake.isEmpty && s.lh.keyless.isEmpty && s.ras.lost.isEmpty

theorem quiet_of {s : State} (h : quietB s = true) : Safe.quiet s := by
  simp only [quietB, Bool.and_eq_true, List.all_eq_true, Option.isNone_iff_eq_none, List.isEmpty_iff] at h
  obtain ⟨⟨⟨h1, h2⟩, h3⟩, h4⟩ := h
  exact ⟨fun e he k hk => h1 e he k hk, h2, h3, h4⟩

/-- Whether every lane of the issue has an aligned address that translates. -/
def readyB (i : Instr) (f : Focus) (s : State) (acc : Acc) (bar : Xl → Bool) (n : Nat) (ea : Nat → Nat) : Bool :=
  issuesB i f s && quietB s && (lanesOf f.lanes).all fun l => decide (ea l % n = 0) && goesB i f s acc bar l (ea l)

/-- What the statements about accesses ask for: the word issues, nothing is in its way, the addresses are aligned and translate. -/
def Ready (i : Instr) (f : Focus) (s : State) (acc : Acc) (bar : Xl → Bool) (n : Nat) (ea : Nat → Nat) : Prop :=
  Safe.Issues i f s ∧ Safe.quiet s ∧ ∀ l, f.lanes.getLsbD l = true → ea l % n = 0 ∧ Safe.access i f s acc bar l (ea l) (xlOf i f s acc bar l (ea l))

theorem ready_of {i : Instr} {f : Focus} {s : State} {acc : Acc} {bar : Xl → Bool} {n : Nat} {ea : Nat → Nat} (h : readyB i f s acc bar n ea = true) :
    Ready i f s acc bar n ea := by
  simp only [readyB, Bool.and_eq_true, List.all_eq_true, decide_eq_true_eq] at h
  obtain ⟨⟨h1, h2⟩, h3⟩ := h
  exact ⟨issues_of h1, quiet_of h2, of_lanes fun l hl => ⟨(h3 l hl).1, access_of (h3 l hl).2⟩⟩

/-- The code's page with another coherence class (R75, R80). -/
def coh (c : Nat) (s : State) : State :=
  { s with cache := { s.cache with tlb := [{ fetchTlb with coh := c }] } }

/-- The code's page held by the device's units as well. -/
def dev (s : State) : State :=
  { s with cache := { s.cache with tlb := s.cache.tlb ++ [{ fetchTlb with unit := 1000 }] } }

/-! ## Integers -/

/-- Witnesses of IntegerSums and IntegerProducts: every instruction issues, and MULW with a W that is not 0. -/
theorem wit_IntegerSums_IntegerProducts : ∀ i ∈ [Instr.add false 8 13 18 false 1 false false, .sub false 8 13 18 false 1 true true,
    .mull false 8 13 18 false 0 false false, .imad true 8 13 18 false 3 false false, .mulh false 8 13 18 false 1 false,
    .min false 8 13 18 false 1 false, .max false 8 13 18 true 1 false, .absd false 8 13 18 false 2 true, .dot4 false 8 13 18 false true false false,
    .mulw false 8 13 18 false 1 false false, .mulw false 8 13 18 false 3 true true], Safe.Issues i fAll (at_ i) := all_issue (by decide)

/-- Witnesses of WholeRegisterResults and ShiftsAndBitFields. -/
theorem wit_WholeRegisterResults_ShiftsAndBitFields : ∀ i ∈ [Instr.and false 8 13 18 false, .or false 8 13 18 true, .xor false 8 13 18 false,
    .andn false 8 13 18 false, .addi false 8 13 0xFFF, .andi false 8 13 18, .ori false 8 13 18, .xori false 8 13 18, .lea false 8 13 18 false 7,
    .sel false 8 13 18 false 7, .movi false 8 0x3FFFF, .movh false 8 3 0xBEEF, .wtox false 8 13, .shl false 8 13 18 false 1,
    .shr false 8 13 18 false 1 true, .rot false 8 13 18 false 3, .shfi false 8 13 0 63, .shfi false 8 13 1 63, .shfi false 8 13 2 23,
    .shfi false 8 13 3 23, .popc false 8 13 2, .clz false 8 13 0, .bfx false 8 13 18 false true, .bfi false 8 13 18 false],
    Safe.Issues i fAll (at_ i) := all_issue (by decide)

/-- R159: no carry passes between elements; saturation clamps; the high half is the floor of the product over 2^w. -/
theorem test_sums :
    res (.add false 8 13 18 false 1 false false) 0x00000001FFFFFFFF 0x0000000100000001 0 = some 0x0000000200000000 ∧
    res (.add false 8 13 18 false 1 true true) 0x7FFFFFFF 1 0 = some 0x7FFFFFFF ∧
    res (.sub false 8 13 18 false 0 true false) 1 2 0 = some 0 ∧
    res (.mull false 8 13 18 false 0 false false) 0xFFFFFFFFFFFFFFFF 2 0 = some 0xFFFFFFFFFFFFFFFE ∧
    res (.imad false 8 13 18 false 0 false false) 3 4 5 = some 17 ∧
    res (.mulh false 8 13 18 false 1 true) 0xFFFFFFFF 2 0 = some 0xFFFFFFFF := by decide

/-- R159, R165, R166: signed order, the difference of the extremes, four byte products, a widened product of −1 and 2. -/
theorem test_products :
    res (.min false 8 13 18 false 2 true) 0x8000 1 0 = some 0x8000 ∧ res (.max false 8 13 18 false 2 true) 0x8000 1 0 = some 1 ∧
    res (.absd false 8 13 18 false 3 true) 0x80 0x7F 0 = some 0xFF ∧
    res (.dot4 false 8 13 18 false false false false) 0x01020304 0x01010101 5 = some 15 ∧
    res (.dot4 false 8 13 18 false true false false) 0x000000FF 0x000000FF 0 = some 0xFFFFFF01 ∧
    res (.mulw false 8 13 18 false 1 false true) 0xFFFFFFFF 2 0 = some 0xFFFFFFFFFFFFFFFE := by decide

/-- R159, R162, R167, R168, R170: bitwise results, sign-extended immediates, SEL by p7, MOVI of −1, MOVH into the top half-word. -/
theorem test_logic :
    res (.and false 8 13 18 false) 0xFF00 0x0FF0 0 = some 0x0F00 ∧ res (.or false 8 13 18 false) 0xFF00 0x0FF0 0 = some 0xFFF0 ∧
    res (.xor false 8 13 18 false) 0xFF00 0x0FF0 0 = some 0xF0F0 ∧ res (.andn false 8 13 18 false) 0xFF00 0x0FF0 0 = some 0xF000 ∧
    res (.addi false 8 13 0xFFF) 7 0 0 = some 6 ∧ res (.andi false 8 13 0x800) 0xFFFFFFFFFFFFFFFF 0 0 = some 0xFFFFFFFFFFFFF800 ∧
    res (.ori false 8 13 0xFFF) 0 0 0 = some 0xFFFFFFFFFFFFFFFF ∧ res (.xori false 8 13 0xFFF) 0 0 0 = some 0xFFFFFFFFFFFFFFFF ∧
    res (.lea false 8 13 18 false 3) 0x1000 5 0 = some 0x1028 ∧ res (.sel false 8 13 18 false 7) 1 2 0 = some 1 ∧
    res (.sel false 8 13 18 false 0) 1 2 0 = some 2 ∧ res (.movi false 8 0x3FFFF) 0 0 0 = some 0xFFFFFFFFFFFFFFFF ∧
    res (.movh false 8 3 0xBEEF) 0 0 1 = some 0xBEEF000000000001 := by decide

/-- R160, R163, R164, R169: a count of the width, a sign fill, a rotation of bytes, counts of bits, a field out and a field in. -/
theorem test_shifts_and_fields :
    res (.shl false 8 13 18 false 1) 0x0000000100000003 0x000000200000001F 0 = some 0x80000000 ∧
    res (.shr false 8 13 18 false 1 true) 0x80000000 40 0 = some 0xFFFFFFFF ∧ res (.rot false 8 13 18 false 3) 0x81 9 0 = some 0x03 ∧
    res (.shfi false 8 13 0 63) 1 0 0 = some 0x8000000000000000 ∧ res (.shfi false 8 13 1 63) 0x8000000000000000 0 0 = some 1 ∧
    res (.shfi false 8 13 2 63) 0x8000000000000000 0 0 = some 0xFFFFFFFFFFFFFFFF ∧ res (.shfi false 8 13 3 4) 0xF000000000000000 0 0 = some 0xF ∧
    res (.popc false 8 13 0) 0xFF 0 0 = some 8 ∧ res (.clz false 8 13 1) 1 0 0 = some 0x000000200000001F ∧
    res (.bfx false 8 13 18 false false) 0xABCD 0x0804 0 = some 0xBC ∧ res (.bfx false 8 13 18 false true) 0xABCD 0x0804 0 = some 0xFFFFFFFFFFFFFFBC ∧
    res (.bfi false 8 13 18 false) 0 0x0404 0xFFFF = some 0xFF0F := by decide

/-! ## Predicates, uniform registers and lanes -/

/-- Witnesses of ComparisonsAndVotes and UniformInstructions. -/
theorem wit_ComparisonsAndVotes_UniformInstructions : ∀ i ∈ [Instr.cmp false 1 13 18 false 1 1 false, .cmp false 7 13 18 true 3 3 true,
    .ucmp false 1 13 18 3 false, .vote false 1 13 2 3 0, .vote false 1 13 2 3 1, .vote false 1 13 2 3 2, .vote false 1 13 2 3 3,
    .uadd false 8 13 18 false false, .usub false 8 13 18 true true, .umul false 8 13 18 false false, .umin false 8 13 18 true,
    .umax false 8 13 18 false, .uaddi false 8 13 18, .ulea false 8 13 18 7, .uand false 8 13 18, .uor false 8 13 18, .uxor false 8 13 18,
    .ushf false 8 13 18 0, .ushf false 8 13 18 1, .ushf false 8 13 18 2, .ushf false 8 13 18 3, .umovi false 8 0 18, .umovi false 8 3 18,
    .rfal false 8 13, .xtow false 8 9 7 2 2 false], Safe.Issues i fAll (at_ i) := all_issue (by decide)

/-- R161, R173, R183: unsigned and signed orders, a uniform comparison, a vote of one lane. -/
theorem test_predicates :
    resP (.cmp false 1 13 18 false 0 2 false) 1 0xFFFFFFFFFFFFFFFF = some true ∧ resP (.cmp false 1 13 18 false 0 2 true) 1 0xFFFFFFFFFFFFFFFF = some false ∧
    seen (exec (.ucmp false 1 13 18 0 false) (w0 13 4 (w0 18 4 (at1 (.ucmp false 1 13 18 0 false))))) (fun t => (t.grp 0 0).pr 1 0) = some true ∧
    resP (.vote false 1 13 0 0 3) 1 0 = some true := by decide

/-- R171–R176: 64-bit uniform results; UMOVI with H = 0 zeroes the rest; USHF by 64 gives 0; XTOW sign-extends an element of another lane. -/
theorem test_uniform :
    resW (.uadd false 8 13 18 true true) 0x7FFFFFFFFFFFFFFF 1 = some 0x7FFFFFFFFFFFFFFF ∧ resW (.usub false 8 13 18 false false) 1 2 = some 0xFFFFFFFFFFFFFFFF ∧
    resW (.umul false 8 13 18 false false) 3 5 = some 15 ∧ resW (.umin false 8 13 18 true) 0xFFFFFFFFFFFFFFFF 1 = some 0xFFFFFFFFFFFFFFFF ∧
    resW (.umax false 8 13 18 true) 0xFFFFFFFFFFFFFFFF 1 = some 1 ∧ resW (.uaddi false 8 13 0xFFF) 1 0 = some 0 ∧ resW (.ulea false 8 13 18 1) 10 3 = some 16 ∧
    resW (.uand false 8 13 18) 12 10 = some 8 ∧ resW (.uor false 8 13 18) 12 10 = some 14 ∧ resW (.uxor false 8 13 18) 12 10 = some 6 ∧
    resW (.ushf false 8 13 18 0) 1 64 = some 0 ∧ resW (.ushf false 8 13 18 3) 1 65 = some 2 ∧ resW (.umovi false 8 0 18) 0 0 = some 18 ∧
    resW (.umovi false 8 1 18) 0 0 = some 0x120000 ∧
    seen (exec (.rfal false 8 13) (x0 13 77 (at1 (.rfal false 8 13)))) (fun t => ((t.grp 0 0).wr 8).toNat) = some 77 ∧
    seen (exec (.xtow false 8 9 7 2 2 true) (onG (fun g => g.setX 7 9 0x0000800000000000) (at_ (.xtow false 8 9 7 2 2 true))))
      (fun t => ((t.grp 0 0).wr 8).toNat) = some 0xFFFFFFFFFFFF8000 ∧
    seen (exec (.wtox false 8 13) (w0 13 9 (at1 (.wtox false 8 13)))) (fun t => ((t.grp 0 0).xr 0 8).toNat) = some 9 := by decide

/-- Witnesses of CrossLaneResults and ElementMoves. -/
theorem wit_CrossLaneResults_ElementMoves : ∀ i ∈ [Instr.lget false 8 13 18 0 1 0, .lget false 8 13 18 1 1 1, .lget false 8 13 31 7 3 2,
    .lget false 8 13 0 7 3 3, .lshf false 8 13 18 0, .lshf false 8 13 31 1, .lshf false 8 13 1 2, .lshf false 8 13 18 3, .lred false 8 13 false 3 0,
    .lred false 8 13 true 0 1, .lred false 8 13 true 3 2, .lred false 8 13 false 0 3, .lscan false 8 13 false false 1 0, .lscan false 8 13 true true 1 1,
    .lscan false 8 13 true false 1 2, .lscan false 8 13 true false 1 3, .sprm false 8 13 7 3 0, .sprm false 8 13 0 3 1, .sprm false 8 13 3 2 2,
    .sprm false 8 13 0 1 3, .pack false 8 13 false 3 0, .pack false 8 13 true 1 1, .pack false 8 13 true 2 2, .unpk false 8 13 false 3 1,
    .unpk false 8 13 true 1 0], Safe.Issues i fAll (at_ i) := all_issue (by decide)

/-- Lane 5's x8 after an instruction of lanes 0–7, x13 of every lane being 100 plus its number. -/
def lane5 (i : Instr) : Option Nat := seen (exec i ({ xs 13 (fun l => 100 + l) (at_ i) with focus := some { team := 0, grp := 0, lanes := 0xFF } })) fun t => ((t.grp 0 0).xr 5 8).toNat

/-- R179–R182: element 0 of lane 31; the lane across, two below, two above; sums over the lanes of the issue and over those before and with lane 5. -/
theorem test_lanes :
    lane5 (.lget false 8 13 31 0 0 0) = some 131 ∧ lane5 (.lshf false 8 13 1 0) = some 104 ∧ lane5 (.lshf false 8 13 2 1) = some 103 ∧
    lane5 (.lshf false 8 13 2 2) = some 107 ∧ lane5 (.lshf false 8 13 30 3) = some 103 ∧ lane5 (.lred false 8 13 false 0 0) = some 828 ∧
    lane5 (.lred false 8 13 true 0 1) = some 100 ∧ lane5 (.lscan false 8 13 false false 0 0) = some 615 ∧
    lane5 (.lscan false 8 13 true false 0 0) = some 510 := by decide

/-- R184, R185: one element to all, the order reversed, neighbours exchanged; a low half narrowed with saturation; a high half widened. -/
theorem test_element_moves :
    res (.sprm false 8 13 1 2 0) 0x0004000300020001 0 0 = some 0x0002000200020002 ∧ res (.sprm false 8 13 0 2 1) 0x0004000300020001 0 0 = some 0x0001000200030004 ∧
    res (.sprm false 8 13 0 2 3) 0x0004000300020001 0 0 = some 0x0003000400010002 ∧
    res (.pack false 8 13 false 3 1) 0x0001FF0000800001 0 0xAAAAAAAAAAAAAAAA = some 0xAAAAAAAA01807F01 ∧
    res (.unpk false 8 13 true 1 1) 0xFFFFFFFF00000001 0 0 = some 0xFFFFFFFFFFFFFFFF := by decide
/-! ## Floating point -/

/-- Witnesses of FloatArithmetic, FloatConversions and FloatSelections: rounding fields 00 and 11, with and without AMX, every kind of code. -/
theorem wit_FloatArithmetic_FloatConversions_FloatSelections : ∀ i ∈ [Instr.fadd false 8 13 18 false 1 false 0, .fsub false 8 13 18 false 3 true 3,
    .fmul false 8 13 18 false 2 true 1, .ffma false 8 13 18 false 0 false 2, .fscl false 8 13 18 false 1 false 3, .frnd false 8 13 2 false 1,
    .fdot2 false 8 13 18 false false false 0, .fdot2 false 8 13 18 false true true 3, .fcvt false 8 13 0 3 true 1 false 3,
    .fcvt false 8 13 7 0 false 3 true 0, .fcvt false 8 13 8 0 false 1 false 0, .fcvt false 8 13 11 0 false 2 false 1, .fcvt false 8 13 14 0 false 1 false 0,
    .fmin false 8 13 18 false 1 false, .fmax false 8 13 18 false 3 true, .fsgn false 8 13 0 false 1 false 0, .fsgn false 8 13 18 false 0 false 3,
    .fcls false 8 13 2 true, .fcmp false 1 13 18 false 1 false 0, .fcmp false 7 13 18 false 1 false 3], Safe.Issues i fAll (at_ i) := all_issue (by decide)

/-- R189: 1 + 2, 1 − 2, 2 · 3, 1 + 2 · 3 and 1 · 2^3 in FP32. -/
theorem test_float_arithmetic :
    res (.fadd false 8 13 18 false 1 false 0) 0x3F800000 0x40000000 0 = some 0x40400000 ∧
    res (.fsub false 8 13 18 false 0 false 0) 0x3FF0000000000000 0x4000000000000000 0 = some 0xBFF0000000000000 ∧
    res (.fmul false 8 13 18 false 1 false 0) 0x40000000 0x40400000 0 = some 0x40C00000 ∧
    res (.ffma false 8 13 18 false 1 false 0) 0x40000000 0x40400000 0x3F800000 = some 0x40E00000 ∧
    res (.fscl false 8 13 18 false 1 false 0) 0x3F800000 3 0 = some 0x41000000 := by decide

/-- R195–R199: 2.5 to even; 1·2 + 3·4 + 1 and 1·1 + 0; 1.0 to FP16, −2.0 in FP16 to an integer, 5 to FP32; the magnitude kept. -/
theorem test_float_conversions :
    res (.frnd false 8 13 0 false 0) 0x4004000000000000 0 0 = some 0x4000000000000000 ∧
    res (.fdot2 false 8 13 18 false false false 0) 0x00003C0042003C00 0x00003C0044004000 0x3F800000 = some 0x3F80000041700000 ∧
    res (.fcvt false 8 13 0 0 false 1 false 0) 0x3F800000 0 0 = some 0x3C00 ∧ res (.fcvt false 8 13 11 0 false 2 false 0) 0xC000 0 0 = some 0xFFFE ∧
    res (.fcvt false 8 13 13 0 false 1 false 0) 5 0 0 = some 0x40A00000 ∧
    seen (exec (.fcvt false 8 13 0 3 true 1 false 0) (x0 13 0xC0000000 (at1 (.fcvt false 8 13 0 3 true 1 false 0))))
      (fun t => (SMap.get 0 (t.grp 0 0).amax 3 : Word)) = some 0x4000000000000000 := by decide

/-- R190–R193: NaN and 1.0; −0 and +0; a sign inverted; 1.0 and +0 classified; equal, unordered. -/
theorem test_float_selections :
    res (.fmin false 8 13 18 false 0 false) 0x7FF8000000000000 0x3FF0000000000000 0 = some 0x3FF0000000000000 ∧
    res (.fmax false 8 13 18 false 0 false) 0x8000000000000000 0 0 = some 0 ∧
    res (.fsgn false 8 13 0 false 0 false 1) 0x3FF0000000000000 0 0 = some 0xBFF0000000000000 ∧
    res (.fcls false 8 13 1 false) 0x3F800000 0 0 = some 0x0000000500000007 ∧
    resP (.fcmp false 1 13 18 false 0 false 0) 0 0x8000000000000000 = some true ∧
    resP (.fcmp false 1 13 18 false 0 false 3) 0x7FF8000000000000 0 = some true := by decide

/-- Witnesses of the cases of FloatSelections: both operands NaN, either, neither; less, more, equal; every class. -/
theorem wit_FloatSelections_cases :
    (f32.src false 0x7FC00000).isNan = true ∧ (f32.src false 0x3F800000).isNan = false ∧ (f32.src false 0x3F800000).lt (f32.src false 0x40000000) = true ∧
    (f32.src false 0).eq (f32.src false 0x80000000) = true ∧ f32.decode 0x7FC00000 = .nan ∧ f32.decode 0xFF800000 = .inf true ∧
    (∃ g e, f32.decode 0x80000000 = .num g 0 e) ∧ (∃ g m e, f32.decode 1 = .num g m e ∧ m ≠ 0 ∧ f32.isSub 1 = true) ∧
    ∃ g m e, f32.decode 0x3F800000 = .num g m e ∧ m ≠ 0 ∧ f32.isSub 0x3F800000 = false := by
  refine ⟨by decide, by decide, by decide, by decide, by decide, by decide, ⟨_, _, rfl⟩, ⟨_, _, _, rfl, ?_⟩, ⟨_, _, _, rfl, ?_⟩⟩ <;> decide

/-- Witness of ExactValuesSurviveRounding: 1.0 and the largest subnormal of FP32, the least value of E2M1. -/
theorem wit_ExactValuesSurviveRounding : f32 ∈ [f64, f32, e8m10, f16, bf16, e5m2, e4m3, e3m4, e3m2, e2m3, e2m1] ∧ 0x007FFFFF < 2 ^ f32.w ∧
    f32.decode (0x007FFFFF * 2 ^ f32.pad) ≠ .nan ∧ 1 < 2 ^ e2m1.w ∧ e2m1.decode (1 * 2 ^ e2m1.pad) ≠ .nan := by decide

/-- Witnesses of SfuResults: all thirteen issue, in both grades. -/
theorem wit_SfuResults : ∀ i ∈ [Instr.rcp false 8 13 1 false false, .rsq false 8 13 0 false true, .sqrt false 8 13 2 true false,
    .exp2 false 8 13 1 false true, .log2 false 8 13 2 false false, .sin false 8 13 1 false false, .cos false 8 13 1 false true,
    .tanh false 8 13 1 false false, .sigm false 8 13 1 false false, .erf false 8 13 1 false false, .gelu false 8 13 1 false false,
    .silu false 8 13 1 false false, .fdiv false 8 13 18 false 1 false false], Safe.Issues i fAll (at_ i) := all_issue (by decide)

/-- Witnesses of the cases of an SFU element: special, cut off in a fast division, exact in the accurate grade, within the bound. -/
theorem wit_SfuResults_cases :
    Sfu.rcp.special (f32.src true 0) = some (.inf false) ∧ divSpecial (fone false) (fone false) = none ∧
    fastDiv (fone false) (.num false 1 127) = some (fzero false) ∧ fastDiv (fone false) (fone true) = none ∧
    Sfu.rcp.special (f32.src false 0x40000000) = none ∧ Sfu.rcp.exact f32 true (f32.src false 0x40000000) = true ∧
    Sfu.rcp.exact f32 false (f32.src false 0x40000000) = false := by decide

/-- The values of a kind on their way to register 8 of lane 0. -/
def promised (k : PendKind) (i : Instr) (s : State) : Option (List Nat) :=
  seen (exec i s) fun t => ((t.grp 0 0).out.filter fun q => decide (q.kind = k ∧ q.reg = 8 ∧ q.lane = 0 ∧ q.live = true)).map fun q => q.val.toNat

/-- The same after an SFU instruction on x13 and x18. -/
def sfu (i : Instr) (a b : Nat) : Option (List Nat) := promised .sf i (x0 13 a (x0 18 b (at1 i)))

/-- R204–R206: special results come as variable-latency results. -/
theorem test_sfu :
    sfu (.rcp false 8 13 0 false true) 0x8000000000000000 0 = some [0xFFF0000000000000] ∧
    sfu (.rsq false 8 13 0 false true) 0 0 = some [0x7FF0000000000000] ∧
    sfu (.sqrt false 8 13 0 false true) 0x8000000000000000 0 = some [0x8000000000000000] ∧
    sfu (.exp2 false 8 13 0 false true) 0 0 = some [0x3FF0000000000000] ∧
    sfu (.log2 false 8 13 0 false true) 0 0 = some [0xFFF0000000000000] ∧
    sfu (.tanh false 8 13 1 false false) 0xFF8000007F800000 0 = some [0xBF8000003F800000] ∧
    sfu (.fdiv false 8 13 18 false 0 false true) 0x3FF0000000000000 0x8000000000000000 = some [0xFFF0000000000000] := by decide

/-! ## Memory -/

/-- Witness of Loads: LD of lanes 0 and 31 of doublewords in an HC page, and of words with a sign; LDU below its base. -/
theorem wit_Loads :
    Ready (.ld false 8 13 0 3) fB (atB (.ld false 8 13 0 3)) .load (fun _ => false) (szOf 3) (fun l => eaM (Safe.src (.ld false 8 13 0 3) fB (atB (.ld false 8 13 0 3)) 0 l) 0 (szOf 3)) ∧
    Ready (.ld false 8 13 0x1FF 6) fB (coh 1 (atB (.ld false 8 13 0x1FF 6))) .load (fun _ => false) (szOf 6)
      (fun l => eaM (Safe.src (.ld false 8 13 0x1FF 6) fB (coh 1 (atB (.ld false 8 13 0x1FF 6))) 0 l) 0x1FF (szOf 6)) ∧
    Ready (.ldu false 8 13 0x1FF 6) f1 (w0 13 0x2FF8 (at1 (.ldu false 8 13 0x1FF 6))) .load (fun _ => false) (szOf 6)
      (fun _ => eaM (Safe.src (.ldu false 8 13 0x1FF 6) f1 (w0 13 0x2FF8 (at1 (.ldu false 8 13 0x1FF 6))) 0 0) 0x1FF (szOf 6)) ∧
    (xlOf (.ld false 8 13 0 3) fB (atB (.ld false 8 13 0 3)) .load (fun _ => false) 0 0x2800).kind = 0 ∧
    (xlOf (.ld false 8 13 0 3) fB (atB (.ld false 8 13 0 3)) .load (fun _ => false) 0 0x2800).coh = 0 :=
  ⟨ready_of (by decide), ready_of (by decide), ready_of (by decide), by decide, by decide⟩

/-- The bytes at 0x2800, as a little-endian word. -/
def put (n v : Nat) (s : State) : State := { s with mem := memWrite s.mem ((s.resolve 0x2800).getD 0) n v }

/-- What memory holds at 0x2800 after an instruction. -/
def held (n : Nat) (i : Instr) (s : State) : Option Nat := seen (exec i s) fun t => t.rd ((t.resolve 0x2800).getD 0) n

/-- R4, R209, R210: little-endian bytes, sign extension of a byte, a uniform load. -/
theorem test_loads :
    promised .ld (.ld false 8 13 0 3) (put 8 0x0102030405060708 (atB (.ld false 8 13 0 3))) = some [0x0102030405060708] ∧
    promised .ld (.ld false 8 13 1 4) (put 8 0x0102030405068008 (atB (.ld false 8 13 1 4))) = some [0xFFFFFFFFFFFFFF80] ∧
    promised .ld (.ldu false 8 13 0 1) (put 8 0x8008 (w0 13 0x2800 (at1 (.ldu false 8 13 0 1)))) = some [0x8008] := by decide

/-- Witness of Stores: ST into HC and SW memory, STU, FQST of four FP16 values to E5M2 and of four to 6-bit values. -/
theorem wit_Stores :
    Ready (.st false 18 13 0 3) fB (atB (.st false 18 13 0 3)) .store (fun _ => false) 8 (fun l => eaM (Safe.src (.st false 18 13 0 3) fB (atB (.st false 18 13 0 3)) 0 l) 0 8) ∧
    Ready (.st false 18 13 0x1FF 0) fB (coh 1 (atB (.st false 18 13 0x1FF 0))) .store (fun _ => false) 1
      (fun l => eaM (Safe.src (.st false 18 13 0x1FF 0) fB (coh 1 (atB (.st false 18 13 0x1FF 0))) 0 l) 0x1FF 1) ∧
    Ready (.stu false 18 13 0 2) f1 (w0 13 0x2FFC (at1 (.stu false 18 13 0 2))) .store (fun _ => false) 4
      (fun _ => eaM (Safe.src (.stu false 18 13 0 2) f1 (w0 13 0x2FFC (at1 (.stu false 18 13 0 2))) 0 0) 0 4) ∧
    Ready (.fqst false 18 13 2 true 1 false 2 3) fB (atB (.fqst false 18 13 2 true 1 false 2 3)) .store (fun _ => false) 4
      (fun l => (Safe.src (.fqst false 18 13 2 true 1 false 2 3) fB (atB (.fqst false 18 13 2 true 1 false 2 3)) 0 l).toNat % 2 ^ 48) ∧
    Ready (.fqst false 18 13 0 false 3 true 2 6) fB (atB (.fqst false 18 13 0 false 3 true 2 6)) .store (fun _ => false) 4
      (fun l => (Safe.src (.fqst false 18 13 0 false 3 true 2 6) fB (atB (.fqst false 18 13 0 false 3 true 2 6)) 0 l).toNat % 2 ^ 48) ∧
    (xlOf (.st false 18 13 0x1FF 0) fB (coh 1 (atB (.st false 18 13 0x1FF 0))) .store (fun _ => false) 0 0x27FF).coh = 1 :=
  ⟨ready_of (by decide), ready_of (by decide), ready_of (by decide), ready_of (by decide), ready_of (by decide), by decide⟩

/-- R75, R201, R209: four bytes written and no more; a store to SW memory still on its way; −2.0 and 1.0 quantised to E5M2. -/
theorem test_stores :
    held 8 (.st false 18 13 0 2) (put 8 0xFFFFFFFFFFFFFFFF (x0 18 0x0102030405060708 (atB (.st false 18 13 0 2)))) = some 0xFFFFFFFF05060708 ∧
    held 8 (.st false 18 13 0 2) (coh 1 (x0 18 5 (atB (.st false 18 13 0 2)))) = some 0 ∧
    seen (exec (.st false 18 13 0 2) (coh 1 (x0 18 5 (atB (.st false 18 13 0 2))))) (fun t => t.stores.map fun e => (e.val.toNat, e.size)) = some [(5, 4), (0, 4)] ∧
    held 4 (.stu false 18 13 0 1) (w0 18 0x12345 (w0 13 0x2800 (at1 (.stu false 18 13 0 1)))) = some 0x2345 ∧
    held 4 (.fqst false 18 13 0 false 0 false 2 3) (x0 18 0xC0003C00 (atB (.fqst false 18 13 0 false 0 false 2 3))) = some 0xC03C := by decide +kernel

/-- Witness of Atomics: AMO with release order, CAS and RED of lanes 0 and 31 in HC memory. -/
theorem wit_Atomics :
    Ready (.amo false 8 13 18 2 true 0) fB (atB (.amo false 8 13 18 2 true 0)) .rw (fun y => y.kind = 1 && !true) 8
      (fun l => (Safe.src (.amo false 8 13 18 2 true 0) fB (atB (.amo false 8 13 18 2 true 0)) 0 l).toNat % 2 ^ 48) ∧
    Ready (.cas false 8 13 18 3 false) fB (atB (.cas false 8 13 18 3 false)) .rw (fun y => y.kind = 1 && !true) 4
      (fun l => (Safe.src (.cas false 8 13 18 3 false) fB (atB (.cas false 8 13 18 3 false)) 0 l).toNat % 2 ^ 48) ∧
    Ready (.red false 13 18 0 true 7) fB (atB (.red false 13 18 0 true 7)) .rw (fun y => y.kind = 1 && !false) 8
      (fun l => (Safe.src (.red false 13 18 0 true 7) fB (atB (.red false 13 18 0 true 7)) 0 l).toNat % 2 ^ 48) ∧
    Safe.settled (atB (.amo false 8 13 18 2 true 0)) ∧ Safe.settled (atB (.cas false 8 13 18 3 false)) ∧ Safe.settled (atB (.red false 13 18 0 true 7)) ∧
    ((atB (.amo false 8 13 18 2 true 0)).team 0).regions = [] ∧
    ∀ l, fB.lanes.getLsbD l = true → (atB (.amo false 8 13 18 2 true 0)).relWaits ((Safe.iss (.amo false 8 13 18 2 true 0) fB (atB (.amo false 8 13 18 2 true 0))).who l) 1 = false := by
  refine ⟨ready_of (by decide), ready_of (by decide), ready_of (by decide), ?_, ?_, ?_, by decide, of_lanes (by decide)⟩ <;>
    exact ⟨by decide, by decide, by decide⟩

/-- Two lanes at one address, the second after the first (R85, R215–R218). -/
def atomic (i : Instr) (m a b : Nat) (look : State → Nat) : Option Nat :=
  seen (exec i (put 8 m (onG (fun g => (((g.setX 0 18 (BitVec.ofNat 64 a)).setX 31 18 (BitVec.ofNat 64 b)).setX 31 13 0x2800).setX 0 8 0) (atB i)))) look

/-- R215–R218: the sum of both lanes, lane 31's view of memory after lane 0, a comparison that holds once, a signed minimum. -/
theorem test_atomics :
    atomic (.amo false 8 13 18 0 true 0) 10 1 2 (fun t => t.rd ((t.resolve 0x2800).getD 0) 8) = some 13 ∧
    atomic (.amo false 8 13 18 0 true 6) 10 1 2 (fun t => (((t.grp 0 0).out.filter fun q => decide (q.lane = 31)).map fun q => q.val.toNat).headD 0) = some 1 ∧
    atomic (.cas false 8 13 18 0 true) 0 7 9 (fun t => t.rd ((t.resolve 0x2800).getD 0) 8) = some 7 ∧
    atomic (.red false 13 18 0 false 4) 0 0xFFFFFFFF 1 (fun t => t.rd ((t.resolve 0x2800).getD 0) 8) = some 0xFFFFFFFF := by decide

/-! ## The window, fences and caches -/

/-- x13 of lane 0 is 0 and of lane 31 the first offset past the window of 4,096 lines. -/
def atW (i : Instr) : State := { onG (fun g => g.setX 31 13 0x80000) (at_ i) with focus := some fB }

/-- Witness of WindowAccesses: each form issues with one lane inside the window and one past its end. -/
theorem wit_WindowAccesses :
    (∀ i ∈ [Instr.lds false 8 13 0 3, .sts false 18 13 0 3, .samo false 8 13 18 true 0, .samoCas false 8 13 18 false], Safe.Issues i fB (atW i)) ∧
    Safe.windowReady fB (atW (.lds false 8 13 0 3)) 8 (fun l => eaM (Safe.src (.lds false 8 13 0 3) fB (atW (.lds false 8 13 0 3)) 0 l) 0 8) ∧
    Safe.windowReady fB (atW (.samoCas false 8 13 18 false)) 4 (fun l => (Safe.src (.samoCas false 8 13 18 false) fB (atW (.samoCas false 8 13 18 false)) 0 l).toNat % 2 ^ 48) ∧
    (∀ k, (((atW (.samo false 8 13 18 true 0)).team 0).line k).poison = false) ∧
    ((atW (.lds false 8 13 0 3)).team 0).inRange 0 8 = true ∧ ((atW (.lds false 8 13 0 3)).team 0).inRange 0x80000 8 = false ∧
    ((atW (.lds false 8 13 0 3)).team 0).sperr.getLsbD 63 = false :=
  ⟨fun i hi => issues_of ((by decide : ∀ i ∈ [Instr.lds false 8 13 0 3, .sts false 18 13 0 3, .samo false 8 13 18 true 0, .samoCas false 8 13 18 false],
    issuesB i fB (atW i) = true) i hi), of_lanes (by decide), of_lanes (by decide), fun _ => rfl, by decide, by decide, by decide⟩

/-- R69, R212, R220: a load and a store past the window, noted in SY.SPERR; bytes of the window; an atomic on it. -/
theorem test_window :
    seen (exec (.lds false 8 13 0 3) (atW (.lds false 8 13 0 3))) (fun t => ((t.team 0).sperr.toNat, ((t.grp 0 0).out.map fun q => q.val.toNat))) =
      some (2 ^ 63 + 0x80000, [0, 0]) ∧
    seen (exec (.sts false 18 13 0 1) (x0 18 0x12345 (atW (.sts false 18 13 0 1)))) (fun t => ((t.team 0).spRead 0 4, (t.team 0).sperr.toNat)) =
      some (0x2345, 2 ^ 63 + 2 ^ 62 + 0x80000) ∧
    seen (exec (.samo false 8 13 18 true 0) (onT (fun tm => tm.spWrite 0 8 40) (x0 18 2 (atW (.samo false 8 13 18 true 0)))))
      (fun t => ((t.team 0).spRead 0 8, (t.grp 0 0).out.map fun q => q.val.toNat)) = some (42, [40, 0]) ∧
    seen (exec (.samoCas false 8 13 18 true) (onT (fun tm => tm.spWrite 0 8 40) (x0 8 40 (x0 18 2 (atW (.samoCas false 8 13 18 true))))))
      (fun t => (t.team 0).spRead 0 8) = some 2 := by decide

/-- A load of lane 0 on its way. -/
def coming : Pend := { id := 9, seq := 0, kind := .ld, lane := 0, lanes := 1, file := .x, reg := 20, val := 5, mem := true }

/-- Witnesses of Fences: all three issue, with nothing to wait for; an acquire with a load on its way. -/
theorem wit_Fences : (∀ i ∈ [Instr.fenceRel false 0, .fenceRel false 2, .fenceAcq false 1, .fenceAr false 2], Safe.Issues i fAll (at_ i)) ∧
    ((at_ (.fenceRel false 2)).team 0).regions = [] ∧
    (∀ l, fAll.lanes.getLsbD l = true → (at_ (.fenceRel false 2)).relWaits ((Safe.iss (.fenceRel false 2) fAll (at_ (.fenceRel false 2))).who l) 2 = false) ∧
    (∀ l, fAll.lanes.getLsbD l = true → (Safe.grp fAll (at_ (.fenceAr false 2))).acqWaits l = false) ∧
    Safe.Issues (.fenceAcq false 1) fAll (onG (fun g => { g with out := [coming] }) (at_ (.fenceAcq false 1))) ∧
    (Safe.grp fAll (onG (fun g => { g with out := [coming] }) (at_ (.fenceAcq false 1)))).acqWaits 0 = true :=
  ⟨all_issue (by decide), by decide, of_lanes (by decide), of_lanes (by decide), issues_of (by decide), by decide⟩

/-- A modified copy in core 0's L1 of the line at 0x2800. -/
def modified : State → State := fun s =>
  { s with cache := { s.cache with l1 := [{ core := 0, line := (s.resolve 0x2800).getD 0 / 128, kind := 1, dirty := true, data := [(0, 7)] }] } }

/-- R77, R78: an acquire at .P drops SW lines, at .T nothing; a release clears SY.TSM. -/
theorem test_fences :
    seen (exec (.fenceAcq false 1) (modified (at1 (.fenceAcq false 1)))) (fun t => t.cache.l1.length) = some 0 ∧
    seen (exec (.fenceAcq false 0) (modified (at1 (.fenceAcq false 0)))) (fun t => t.cache.l1.length) = some 1 ∧
    seen (exec (.fenceRel false 1) (ths (fun th => { th with tsm := 3 }) (at1 (.fenceRel false 1)))) (fun t => (((t.grp 0 0).th 0).tsm, ((t.grp 0 0).th 1).tsm)) =
      some (0, 3) := by decide

/-- Witnesses of CacheMaintenance: each issues, with a modified copy of the line, and no store of the lanes to a line on its way. -/
theorem wit_CacheMaintenance :
    (∀ i ∈ [Instr.pref false false 13 0, .pref false true 13 0, .wback false 0 13 0, .inval false 63 13 0], Safe.Issues i fB (modified (coh 1 (atB i)))) ∧
    Safe.quiet (modified (coh 1 (atB (.wback false 0 13 0)))) ∧
    (∀ w k, (modified (coh 1 (atB (.wback false 0 13 0)))).storesTo w k = false) ∧
    (((modified (coh 1 (atB (.wback false 0 13 0)))).maintLines (Safe.iss (.wback false 0 13 0) fB (modified (coh 1 (atB (.wback false 0 13 0))))) 0 1).map
      fun e => e.2.key / 128).contains (((atB (.wback false 0 13 0)).resolve 0x2800).getD 0 / 128) = true :=
  ⟨fun i hi => issues_of ((by decide : ∀ i ∈ [Instr.pref false false 13 0, .pref false true 13 0, .wback false 0 13 0, .inval false 63 13 0],
    issuesB i fB (modified (coh 1 (atB i))) = true) i hi), quiet_of (by decide), fun _ _ => rfl, by decide⟩

/-- R224–R226: what WBACK writes; what INVAL drops; what PREF brings. -/
theorem test_cache_maintenance :
    held 8 (.wback false 0 13 0) (modified (coh 1 (atB (.wback false 0 13 0)))) = some 7 ∧
    seen (exec (.wback false 0 13 0) (modified (coh 1 (atB (.wback false 0 13 0))))) (fun t => t.cache.l1.map fun e => e.dirty) = some [false] ∧
    seen (exec (.inval false 0 13 0) (modified (coh 1 (atB (.inval false 0 13 0))))) (fun t => t.cache.l1.length) = some 0 ∧
    seen (exec (.pref false false 13 0) (put 8 9 (coh 1 (atB (.pref false false 13 0))))) (fun t => t.cache.l1.map fun e => (e.dirty, memRead e.data 0 8)) =
      some [(false, 9), (false, 0)] := by decide +kernel

/-- A team with a trap handler at 0x4000. -/
def handled : State → State := onT fun tm => { tm with trapvec := 0x4000 }

/-- Lanes outside every handler, with nothing outstanding: decided for a mask of lanes. -/
def calmB (f : Focus) (s : State) : Bool :=
  ((lanesOf f.lanes).all fun l => !((Safe.grp f s).th l).inTrap && !((Safe.grp f s).th l).inSave) && !(Safe.grp f s).unready f.lanes &&
  (Safe.grp f s).tx.isNone && decide (f.lanes ≠ 0) && decide ((s.team f.team).trapvec ≠ 0)

theorem calm_of {f : Focus} {s : State} (h : calmB f s = true) : Safe.calm f s := by
  simp only [calmB, Bool.and_eq_true, List.all_eq_true, Bool.not_eq_true', decide_eq_true_eq, Option.isNone_iff_eq_none] at h
  obtain ⟨⟨⟨⟨h1, h2⟩, h3⟩, h4⟩, h5⟩ := h
  exact ⟨of_lanes h1, h2, h3, h4, h5⟩

/-- Witness of Publication: a descriptor at 0x2800, and a misaligned address where a trap enters the handler. -/
theorem wit_Publication :
    Ready (.publ false 13) f1 (w0 13 0x2800 (at1 (.publ false 13))) .store (fun y => y.kind != 0 || y.coh != 0) 16
      (fun _ => (Safe.src (.publ false 13) f1 (w0 13 0x2800 (at1 (.publ false 13))) 0 0).toNat % 2 ^ 48) ∧
    (w0 13 0x2800 (at1 (.publ false 13))).isPoison 0x402800 16 = false ∧
    Safe.Issues (.publ false 13) f1 (handled (w0 13 0x2808 (at1 (.publ false 13)))) ∧ Safe.calm f1 (handled (w0 13 0x2808 (at1 (.publ false 13)))) ∧
    (Safe.src (.publ false 13) f1 (handled (w0 13 0x2808 (at1 (.publ false 13)))) 0 0).toNat % 2 ^ 48 % 16 ≠ 0 :=
  ⟨ready_of (by decide), by decide, issues_of (by decide), calm_of (by decide), by decide⟩

/-- R227: the active index inverted, a generation count of 2^15 − 1 wrapped, the rest kept; a misaligned descriptor traps. -/
theorem test_publication :
    held 8 (.publ false 13) (put 8 0x7FFF000000001000 (w0 13 0x2800 (at1 (.publ false 13)))) = some 0x8000000000001000 ∧
    seen (exec (.publ false 13) (handled (w0 13 0x2808 (at1 (.publ false 13))))) (fun t => ((t.grp 0 0).th 0).trapCause.toNat) = some 4 := by decide

/-! ## Control -/

/-- Witnesses of TransfersOfControl: running lanes, aligned targets, and a misaligned one where a trap enters the handler. -/
theorem wit_TransfersOfControl :
    (∀ i ∈ [Instr.br false 1 false 18, .br false 0 true 0xFFFF0, .call false 8, .jmpr false 13, .jmprLink false 8 13, .ret false 13],
      Safe.Issues i fAll (handled (at_ i))) ∧
    (∀ i ∈ [Instr.br false 1 false 18, .call false 8, .jmpr false 13, .jmprLink false 8 13, .ret false 13], Safe.running fAll (handled (at_ i))) ∧
    (∀ l, fB.lanes.getLsbD l = true → (Safe.src (.jmpr false 13) fB (atB (.jmpr false 13)) 0 l).toNat % 2 ^ 48 % 4 = 0) ∧
    Safe.calm fB (handled (onG (fun g => g.setX 31 13 0x2802) (atB (.jmpr false 13)))) ∧
    (Safe.src (.jmpr false 13) fB (handled (onG (fun g => g.setX 31 13 0x2802) (atB (.jmpr false 13)))) 0 31).toNat % 2 ^ 48 % 4 ≠ 0 := by
  refine ⟨fun i hi => issues_of ((by decide : ∀ i ∈ [Instr.br false 1 false 18, .br false 0 true 0xFFFF0, .call false 8, .jmpr false 13, .jmprLink false 8 13,
    .ret false 13], issuesB i fAll (handled (at_ i)) = true) i hi), ?_, of_lanes (by decide), calm_of (by decide), by decide⟩
  intro i hi
  exact of_lanes ((by decide : ∀ i ∈ [Instr.br false 1 false 18, .call false 8, .jmpr false 13, .jmprLink false 8 13, .ret false 13],
    ∀ l ∈ lanesOf 0xFFFFFFFF, ((Safe.grp fAll (handled (at_ i))).th l).run = .running) i hi)

/-- Where lanes 0 and 1 stand after an instruction of lane 0. -/
def went (i : Instr) (s : State) : Option (Nat × Nat) :=
  seen (exec i s) fun t => (((t.grp 0 0).th 0).pt.addr.toNat, ((t.grp 0 0).th 1).pt.addr.toNat)

/-- R108, R228–R230: the word stands at 0x2004 behind the header at 0x2000, so that an offset of −16 words leads to 0x1FC0 and the next header
stands at 0x2008; links; a misaligned target. -/
theorem test_control :
    went (.br false 7 false 0xFFFF0) (at1 (.br false 7 false 0xFFFF0)) = some (0x1FC0, 0x2004) ∧
    went (.br false 0 false 0xFFFF0) (at1 (.br false 0 false 0xFFFF0)) = some (0x2008, 0x2004) ∧
    went (.call false 8) (at1 (.call false 8)) = some (0x2020, 0x2004) ∧
    seen (exec (.call false 8) (at1 (.call false 8))) (fun t => ((t.grp 0 0).xr 0 1).toNat) = some 0x2008 ∧
    went (.jmpr false 13) (x0 13 0x3000 (at1 (.jmpr false 13))) = some (0x3000, 0x2004) ∧
    seen (exec (.jmprLink false 8 13) (x0 13 0x3000 (at1 (.jmprLink false 8 13)))) (fun t => ((t.grp 0 0).xr 0 8).toNat) = some 0x2008 ∧
    went (.ret false 13) (x0 13 0x3004 (at1 (.ret false 13))) = some (0x3004, 0x2004) ∧
    went (.ret false 13) (handled (x0 13 0x3002 (at1 (.ret false 13)))) = some (0x4000, 0x2004) := by decide

/-- A header with the LD condition and three words; one without. -/
def hdrLd : Instr := .clauseHeader false false 0 false false false false false false false true 0 3
def hdr3 : Instr := .clauseHeader true false 0 false false false false false false false false 0 3

/-- Lanes at the header with the LD condition, while a load of lane 0 issued before is on its way. -/
def waiting : State := onG (fun g => { g with out := [coming] }) { at_ hdrLd with clk := { (at_ hdrLd).clk with seq := 1 } }

/-- Witnesses of ClauseHeaders: a header whose conditions hold, one whose condition does not. -/
theorem wit_ClauseHeaders : hdr3.wellFormed = true ∧ hdrLd.wellFormed = true ∧ (at_ hdr3).focus = some fAll ∧ waiting.focus = some fAll ∧
    ((at_ hdr3).team 0).dbgctl.getLsbD 1 = false ∧
    (Safe.onGrp fAll (at_ hdr3) fun g => g.mapTh fAll.lanes fun th => { th with reached := some (th.reached.getD (at_ hdr3).clk.seq) }).waitsHold
      (Safe.iss hdr3 fAll (at_ hdr3)) ⟨false, false, false, false, false, false, false, none⟩ 3 = true ∧
    (Safe.onGrp fAll waiting fun g => g.mapTh fAll.lanes fun th => { th with reached := some (th.reached.getD waiting.clk.seq) }).waitsHold
      (Safe.iss hdrLd fAll waiting) ⟨true, false, false, false, false, false, false, none⟩ 3 = false := by decide +kernel

/-- R92, R95: into the clause, and a wait for a load. -/
theorem test_clause_headers :
    went hdr3 (at1 hdr3) = some (0x2004, 0x2000) ∧
    went hdrLd { waiting with focus := some f1 } = some (0x2000, 0x2000) ∧
    seen (exec hdr3 (at1 hdr3)) (fun t => ((t.grp 0 0).th 0).pt.n) = some 3 := by decide
/-! ## Traps, rejoin masks and exits -/

/-- Lanes in trap-handler state with a resumption point. -/
def trapped : State → State := ths fun th => { th with inTrap := true, trapCause := 0x0E, trapPt := { hdr := 0x3000, pos := 1, n := 2 } }

/-- Witnesses of Traps: each kind of trap where a handler is entered, in a handler already, and where the team has no handler. -/
theorem wit_Traps : Safe.Issues (.trap false 5) f1 (handled (at1 (.trap false 5))) ∧ Safe.calm f1 (handled (at1 (.trap false 5))) ∧
    (Safe.grp f1 (handled (at1 (.trap false 5)))).unready f1.lanes = false ∧
    ((opOf (.mfs false 8 0x800)).bad ((handled (at1 (.mfs false 8 0x800))).team 0) (Safe.grp f1 (handled (at1 (.mfs false 8 0x800))))
      (Safe.place f1 (handled (at1 (.mfs false 8 0x800)))) f1.lanes (Safe.iss (.mfs false 8 0x800) f1 (handled (at1 (.mfs false 8 0x800)))).txl = false) ∧
    ((at1 (.mfs false 8 0x800)).team 0).harbour = false ∧
    (let s := onT (fun tm => { tm with dbgctl := 2, bpaddr := 0x2000 }) (handled (at1 hdr3))
     (s.team 0).dbgctl.getLsbD 1 = true ∧ (Safe.place f1 s).hdr = ((s.team 0).bpaddr.setWidth 48 : BitVec 48) ∧ calmB f1 s = true ∧ ((Safe.grp f1 s).th 0).bpSkip = false) ∧
    Safe.Issues (.trap false 5) f1 (trapped (at1 (.trap false 5))) ∧ Safe.running f1 (trapped (at1 (.trap false 5))) ∧
    (∀ l, f1.lanes.getLsbD l = true → ((Safe.grp f1 (trapped (at1 (.trap false 5)))).th l).inTrap = true) ∧
    (at1 (.trap false 5)).errHeld 0 = false ∧ ((at1 (.trap false 5)).team 0).trapvec = 0 ∧ ((at1 (.trap false 5)).team 0).kill = none :=
  ⟨issues_of (by decide), calm_of (by decide), by decide, by decide, by decide, by decide, issues_of (by decide), of_lanes (by decide), of_lanes (by decide),
    by decide, by decide, by decide⟩

/-- The trap registers of lane 0 and where it stands. -/
def trapSeen (i : Instr) (s : State) : Option (List Nat) :=
  seen (exec i s) fun t => let th := (t.grp 0 0).th 0
    [th.trapCause.toNat, th.trapPc.toNat, th.trapAddr.toNat, th.pt.addr.toNat]

/-- R101, R115, R128, R256, R257, R411, R415, R416: cause, SY.TRAPPC, SY.TRAPADDR and the handler. -/
theorem test_traps :
    trapSeen (.trap false 5) (handled (at1 (.trap false 5))) = some [0x0E, 0x2004, 5, 0x4000] ∧
    trapSeen (.illegalInstruction 0) (handled (at1 (.nop false))) = some [0x01, 0x2004, 0, 0x4000] ∧
    trapSeen (.illegalClauseHeader 0) (handled (at1 hdr3)) = some [0x02, 0x2000, 0, 0x4000] ∧
    trapSeen (.mfs false 8 0x800) (handled (at1 (.mfs false 8 0x800))) = some [0x03, 0x2004, 0x800, 0x4000] ∧
    trapSeen hdr3 (onT (fun tm => { tm with dbgctl := 2, bpaddr := 0x2000 }) (handled (at1 hdr3))) = some [0x0F, 0x2000, 0, 0x4000] ∧
    seen (exec (.trap false 5) (trapped (at1 (.trap false 5)))) (fun t => ((t.grp 0 0).pr 6 0, ((t.grp 0 0).th 0).pt.addr.toNat)) = some (true, 0x2008) ∧
    seen (exec (.trap false 5) (at1 (.trap false 5))) (fun t => (t.team 0).kill) = some (some 0x0E) := by decide

/-- Witnesses of TrapReturns: ERET issues in a handler, and no restart names a register that is none. -/
theorem wit_TrapReturns : (∀ i ∈ [Instr.eret false, .eretNext true], Safe.Issues i f1 (trapped (at1 i))) ∧
    ∀ l p d v, ((Safe.grp f1 (trapped (at1 (.eret false)))).th l).trapTx = some (p, d, v) → d < 64 := by
  refine ⟨fun i hi => issues_of ((by decide : ∀ i ∈ [Instr.eret false, .eretNext true], issuesB i f1 (trapped (at1 i)) = true) i hi), ?_⟩
  intro l p d v h
  by_cases hl : l < 32
  · have e : ∀ l < 32, ((Safe.grp f1 (trapped (at1 (.eret false)))).th l).trapTx = none := by decide +kernel
    simp [e l hl] at h
  · have e : ((Safe.grp f1 (trapped (at1 (.eret false)))).th l).trapTx = none := by
      have hk : ∀ (m : SMap Thread), (m.map Prod.fst).all (· < 32) = true → SMap.get ({} : Thread) m l = {} := by
        intro m hm
        induction m with
        | nil => rfl
        | cons a t ih =>
          obtain ⟨k, w⟩ := a
          simp only [List.map_cons, List.all_cons, Bool.and_eq_true, decide_eq_true_eq] at hm
          have hk : ¬ l = k := by omega
          simp only [SMap.get, if_neg hk]
          exact ih hm.2
      have : ((Safe.grp f1 (trapped (at1 (.eret false)))).th l) = {} := hk _ (by decide +kernel)
      rw [this]
    simp [e] at h

/-- R257: to the trapping word, and past it. -/
theorem test_trap_returns :
    went (.eret false) (trapped (at1 (.eret false))) = some (0x3004, 0x2004) ∧ went (.eretNext false) (trapped (at1 (.eretNext false))) = some (0x3008, 0x2004) ∧
    seen (exec (.eret false) (trapped (at1 (.eret false)))) (fun t => (((t.grp 0 0).th 0).inTrap, ((t.grp 0 0).th 1).inTrap)) = some (false, true) := by decide

/-- Witnesses of RejoinMasks: the three words issue in running lanes, and a mask that fills, and one that does not. -/
theorem wit_RejoinMasks : (∀ i ∈ [Instr.enrol false 1, .strike false 7, .rejoin false 0], Safe.Issues i f1 (at1 i)) ∧
    Safe.running f1 (at1 (.rejoin false 0)) ∧
    (((at1 (.rejoin false 0)).grp 0 0).enrOf 0 ||| f1.lanes) &&& ~~~ (((at1 (.rejoin false 0)).grp 0 0).arrOf 0 ||| f1.lanes) = 0 ∧
    ((onG (fun g => { g with enr := [(0, 3)] }) (at1 (.rejoin false 0))).grp 0 0).enrOf 0 &&& ~~~ (f1.lanes : LaneMask) ≠ 0 :=
  ⟨fun i hi => issues_of ((by decide : ∀ i ∈ [Instr.enrol false 1, .strike false 7, .rejoin false 0], issuesB i f1 (at1 i) = true) i hi),
    of_lanes (by decide), by decide, by decide⟩

/-- R232–R234: a mask joined and left; a lane parked until the other arrives; a mask of one lane that empties at once. -/
theorem test_rejoin :
    seen (exec (.enrol false 1) (at1 (.enrol false 1))) (fun t => (t.grp 0 0).enrOf 1) = some 1 ∧
    seen (exec (.strike false 1) (onG (fun g => { g with enr := [(1, 3)] }) (at1 (.strike false 1)))) (fun t => (t.grp 0 0).enrOf 1) = some 2 ∧
    seen (exec (.rejoin false 0) (onG (fun g => { g with enr := [(0, 3)] }) (at1 (.rejoin false 0)))) (fun t => (((t.grp 0 0).th 0).run, (t.grp 0 0).arrOf 0)) =
      some (.rejoin 0, 1) ∧
    seen (exec (.rejoin false 0) (at1 (.rejoin false 0))) (fun t => (((t.grp 0 0).th 0).run, (t.grp 0 0).enrOf 0)) = some (.running, 0) := by decide

/-- Witnesses of Exits: the last lanes, and one of several. -/
theorem wit_Exits : Safe.Issues (.exit false) fAll (at_ (.exit false)) ∧ (Safe.grp fAll (at_ (.exit false))).tx = none ∧
    (∀ l, l < 32 → fAll.lanes.getLsbD l = false → ((Safe.grp fAll (at_ (.exit false))).th l).run = .exited) ∧
    Safe.Issues (.exit false) f1 (at1 (.exit false)) ∧ f1.lanes.getLsbD 1 = false ∧ ((Safe.grp f1 (at1 (.exit false))).th 1).run = .running :=
  ⟨issues_of (by decide), by decide, fun l hl h => absurd h (by simp [(by decide : ∀ l < 32, fAll.lanes.getLsbD l = true) l hl]), issues_of (by decide), by decide, by decide⟩

/-- R51, R231, R234: an exit leaves every mask; the last ends the group. -/
theorem test_exits :
    seen (exec (.exit false) (onG (fun g => { g with enr := [(2, 3)] }) (at1 (.exit false)))) (fun t => (((t.grp 0 0).th 0).run, (t.grp 0 0).enrOf 2, (t.grp 0 0).st)) =
      some (.exited, 2, .active) ∧
    seen (exec (.exit false) (at_ (.exit false))) (fun t => (t.grp 0 0).st) = some .done := by decide

/-! ## Transactions -/

/-- A transaction of lanes 0 and 1, its status for x8, with a write of 1 at 0x2800 gathered. -/
def tx2 : Tx :=
  { parts := 3, dreg := 8, beg := { hdr := 0x2000, pos := 1, cls := 5, n := 4 }, aft := { hdr := 0x2000, pos := 2, cls := 5, n := 4 }, reads := [0x402800 / 128],
    data := { wlines := [0x402800 / 128], writes := [(0x402800, some 1)] }, ck := { x := [(7, 99)] } }

/-- The group inside the transaction. -/
def inTx (x : Tx) : State → State := onG fun g => { g.mapTh x.parts fun th => { th with txNest := 1 } with tx := some x }

/-- Witnesses of TransactionAborts and TransactionInstructions: TXBEG without a transaction, the others inside one, a frame, a read set that fits,
lanes of P still running, all of P at TXEND. -/
theorem wit_TransactionAborts_TransactionInstructions :
    Safe.Issues (.txbeg false 8) f1 (at1 (.txbeg false 8)) ∧ (Safe.grp f1 (at1 (.txbeg false 8))).tx = none ∧
    (∀ i ∈ [Instr.txelse false 8, .txabt false 8, .retry false, .txend false], Safe.Issues i { f1 with lanes := 3 } { inTx tx2 (at1 i) with focus := some { f1 with lanes := 3 } }) ∧
    (Safe.grp f1 (inTx tx2 (at1 (.txabt false 8)))).tx = some tx2 ∧ tx2.dreg < 64 ∧ SMap.wf (α := Word) 0 tx2.ck.x = true ∧ tx2.frames.length < 8 ∧
    Safe.Issues (.retry false) { f1 with lanes := 3 } { inTx { tx2 with frames := [{}] } (at1 (.retry false)) with focus := some { f1 with lanes := 3 } } ∧
    (at1 (.retry false)).cache.wake.length + tx2.reads.length ≤ 512 ∧
    Safe.Issues (.txend false) f1 (inTx tx2 (at1 (.txend false))) ∧ ((Safe.grp f1 (inTx tx2 (at1 (.txend false)))).th 1).run = .running ∧
    State.txBlocked (inTx tx2 (at1 (.txend false))) 0 0 0 tx2 = false ∧ (tx2.datas.flatMap fun e => e.held) = [] :=
  ⟨issues_of (by decide), by decide, fun i hi => issues_of ((by decide : ∀ i ∈ [Instr.txelse false 8, .txabt false 8, .retry false, .txend false],
    issuesB i { f1 with lanes := 3 } { inTx tx2 (at1 i) with focus := some { f1 with lanes := 3 } } = true) i hi), by decide, by decide, by decide, by decide,
    issues_of (by decide), by decide, issues_of (by decide), by decide, by decide, by decide⟩

/-- An instruction of lanes 0 and 1 inside the transaction. -/
def inside {α : Type} (i : Instr) (look : State → α) : Option α := seen (exec i { inTx tx2 (at1 i) with focus := some { f1 with lanes := 3 } }) look

/-- Witness of Publication: PUBL in a transaction with room in its write set. -/
theorem wit_Publication_held :
    let i := Instr.publ false 13
    let s := inTx tx2 (w0 13 0x2800 (at1 i))
    issuesB i f1 s = true ∧ (Safe.grp f1 s).tx = some tx2 ∧ tx2.parts.getLsbD 0 = true ∧ (tx2.addWrite (0x402800 / 128)).isSome = true ∧
    (match s.check (Safe.iss i f1 s).rg (Safe.iss i f1 s).core .store true 0x2800 (fun y => y.kind != 0 || y.coh != 0) keepAct (s.servedBy (Safe.iss i f1 s).core 0 false) with
     | .ok x => x.key = 0x402800 && !s.drainDue ((Safe.iss i f1 s).who 0) x && !s.isPoison x.key 16
     | .error _ => false) = true := by decide

/-- R239–R245: TXBEG; the status of TXABT 8 and the checkpoint's x7; sleep on the read set; the commit's write. -/
theorem test_transactions :
    seen (exec (.txbeg false 8) (x0 8 5 (at1 (.txbeg false 8)))) (fun t => ((t.grp 0 0).xr 0 8, ((t.grp 0 0).th 0).txNest, (t.grp 0 0).tx.isSome)) = some (0, 1, true) ∧
    inside (.txelse false 8) (fun t => (((t.grp 0 0).th 0).txNest, (t.grp 0 0).tx.map fun x => x.frames.length)) = some (2, some 1) ∧
    inside (.txabt false 8) (fun t => ((t.grp 0 0).xr 0 8, (t.grp 0 0).xr 0 7, ((t.grp 0 0).th 0).pt.pos, (t.grp 0 0).tx.isSome)) = some (0x802, 99, 2, false) ∧
    inside (.retry false) (fun t => ((t.grp 0 0).st, t.cache.wake)) = some (.sleep, [(0x402800 / 128, 0, 0)]) ∧
    inside (.txend false) (fun t => (t.rd 0x402800 1, (t.grp 0 0).tx.isSome)) = some (1, false) := by decide
/-! ## Tasks, barriers and weights -/

/-- A task record of one team of one group that waits for one dependency. -/
def img1 : Nat := 2 ^ 32 + (1 + 2 ^ 16 + 2 ^ 32) * 2 ^ 256

/-- Lane 31's record stands one line behind lane 0's; DEPCNT of both is 33, the least at which no count comes near zero. -/
def atRec (i : Instr) : State := onG (fun g => g.setX 31 13 0x2880) (let s := atB i; { s with mem := memWrite (memWrite s.mem 0x402804 4 33) 0x402884 4 33 })

/-- Lane 0 with a record at 0x2800. -/
def atSpawn (m : Nat) (i : Instr) : State := let s := x0 13 0x2800 (at1 i); { s with mem := memWrite s.mem 0x402800 128 m }

/-- Witnesses of TaskCreation: TDEC; TSPAWN of lane 31; of the leader, accepted, with a foreign root and with too little weight. -/
theorem wit_TaskCreation :
    Ready (.tdec false 13) fB (atRec (.tdec false 13)) .store notHc 128 (fun l => (Safe.src (.tdec false 13) fB (atRec (.tdec false 13)) 0 l).toNat % 2 ^ 48) ∧
    (∀ l, fB.lanes.getLsbD l = true → let x := xlOf (.tdec false 13) fB (atRec (.tdec false 13)) .store notHc l ((Safe.src (.tdec false 13) fB (atRec (.tdec false 13)) 0 l).toNat % 2 ^ 48)
      x.key % 128 = 0 ∧ (atRec (.tdec false 13)).resolve x.pa = some x.key ∧ 32 < (atRec (.tdec false 13)).rd (x.key + 4) 4) ∧
    Safe.Issues (.tspawn false 8 13) { f1 with lanes := 0x80000000 } { at1 (.tspawn false 8 13) with focus := some { f1 with lanes := 0x80000000 } } ∧
    Ready (.tspawn false 8 13) f1 (atSpawn img1 (.tspawn false 8 13)) .store notHc 128 (fun _ => (Safe.src (.tspawn false 8 13) f1 (atSpawn img1 (.tspawn false 8 13)) 0 0).toNat % 2 ^ 48) ∧
    ((Safe.grp f1 (atSpawn img1 (.tspawn false 8 13))).th 0).depth ≠ 9 ∧ (atSpawn img1 (.tspawn false 8 13)).isPoison 0x402800 128 = false ∧ isLedge 0 = false ∧
    recKind (BitVec.ofNat 1024 img1) ≠ 3 ∧ recBad (BitVec.ofNat 1024 img1) false = false ∧ recRoot (BitVec.ofNat 1024 img1) = 0 ∧ recDepcnt (BitVec.ofNat 1024 img1) ≠ 0 ∧
    (let m := BitVec.ofNat 1024 (img1 + 5 * 2 ^ 384 + 0x1000 * 2 ^ 448)
     recBad m false = false ∧ recRoot m = 0x1000 ∧ recWeight m = 5 ∧ 0x1000 ≠ ((atSpawn img1 (.tspawn false 8 13)).team 0).root) :=
  ⟨ready_of (by decide), of_lanes (by decide), issues_of (by decide), ready_of (by decide), by decide, by decide, by decide, by decide +kernel, by decide +kernel,
    by decide +kernel, by decide +kernel, by decide +kernel⟩

/-- R246, R247: both counts fall; a lane that is not the leader; a record accepted to wait; a foreign root; weight short by one. -/
theorem test_tasks :
    seen (exec (.tdec false 13) (atRec (.tdec false 13))) (fun t => (t.rd 0x402804 4, t.rd 0x402884 4)) = some (32, 32) ∧
    seen (exec (.tspawn false 8 13) (atSpawn img1 (.tspawn false 8 13))) (fun t => (t.sched.grids.map fun g => (g.st, g.next), (t.grp 0 0).out.map fun q => q.val.toNat)) =
      some ([(.waiting, 0)], [0]) ∧
    promised .ld (.tspawn false 8 13) (atSpawn (img1 + 5 * 2 ^ 384 + 0x1000 * 2 ^ 448) (.tspawn false 8 13)) = some [3] ∧
    promised .ld (.tspawn false 8 13) (onT (fun tm => { tm with root := 0x1000 }) (ths (fun th => { th with weight := 4 })
      (atSpawn (img1 + 5 * 2 ^ 384 + 0x1000 * 2 ^ 448) (.tspawn false 8 13)))) = some [2] := by decide +kernel

/-- BARV on the object at an offset, with its fields. -/
def atBarv (off d : Nat) (s : State) : State := onT (fun tm => tm.spWrite 8 8 d) (xs 13 (fun _ => off) s)

/-- Witnesses of Barriers: ready with another lane running; ready as the last lanes; misaligned; one byte past the window. -/
theorem wit_Barriers :
    Safe.Issues (.barv false 13) f1 (atBarv 8 2 (at1 (.barv false 13))) ∧ Safe.running f1 (atBarv 8 2 (at1 (.barv false 13))) ∧
    (Safe.src (.barv false 13) f1 (atBarv 8 2 (at1 (.barv false 13))) 0 0).toNat % 2 ^ 48 = 8 ∧
    8 + 8 ≤ ((atBarv 8 2 (at1 (.barv false 13))).team 0).spl * 128 ∧ ((atBarv 8 2 (at1 (.barv false 13))).team 0).rgnAt 0 = none ∧
    (((atBarv 8 2 (at1 (.barv false 13))).team 0).line 0).absent = false ∧ (∀ l, f1.lanes.getLsbD l = true → (Safe.grp f1 (atBarv 8 2 (at1 (.barv false 13)))).acqWaits l = false) ∧
    ((Safe.grp f1 (atBarv 8 2 (at1 (.barv false 13)))).th 1).run = .running ∧
    Safe.Issues (.barv false 13) fAll (atBarv 8 2 (at_ (.barv false 13))) ∧ (Safe.grp fAll (atBarv 8 2 (at_ (.barv false 13)))).barOff = none ∧
    ((atBarv 8 2 (at_ (.barv false 13))).team 0).spRead 8 8 = 2 ∧
    Safe.calm f1 (handled (atBarv 4 2 (at1 (.barv false 13)))) ∧ Safe.calm f1 (handled (atBarv 0x80000 2 (at1 (.barv false 13)))) ∧
    ((handled (atBarv 0x80000 2 (at1 (.barv false 13)))).team 0).spl * 128 < 0x80000 + 8 :=
  ⟨issues_of (by decide), of_lanes (by decide), by decide, by decide, by decide, by decide, of_lanes (by decide), by decide, issues_of (by decide), by decide,
    by decide, calm_of (by decide), calm_of (by decide), by decide⟩

/-- R56, R248, R249: the first of two groups waits; the second completes the generation; misaligned and out of range. -/
theorem test_barriers :
    seen (exec (.barv false 13) (atBarv 8 2 (at_ (.barv false 13)))) (fun t => ((t.team 0).spRead 8 8, (t.grp 0 0).st, (t.grp 0 0).cont)) = some (2 + 2 ^ 16, .barrier, false) ∧
    seen (exec (.barv false 13) (atBarv 8 (2 + 2 ^ 16) (at_ (.barv false 13)))) (fun t => ((t.team 0).spRead 8 8, (t.grp 0 0).cont)) = some (2 + 2 ^ 32, true) ∧
    seen (exec (.barv false 13) (atBarv 8 2 (at1 (.barv false 13)))) (fun t => ((t.team 0).spRead 8 8, ((t.grp 0 0).th 0).pt.addr.toNat)) = some (2, 0x2008) ∧
    trapSeen (.barv false 13) (handled (atBarv 4 2 (at1 (.barv false 13)))) = some [4, 0x2004, 4, 0x4000] ∧
    trapSeen (.barv false 13) (handled (atBarv 0x80000 2 (at1 (.barv false 13)))) = some [6, 0x2004, 0x80000, 0x4000] := by decide

/-- Lane 0 of a team with a root at 0x2800 and 10 units in every lane. -/
def weighty (i : Instr) : State := dev (onT (fun tm => { tm with root := 0x2800 }) (ths (fun th => { th with weight := 10 }) (at1 i)))

/-- Whether the root at 0x2800 is reached and has room for more units. -/
def rootRoom (s : State) (n : Nat) : Bool :=
  match (s.reach 0 false .rw 0x2800 128).1 with
  | .ok x => decide (s.rd (x.key + 0x20) 8 + n ≤ 2 ^ 62)
  | _ => false

/-- Witnesses of WeightMoves: WSPLIT, WRET of lanes that have drained, WBORROW refused and granted. -/
theorem wit_WeightMoves :
    (∀ i ∈ [Instr.wsplit false 8 13, .wsplitLdr false 8 13, .wret false, .wborrow false 8 13], Safe.Issues i f1 (weighty i)) ∧
    (Safe.grp f1 (weighty (.wret false))).tx = none ∧ (∀ l, f1.lanes.getLsbD l = true → (weighty (.wret false)).drained 0 0 l = true) ∧
    (∀ q ∈ (Safe.grp f1 (weighty (.wborrow false 8 13))).out, q.id < (weighty (.wborrow false 8 13)).clk.ids) ∧
    (Safe.src (.wborrow false 8 13) f1 (weighty (.wborrow false 8 13)) 0 0).toNat = 0 ∧ lanesOf f1.lanes = [0] ∧ Safe.quiet (weighty (.wborrow false 8 13)) ∧
    Safe.Issues (.wborrow false 8 13) f1 (x0 13 (2 ^ 32) (weighty (.wborrow false 8 13))) ∧
    (Safe.src (.wborrow false 8 13) f1 (x0 13 (2 ^ 32) (weighty (.wborrow false 8 13))) 0 0).toNat = 2 ^ 32 ∧
    (x0 13 (2 ^ 32) (weighty (.wborrow false 8 13))).weightOf 0 0 0 ≠ 0 ∧
    rootRoom (x0 13 (2 ^ 32) (weighty (.wborrow false 8 13))) (2 ^ 32) = true :=
  ⟨fun i hi => issues_of ((by decide : ∀ i ∈ [Instr.wsplit false 8 13, .wsplitLdr false 8 13, .wret false, .wborrow false 8 13], issuesB i f1 (weighty i) = true) i hi),
    by decide, of_lanes (by decide), by decide, by decide, by decide, quiet_of (by decide), issues_of (by decide), by decide, by decide, by decide⟩

/-- R250–R252: two lanes share the 10 units of the leader, 7 granted and 4 refused; a return; a borrow of 5. -/
theorem test_weights :
    seen (exec (.wsplitLdr false 8 13) { onG (fun g => (((g.setX 1 13 7).setX 2 13 4).updTh 1 fun th => { th with weight := 0 }).updTh 2 fun th => { th with weight := 0 })
      (weighty (.wsplitLdr false 8 13)) with focus := some { f1 with lanes := 6 } }) (fun t => ((t.grp 0 0).xr 1 8, (t.grp 0 0).xr 2 8, t.weightOf 0 0 0, t.weightOf 0 0 1)) = some (7, 0, 3, 7) ∧
    seen (exec (.wsplit false 8 13) (x0 13 7 (weighty (.wsplit false 8 13)))) (fun t => ((t.grp 0 0).xr 0 8, t.weightOf 0 0 0)) = some (10, 10) ∧
    seen (exec (.wret false) (weighty (.wret false))) (fun t => t.weightOf 0 0 0) = some 0 ∧
    seen (exec (.wborrow false 8 13) (x0 13 5 (weighty (.wborrow false 8 13)))) (fun t => (t.weightOf 0 0 0, t.rd 0x402820 8)) = some (15, 5) ∧
    promised .ld (.wborrow false 8 13) (x0 13 (2 ^ 32 + 1) (weighty (.wborrow false 8 13))) = some [0] := by decide

/-! ## System registers and scheduling -/

/-- The instructions of a list all issue for lane 0. -/
theorem all_issue1 {L : List Instr} (h : ∀ i ∈ L, issuesB i f1 (at1 i) = true) : ∀ i ∈ L, Safe.Issues i f1 (at1 i) :=
  fun i hi => issues_of (h i hi)

/-- A harbour team. -/
def harboured : State → State := onT fun tm => { tm with harbour := true }

/-- The instructions of a list all issue for lane 0 of a harbour team. -/
theorem all_issueH {L : List Instr} (h : ∀ i ∈ L, issuesB i f1 (harboured (at1 i)) = true) : ∀ i ∈ L, Safe.Issues i f1 (harboured (at1 i)) :=
  fun i hi => issues_of (h i hi)

/-- Witnesses of SystemRegisterReads: registers of every scope, those of harbour code in harbour mode. -/
theorem wit_SystemRegisterReads : (∀ i ∈
    [Instr.mfs false 8 0x000, .mfs false 8 0x001, .mfs false 8 0x002, .mfs false 8 0x003, .mfs false 8 0x004, .mfs false 8 0x005, .mfs false 8 0x006,
     .mfs false 8 0x00B, .mfs false 8 0x010, .mfs false 8 0x011, .mfs false 8 0x012, .mfs false 8 0x013, .mfs false 8 0x018, .mfs false 8 0x019,
     .mfs false 8 0x020, .mfs false 8 0x021, .mfs false 8 0x022, .mfs false 8 0x030, .mfs false 8 0x031, .mfs false 8 0x032, .mfs false 8 0x033,
     .mfs false 8 0x034, .mfs false 8 0x047, .mfs false 8 0x04F], Safe.Issues i f1 (at1 i)) ∧
    Safe.Issues (.mfs false 8 0x800) f1 (harboured (at1 (.mfs false 8 0x800))) ∧ Safe.Issues (.mfs false 8 0x801) f1 (harboured (at1 (.mfs false 8 0x801))) :=
  ⟨all_issue1 (by decide), issues_of (by decide), issues_of (by decide)⟩

/-- Witnesses of SystemRegisterWrites: a tenant's writes of registers of every scope, read-only ones among them. -/
theorem wit_SystemRegisterWrites : (∀ i ∈
    [Instr.mts false 8 0x000, .mts false 8 0x001, .mts false 8 0x002, .mts false 8 0x003, .mts false 8 0x004, .mts false 8 0x005, .mts false 8 0x006,
     .mts false 8 0x00B, .mts false 8 0x010, .mts false 8 0x011, .mts false 8 0x012, .mts false 8 0x013, .mts false 8 0x018, .mts false 8 0x019,
     .mts false 8 0x020, .mts false 8 0x021, .mts false 8 0x022, .mts false 8 0x030, .mts false 8 0x031, .mts false 8 0x032, .mts false 8 0x033,
     .mts false 8 0x034, .mts false 8 0x047, .mts false 8 0x04F], Safe.Issues i f1 (at1 i)) ∧
    ((at1 (.mts false 8 0x048)).team 0).rgnEn 7 = false ∧ (at1 (.nop false)).hasTeam 0 = true ∧ (at1 (.nop false)).hasGrp 0 0 = true ∧ coreExists 641 = true :=
  ⟨all_issue1 (by decide), by decide, by decide, by decide, by decide⟩

/-- Witnesses of SystemRegisterWrites: harbour code's writes. -/
theorem wit_SystemRegisterWrites_harbour : ∀ i ∈
    [Instr.mts false 8 0x002, .mts false 8 0x003, .mts false 8 0x010, .mts false 8 0x011, .mts false 8 0x012, .mts false 8 0x019, .mts false 8 0x020,
     .mts false 8 0x034, .mts false 8 0x800, .mts false 8 0x801, .mts false 8 0x802], Safe.Issues i f1 (harboured (at1 i)) :=
  all_issueH (by decide)

/-- What MTS of a value leaves. -/
def mts {α : Type} (y : BitVec 12) (v : Nat) (h : State → State) (look : State → α) : Option α := seen (exec (.mts false 8 y) (x0 8 v (h (at1 (.mts false 8 y))))) look

/-- R127–R131, R255: reserved bits dropped; SRCNT zeroed with SY.FPMODE; a tenant's write of a read-only register; reads of SY.ACTIVE, SY.TRAPVEC, SY.PREBUD. -/
theorem test_system_registers :
    mts 0x001 0xFFFFFFFFFFFFFFFF (onG fun g => { g with srcnt := 5 }) (fun t => ((t.grp 0 0).fpmode.toNat, (t.grp 0 0).srcnt.toNat)) = some (0xFFFFFFFF0000000F, 0) ∧
    mts 0x013 0xFFFFFFFFFFFFFFFF id (fun t => (t.team 0).trapvec.toNat) = some 0xFFFFFFFFFFFC ∧
    mts 0x034 7 id (fun t => t.weightOf 0 0 0) = some 0 ∧ mts 0x034 7 (onT fun tm => { tm with harbour := true }) (fun t => t.weightOf 0 0 0) = some 7 ∧
    mts 0x020 0x8000000000000000 (onT fun tm => { tm with sperr := 0xC000000000000001 }) (fun t => (t.team 0).sperr.toNat) = some 0 ∧
    mts 0x020 1 (onT fun tm => { tm with sperr := 0xC000000000000001 }) (fun t => (t.team 0).sperr.toNat) = some 0xC000000000000001 ∧
    mts 0x009 3 id (fun t => (SMap.get 0 (t.grp 0 0).amax 1 : Word)) = some 3 ∧
    seen (exec (.mfs false 8 0x006) (at1 (.mfs false 8 0x006))) (fun t => ((t.grp 0 0).xr 0 8).toNat) = some 0xFFFFFFFF ∧
    seen (exec (.mfs false 8 0x019) (at1 (.mfs false 8 0x019))) (fun t => ((t.grp 0 0).xr 0 8).toNat) = some 20000 ∧
    promised .ld (.mfs false 8 0x000) { at1 (.mfs false 8 0x000) with clk := { time := 77 } } = some [77] := by decide

/-- R127, R145, R255: writes made from outside the issue. -/
theorem test_register_events :
    seen (exec (.sperrClear 0) (onT (fun tm => { tm with sperr := 9 }) (at1 (.nop false)))) (fun t => (t.team 0).sperr) = some 0 ∧
    seen (exec (.fpmodeWrite 0 0 0xFF) (at1 (.nop false))) (fun t => (t.grp 0 0).fpmode) = some 0xF ∧
    seen (exec (.hvfWrite 3 0x12) (at1 (.nop false))) (fun t => (SMap.get 0 t.part.hvf 3 : Nat)) = some 2 ∧
    seen (exec (.rgnctlWrite 0 1 0x1000) (at1 (.nop false))) (fun t => (SMap.get 0 (t.team 0).rgnctl 1 : Word)) = some 0x1000 := by decide

/-- Witnesses of SchedulingInstructions: every word issues; with a transaction of the lane, a full timer table, another group. -/
theorem wit_SchedulingInstructions :
    (∀ i ∈ [Instr.nop false, .idend false, .yield false, .haltt false, .halttRel false, .timer false 13 1], Safe.Issues i f1 (at1 i)) ∧
    Safe.Issues (.preend false) f1 (ths (fun th => { th with inSave := true }) (at1 (.preend false))) ∧
    (Safe.src (.timer false 13 1) f1 (w0 13 0x2800 (at1 (.timer false 13 1))) 0 0).toNat % 2 ^ 48 % 128 = 0 ∧ ((at1 (.timer false 13 1)).fn 0).timers.length < 64 ∧
    64 ≤ (((at1 (.timer false 13 1)).updFn 0 fun c => { c with timers := List.replicate 64 {} }).fn 0).timers.length ∧
    Safe.Issues (.timer false 13 1) f1 ((at1 (.timer false 13 1)).updFn 0 fun c => { c with timers := List.replicate 64 {} }) ∧
    Safe.Issues (.timer false 13 1) f1 (inTx tx2 (at1 (.timer false 13 1))) ∧ tx2.parts &&& f1.lanes ≠ 0 ∧
    (∀ e ∈ (((at1 (.haltt false)).updTeam 0 fun tm => tm.haltOthers 0 0).team 0).groups, e.1 ≠ 0 → e.2.unready 0xFFFFFFFF = false) ∧
    (onT (fun tm => tm.setGrp 1 {}) (at1 (.haltt false))).hasGrp 0 1 = true ∧ ((onT (fun tm => tm.setGrp 1 {}) (at1 (.haltt false))).grp 0 1).st = .ready :=
  ⟨fun i hi => issues_of ((by decide : ∀ i ∈ [Instr.nop false, .idend false, .yield false, .haltt false, .halttRel false, .timer false 13 1], issuesB i f1 (at1 i) = true) i hi),
    issues_of (by decide), by decide, by decide, by decide, issues_of (by decide), issues_of (by decide), by decide, by decide, by decide, by decide⟩

/-- A second group of the team, READY. -/
def second : State → State := onT fun tm => tm.setGrp 1 {}

/-- R52, R62, R253, R254, R258–R260: only the pc moves; the discardable period ends; the place is given up; a timer armed and one that finds no room;
the other group halted and released; a save ended. -/
theorem test_scheduling :
    went (.nop false) (at1 (.nop false)) = some (0x2008, 0x2004) ∧
    seen (exec (.idend false) (onT (fun tm => { tm with discardable := true }) (at1 (.idend false)))) (fun t => (t.team 0).discardable) = some false ∧
    seen (exec (.yield false) (second (at1 (.yield false)))) (fun t => (t.grp 0 0).st) = some .ready ∧
    seen (exec (.timer false 13 1) (w0 14 500 (w0 13 0x2800 (at1 (.timer false 13 1))))) (fun t => ((t.fn 0).timers.map fun e => (e.addr, e.at_), (t.grp 0 0).pr 1 0)) =
      some ([(0x2800, 500)], true) ∧
    seen (exec (.haltt false) (second (at1 (.haltt false)))) (fun t => ((t.grp 0 1).st, (t.grp 0 1).halt, (t.grp 0 0).halt)) = some (.parked, true, false) ∧
    seen (exec (.halttRel false) (onT (fun tm => tm.setGrp 1 { st := .parked, halt := true }) (at1 (.halttRel false)))) (fun t => (t.grp 0 1).halt) = some false ∧
    seen (exec (.preend false) (ths (fun th => { th with inSave := true }) (at1 (.preend false)))) (fun t => ((t.grp 0 0).th 0).preended) = some true := by decide
/-! ## The matrix unit -/

/-- A line of the code's page. -/
def line_ (a : Nat) : TileLine := { va := a, pa := a, key := 0x400000 + a }

/-- A binding at row 0, step 0, pinned, its first byte 3. -/
def bind3 : Binding := { st := 2, map := [line_ 0x2000], lines := [0x8040], data := [(0x2000, 3)] }

/-- Records of INT8 tiles of one row of 64 elements at 0x2000, with roles A and B, and of a destination of raw 32-bit sums. -/
def recA : ObRec := { d0 := 0x000A000000002000, d1 := 0x4000000001, d2 := 0x40, role := 0, binds := [bind3] }
def recB : ObRec := { recA with handle := 1, role := 1 }
def recD : ObRec := { d0 := 0x0040000000002000, d1 := 0x4000000001, d2 := 0x100, handle := 2, role := 2 }

/-- The group's one accumulator bank, with INT32 sums. -/
def bank0 : Bank := { st := .int32, val := [(0, 7), (1, 9)] }

/-- Pair 0 with records and the bank; w13 and w18 name handles 0 and 1, w8 index 0. -/
def mtx0 : PairMtx := { recs := [(0, some recA), (1, some recB), (2, some recD)], banks := [(0, some bank0)] }
def withMtx (p : PairMtx) (s : State) : State := { s with mtx := [(0, p)] }
def atM (i : Instr) : State := withMtx mtx0 (w0 18 1 (at1 i))

/-- The instructions of a list all issue with that pair. -/
theorem all_issueM {L : List Instr} (h : ∀ i ∈ L, issuesB i f1 (atM i) = true) : ∀ i ∈ L, Safe.Issues i f1 (atM i) :=
  fun i hi => issues_of (h i hi)

/-- A descriptor at 0x2800 for OB_RES, its role in w18. -/
def atDesc (i : Instr) : State := let s := w0 18 0 (w0 13 0x2800 (at1 i)); { s with mem := memWrite s.mem 0x402800 32 (0x000A000000002000 + 0x4000000001 * 2 ^ 64 + 0x40 * 2 ^ 128) }

/-- Witnesses of MatrixRecords: a descriptor in order; handles that name records, offsets at their last values; a tile whose page translates; a handle
that names none, where a trap enters the handler; a binding to pin. -/
theorem wit_MatrixRecords :
    Ready (.obRes false 8 13 18) f1 (atDesc (.obRes false 8 13 18)) .load (fun _ => false) 32 (fun _ => (Safe.src (.obRes false 8 13 18) f1 (atDesc (.obRes false 8 13 18)) 0 0).toNat % 2 ^ 48) ∧
    (let s := atDesc (.obRes false 8 13 18)
     descBad (s.rd 0x402800 8) (s.rd 0x402808 8) (s.rd 0x402810 8) (s.rd 0x402818 8) = false ∧ (s.pairOf 0).recCount 0 < 16 ∧ (s.pairOf 0).freeRec = some 0 ∧
     bit (s.rd 0x402800 8) 53 = false ∧ bit (s.rd 0x402800 8) 54 = false) ∧
    16 ≤ ({ recs := (List.range 16).map fun k => (k, some { recA with handle := k }) } : PairMtx).recCount 0 ∧
    (∀ i ∈ [Instr.obRel false 8, .obSets false 8 13, .obSetz false 8 13, .tileUnpin false 8, .tileFetch false 8 13], Safe.Issues i f1 (atM i)) ∧
    mtx0.recOf 0 0 = some (0, recA) ∧ mtx0.full = false ∧ (4032 < 4096 ∧ 4032 % 64 = 0) ∧ (1008 < 1024 ∧ 1008 % 16 = 0) ∧ handleBad 0 = false ∧
    0 % mStepK recA.fmt = 0 ∧ recA.soff + tileScales recA.fmt ≤ 4096 ∧ recA.zoff + tileZeros recA.fmt ≤ 1024 ∧ recA.binds.length < 2 ∧
    (match (atM (.tileFetch false 8 13)).xlatePages (Safe.iss (.tileFetch false 8 13) f1 (atM (.tileFetch false 8 13))) .load tileBar (spanPages (recA.tileSpans 0 0)) with
     | .ok _ => true | .error _ => false) = true ∧
    Safe.Issues (.obRel false 8) f1 (handled (w0 8 5 (atM (.obRel false 8)))) ∧ Safe.calm f1 (handled (w0 8 5 (atM (.obRel false 8)))) ∧ mtx0.recOf 0 5 = none ∧
    (atM (.nop false)).nextPin { recA with binds := [{ bind3 with st := 1 }] } = some (0, { bind3 with st := 1 }) :=
  ⟨ready_of (by decide), by decide +kernel, by decide +kernel, all_issueM (by decide), by decide, by decide, by decide, by decide, by decide, by decide, by decide,
    by decide, by decide, by decide, issues_of (by decide), calm_of (by decide), by decide, by decide⟩

/-- R262, R266–R272: a record taken and its handle; SOFF and ZOFF; a release; a binding added; one unpinned; one pinned. -/
theorem test_matrix_records :
    promised .ld (.obRes false 8 13 18) (atDesc (.obRes false 8 13 18)) = some [0] ∧
    seen (exec (.obRes false 8 13 18) (atDesc (.obRes false 8 13 18))) (fun t => (SMap.get none (t.pairOf 0).recs 0).map fun r => (r.fmt, r.rows, r.cols, r.role)) =
      some (some (10, 1, 64, 0)) ∧
    seen (exec (.obSets false 8 13) (w0 13 4032 (atM (.obSets false 8 13)))) (fun t => (SMap.get none (t.pairOf 0).recs 0).map fun r => r.soff) = some (some 4032) ∧
    seen (exec (.obSetz false 8 13) (w0 13 1008 (atM (.obSetz false 8 13)))) (fun t => (SMap.get none (t.pairOf 0).recs 0).map fun r => r.zoff) = some (some 1008) ∧
    seen (exec (.obRel false 8) (atM (.obRel false 8))) (fun t => SMap.get none (t.pairOf 0).recs 0) = some none ∧
    seen (exec (.tileFetch false 8 13) (atM (.tileFetch false 8 13))) (fun t => (SMap.get none (t.pairOf 0).recs 0).map fun r => r.binds.map fun b => b.st) = some (some [2, 1]) ∧
    seen (exec (.tileUnpin false 8) (atM (.tileUnpin false 8))) (fun t => (SMap.get none (t.pairOf 0).recs 0).map fun r => r.binds.length) = some (some 0) ∧
    trapSeen (.obRel false 8) (handled (w0 8 5 (atM (.obRel false 8)))) = some [0x0A, 0x2004, 0, 0x4000] := by decide

/-- Witnesses of AccumulatorBanks: a grant given and asked for, a request that fits, a grant to release and none, rows to read. -/
theorem wit_AccumulatorBanks :
    (∀ i ∈ [Instr.accRel false, .accZero false 8, .accRd false 20 8 13], Safe.Issues i f1 (atM i)) ∧
    Safe.Issues (.accAcq false 18) f1 (withMtx {} (w0 18 32 (at1 (.accAcq false 18)))) ∧ Safe.Issues (.accAcq false 18) f1 (withMtx { granted := [(0, 0)] } (at1 (.accAcq false 18))) ∧
    ((withMtx {} (at1 (.accAcq false 18))).pairOf 0).grant 0 0 = [] ∧ ({ reqs := [(0, 0, 32)] } : PairMtx).freeBanks.length = 32 ∧
    (mtx0.grant 0 0).map (fun e => e.1) = [0] ∧ mtx0.nameable 0 0 0 = some (0, bank0) ∧ mtx0.queue = [] ∧ bank0.poison.getLsbD 63 = false ∧ bank0.flags.getLsbD 63 = false ∧
    Safe.Issues (.accRel false) f1 (handled (withMtx {} (at1 (.accRel false)))) ∧ Safe.calm f1 (handled (withMtx {} (at1 (.accRel false)))) :=
  ⟨all_issueM (by decide), issues_of (by decide), issues_of (by decide), by decide, by decide, by decide, by decide, by decide, by decide, by decide, issues_of (by decide),
    calm_of (by decide)⟩

/-- R262, R273–R276: a request queued and served with the lowest free banks; a bank cleared; a row read; a release without a grant. -/
theorem test_accumulators :
    seen (exec (.accAcq false 18) (withMtx {} (w0 18 2 (at1 (.accAcq false 18))))) (fun t => (t.pairOf 0).reqs) = some [(0, 0, 2)] ∧
    seen (exec (.accGrant 0) (withMtx { banks := [(0, some { team := 9 })], reqs := [(0, 0, 2)] } (at1 (.nop false)))) (fun t => ((t.pairOf 0).banks.map fun e => (e.1, e.2.map fun b => b.idx))) =
      some [(0, some 0), (1, some 0), (2, some 1)] ∧
    promised .ld (.accRd false 8 9 13) (atM (.accRd false 8 9 13)) = some [7 + 2 ^ 32 * 9] ∧
    seen (exec (.accZero false 8) (atM (.accZero false 8))) (fun t => (SMap.get none (t.pairOf 0).banks 0).map fun b => (b.st, b.val)) = some (some (.clear, [])) ∧
    seen (exec (.accRel false) (atM (.accRel false))) (fun t => (t.pairOf 0).banks) = some [] ∧
    trapSeen (.accRel false) (handled (withMtx {} (at1 (.accRel false)))) = some [0x0C, 0x2004, 0, 0x4000] := by decide

/-- The queue with a product, and with a drain of the bank. -/
def mtxP : PairMtx := { mtx0 with queue := [{ team := 0, grp := 0, lanes := 1, op := .mma true .int32 0 none [] 0 1 }] }
def mtxD : PairMtx := { mtx0 with queue := [{ team := 0, grp := 0, lanes := 1, op := .drain false .int32 0x3F800000 0x3F800000 2 [0] 0 0 [line_ 0x2000, line_ 0x2080] }] }

/-- Witnesses of MatrixProducts: bindings of paired formats, a bank, products and drains that are ready, a destination in memory. -/
theorem wit_MatrixProducts :
    (∀ i ∈ [Instr.mma false 8 13 18, .mmaAcc false 8 13 18], Safe.Issues i f1 (atM i)) ∧ Safe.Issues (.tileDrain false 9 8 13) f1 (atM (.tileDrain false 9 8 13)) ∧
    Safe.Issues (.tileDradd false 9 8 13) f1 (atM (.tileDradd false 9 8 13)) ∧
    mtx0.recOf 0 1 = some (1, recB) ∧ mtx0.unclaimed 0 recA ≠ [] ∧ mtx0.unclaimed 1 recB ≠ [] ∧ mPairs recA.fmt recB.fmt = true ∧ (mAcc recA.fmt = .fp64lo → False) ∧
    bank0.st = mAcc recA.fmt ∧ bank0.sA = recA.scaleBits ∧ bank0.sB = recB.scaleBits ∧ (∀ x ∈ recA.binds ++ recB.binds, x.stale = false) ∧
    ((mtxP.ready.find? fun e => e.2.op.isMma).map fun e => e.2.op) = some (.mma true .int32 0 none [] 0 1) ∧ recA.binds.head? = some bind3 ∧ bind3.st = 2 ∧
    mtx0.recOf 0 2 = some (2, recD) ∧ recD.role = 2 ∧ drainLegal recD .int32 = true ∧ recD.sp = false ∧
    (match (atM (.tileDrain false 9 8 13)).xlatePages (Safe.iss (.tileDrain false 9 8 13) f1 (atM (.tileDrain false 9 8 13))) .store (fun x => x.kind != 0 || x.coh = 2 || x.home = 1)
        (spanPages ((recD.drainRows 4 0 0).map fun x => (x.2.1 % 2 ^ 48, x.2.2 * 4))) with | .ok _ => true | .error _ => false) = true ∧
    (mtxD.ready.filter fun e => e.2.op.isDrain).length = 1 ∧ bank0.poison = 0 :=
  ⟨all_issueM (by decide), issues_of (by decide), issues_of (by decide), by decide, by decide, by decide, by decide, by decide, by decide, by decide, by decide, by decide,
    by decide, by decide, by decide, by decide, by decide, by decide, by decide, by decide, by decide, by decide⟩

/-- R263, R277, R278: what joins the queue. -/
theorem test_matrix_products :
    seen (exec (.mmaAcc false 8 13 18) (atM (.mmaAcc false 8 13 18))) (fun t => (t.pairOf 0).queue.map fun e => e.op) = some [.mma true .int32 0 none [] 0 1] ∧
    seen (exec (.mma false 8 13 18) (atM (.mma false 8 13 18))) (fun t => (t.pairOf 0).queue.map fun e => e.op) = some [.mma false .int32 0 none [] 0 1] ∧
    seen (exec (.tileDrain false 2 8 13) (w0 2 2 (atM (.tileDrain false 2 8 13)))) (fun t => (t.pairOf 0).queue.map fun e => e.op) =
      some [.drain false .int32 0x3F800000 0x3F800000 2 [0] 0 0 [line_ 0x2000, line_ 0x2080]] := by decide

/-! ## Pushes -/

/-- Eight dwords of a FILL without weight, none of its fields zero that must not be. -/
def atPush (i : Instr) : State := w0 13 0x02 (x0 13 0x02 (at1 i))

/-- Witnesses of Pushes: a queue with room, a full one, a transaction of the lane, one with too little weight. -/
theorem wit_Pushes :
    (∀ i ∈ [Instr.push false 0 13 1 false, .push false 7 13 1 true, .pushx false 0 13 1 false], Safe.Issues i f1 (at1 i)) ∧
    (at1 (.push false 0 13 1 false)).queued 0 0 < 64 ∧
    64 ≤ ({ at1 (.push false 0 13 1 false) with eng := { cmds := List.replicate 64 {} } } : State).queued 0 0 ∧
    ((at1 (.push false 0 13 1 false)).team 0).spFull 0 0 = false ∧ Safe.Issues (.push false 0 13 1 false) f1 (inTx tx2 (at1 (.push false 0 13 1 false))) ∧
    tx2.parts.getLsbD 0 = true ∧ (Safe.grp f1 (at1 (.pushx false 0 13 1 false))).pushed = 0 ∧
    (spDst 0 (0 : BitVec 512) 4096 = []) :=
  ⟨all_issue1 (by decide), by decide, by decide +kernel, by decide +kernel, issues_of (by decide), by decide, by decide, by decide +kernel⟩

/-- R283, R464: a command accepted with flag 0; a full queue refuses with flag 1; inside a transaction it is held. -/
theorem test_pushes :
    seen (exec (.push false 0 13 1 false) (atPush (.push false 0 13 1 false))) (fun t => (t.eng.cmds.map fun c => (c.qn, c.img.toNat), (t.grp 0 0).out.map fun q => (q.reg, q.val.toNat))) =
      some ([(0, 2)], [(1, 0)]) ∧
    seen (exec (.pushx false 0 13 1 false) (atPush (.pushx false 0 13 1 false))) (fun t => (t.eng.cmds.map fun c => (c.lane, c.img.toNat), (t.grp 0 0).out.map fun q => (q.reg, q.val.toNat))) =
      some ([(0, 2)], [(1, 0)]) ∧
    seen (exec (.push false 0 13 1 false) ({ atPush (.push false 0 13 1 false) with eng := { cmds := List.replicate 64 {} } } : State))
      (fun t => (t.eng.cmds.length, (t.grp 0 0).out.map fun q => (q.reg, q.val.toNat))) = some (64, [(1, 1)]) ∧
    seen (exec (.push false 0 13 1 false) (inTx tx2 (atPush (.push false 0 13 1 false)))) (fun t => (t.eng.cmds.length, (t.grp 0 0).tx.map fun x => x.data.held.length)) = some (0, some 1) := by
  decide +kernel

/-! ## Operands -/

/-- Witnesses of OperandReads: a register with nothing on its way, one with a result on its way, a port with an element and one past COUNT. -/
theorem wit_OperandReads :
    (opOf (.add false 8 13 18 false 1 false false)).rd[0]? = some (.x, 13) ∧ (opOf (.sel false 8 13 18 false 7)).rd[2]? = some (.p, 7) ∧
    (opOf (.add false 8 60 60 false 0 false false)).rd[1]? = some (.x, 60) ∧
    coming.isFor .x 0 20 = true ∧ coming.ready = true ∧ coming.poison = false ∧ (opOf (.add false 8 20 18 false 1 false false)).ew = 32 ∧
    (let s := onG (fun g => g.updPort 0 0 fun p => { p with got := [5, 6] }) (onT (fun tm => { tm with streams := [(0, { en := true, count := 2 })] }) (at1 (.add false 8 60 60 false 0 false false)))
     ((Safe.grp f1 s).port 0 0).got[1]? = some 6 ∧ Safe.src (.add false 8 60 60 false 0 false false) f1 s 0 0 = 5 ∧ Safe.src (.add false 8 60 60 false 0 false false) f1 s 1 0 = 6 ∧
     seen (exec (.add false 8 60 60 false 0 false false) s) (fun t => ((t.grp 0 0).xr 0 8).toNat) = some 11) := by decide
/-! ## Steps of the device for groups and teams -/

/-- A state in which team 0 and its group 0 run on core 0. -/
def base : State := at1 (.nop false)

/-- The arithmetic clock and SY.TIME. -/
def atCycle (n : Nat) (s : State) : State := { s with clk := { s.clk with cycle := n } }
def atTime (n : Nat) (s : State) : State := { s with clk := { s.clk with time := BitVec.ofNat 64 n } }

/-- Further groups of team 0, from number 1 on. -/
def withGroups (n : Nat) (g : Group) : State → State := onT fun tm => { tm with groups := tm.groups ++ (List.range n).map fun k => (k + 1, g) }

/-- Group 0 of team 0 in a state. -/
def inState (st : GState) : State → State := onG fun g => { g with st := st }

/-- A stream of team 0, of 8-byte elements from 0x2800. -/
def stream0 (out : Bool) : State → State := onT fun tm => { tm with streams := [(0, { en := true, out := out, esz := 3, base := 0x2800, step := 8, count := 2 })] }

/-- A result for x20 of lane 0, that has come. -/
def come : Pend := { id := 5, seq := 0, kind := .ld, lane := 0, file := .x, reg := 20, val := 77 }

/-- States for GroupEvents: a group that waited 31 cycles beside a ready one; a parked one; one ready for 1,024 cycles, beside others; one at its
barrier's continuation; a sleeper of 100 µs; elements to load and to store; a result that has come; poison due. -/
def gPark : State := atCycle 32 (withGroups 1 {} (onG (fun g => { g with pace := { since := 1, holding := true } }) base))
def gUnpark : State := inState .parked base
def gLate (n : Nat) : State := atCycle 1024 (withGroups n { st := .active } (inState .ready base))
def gBarv : State := onG (fun g => { g with st := .barrier, cont := true }) base
def gSleep : State := atTime 100000 (inState .sleep base)
def gOut (k : PendKind) : State := onG (fun g => { g with out := [{ come with kind := k }] }) base
def gPoison : State := handled (onG (fun g => g.updTh 0 fun th => { th with poison := some 0x2800, stopPt := some { hdr := 0x2000, cls := 5, n := 4 } }) base)
def gPush : State := onG (fun g => g.updPort 0 0 fun p => { p with push := [some 9] }) (stream0 true base)

/-- Witnesses of GroupEvents. -/
theorem wit_GroupEvents :
    (∀ s ∈ [gPark, gUnpark, gLate 0, gLate 8, gBarv, gSleep, gOut .ld, gOut .sf, gPoison, gPush, stream0 false base], s.hasGrp 0 0 = true) ∧
    ((gPark.team 0).st = .resident ∧ (gPark.grp 0 0).st = .active ∧ (gPark.grp 0 0).pace.since ≠ 0 ∧ (gPark.grp 0 0).pace.since + 31 ≤ gPark.clk.cycle ∧ (gPark.grp 0 0).pace.holding = true ∧
      ∃ e ∈ gPark.teams, ∃ h ∈ e.2.groups, e.2.core = (gPark.team 0).core ∧ e.2.st = .resident ∧ h.2.st = .ready ∧ h.2.halt = false ∧ h.2.barOff = none) ∧
    ((gUnpark.team 0).runs = true ∧ (gUnpark.grp 0 0).st = .parked ∧ (gUnpark.grp 0 0).halt = false ∧ (gUnpark.grp 0 0).pace.needs = [] ∧ (∀ k, k < 32 → ((gUnpark.grp 0 0).th k).waitRes = false ∧ gUnpark.wordWaits 0 0 k = false) ∧
      ∃ m, m ∈ gUnpark.issues 0 0) ∧
    (oldest ((gLate 0).overdue 0) = some (0, 0, 0, 0) ∧ ((gLate 0).groupsOn 0 fun _ g => g.st = .active).length < activeCap 0) ∧
    (oldest ((gLate 8).overdue 0) = some (0, 0, 0, 0) ∧ activeCap 0 ≤ ((gLate 8).groupsOn 0 fun _ g => g.st = .active).length ∧
      youngest ((gLate 8).groupsOn 0 fun _ g => g.st = .active) = some (0, 1, 0, 0)) ∧
    ((gBarv.team 0).st = .resident ∧ (gBarv.grp 0 0).st = .barrier ∧ (gBarv.grp 0 0).cont = true ∧ (gBarv.grp 0 0).halt = false) ∧
    ((gSleep.grp 0 0).st = .sleep ∧ 100000 ≤ gSleep.since (gSleep.grp 0 0).sleepTime) ∧
    (gPoison.poisonDue 0 0 0 = true ∧ (gPoison.team 0).runs = true ∧ (gPoison.grp 0 0).unready (laneBit 0) = false ∧ gPoison.errHeld 0 = false ∧
      ((gPoison.grp 0 0).th 0).inTrap = false ∧ ((gPoison.grp 0 0).th 0).inSave = false ∧ (gPoison.grp 0 0).tx = none ∧ (gPoison.team 0).trapvec ≠ 0) ∧
    (∀ k ∈ [PendKind.ld, .sf], (((gOut k).grp 0 0).out.find? fun r => decide (r.id = 5)) = some { come with kind := k } ∧ ((gOut k).grp 0 0).tx = none) := by
  refine ⟨by decide, ⟨by decide, by decide, by decide, by decide, by decide, by decide⟩, ⟨by decide, by decide, by decide, by decide, by decide, 0xFFFFFFFF, by decide⟩, by decide, by decide, by decide,
    by decide, by decide, by decide⟩

/-- The translation of an access of team 0 to 0x2800. -/
def xl0 (acc : Acc) (s : State) : Option Xl :=
  match s.check (s.team 0).regime (s.team 0).core acc false 0x2800 with
  | .ok x => some x
  | .error _ => none

/-- Witnesses of the streams of GroupEvents: an element to load and one to store, whose pages translate and whose bytes are sound. -/
theorem wit_GroupEvents_streams :
    (let s := stream0 false base; let tm := s.team 0; let w : Who := { t := 0, g := 0, lane := 0, core := 0 }
     (SMap.get {} tm.streams 0).en = true ∧ tm.runs = true ∧ (s.grp 0 0).st = .active ∧ ((s.grp 0 0).th 0).run ≠ .exited ∧
     (xl0 .load s).map (fun x => ((((s.keep tm.regime 0x2800 x).claimCp 0 tm.core x).charge tm.regime x 64).readAt w x 8).1) = some (0, false)) ∧
    (let tm := gPush.team 0
     (SMap.get {} tm.streams 0).en = true ∧ (SMap.get {} tm.streams 0).out = true ∧ tm.st = .resident ∧ ((gPush.grp 0 0).port 0 0).push = [some 9] ∧
     (xl0 .store gPush).isSome = true) := by decide

/-- R51, R52, R54, R56, R91, R206, R210, R431: the group's state after each step; elements and results; the trap of poison. -/
theorem test_group_events :
    seen (exec (.groupPark 0 0) gPark) (fun t => (t.grp 0 0).st) = some .parked ∧ seen (exec (.groupUnpark 0 0) gUnpark) (fun t => (t.grp 0 0).st) = some .ready ∧
    seen (exec (.groupPromote 0 0) (gLate 8)) (fun t => ((t.grp 0 0).st, (t.grp 0 1).st, (t.grp 0 2).st)) = some (.active, .ready, .active) ∧
    seen (exec (.barrierContinuation 0 0) gBarv) (fun t => (t.grp 0 0).st) = some .ready ∧ seen (exec (.txSleepTimeout 0 0) gSleep) (fun t => (t.grp 0 0).st) = some .ready ∧
    seen (exec (.streamLoad 0 0 0 0) (put 8 9 (stream0 false base))) (fun t => ((t.grp 0 0).port 0 0).got) = some [9] ∧
    seen (exec (.streamLoad 0 0 0 0) (coh 0 gPush)) (fun t => (t.rd 0x402800 8, ((t.grp 0 0).port 0 0).stored)) = some (9, 1) ∧
    seen (exec (.loadReturn 0 0 5) (gOut .ld)) (fun t => ((t.grp 0 0).xr 0 20, (t.grp 0 0).out.length)) = some (77, 0) ∧
    seen (exec (.sfuResult 0 0 5) (gOut .sf)) (fun t => ((t.grp 0 0).xr 0 20, (t.grp 0 0).out.length)) = some (77, 0) ∧
    trapSeen (.poisonConsumed 0 0 0) gPoison = some [0x08, 0x2000, 0x2800, 0x4000] := by decide
/-! ## Teams and records -/

/-- A record of one team, KIND 0, that is accepted; with its team to place, or running. -/
def grid3 : Grid := { id := 3, img := BitVec.ofNat 1024 (img1 + 2 ^ 192 * 0x5000 + 2 ^ 320 * 0x6000), dims := 0x100010001, nteams := 1, pa := 0x2F00 }
def gridded (g : Grid) (q : List (Nat × Machine.Ready)) (s : State) : State := { s with sched := { s.sched with grids := [g], queue := q } }

/-- Function 0 with a context. -/
def fn0 (h : Fn → Fn) (s : State) : State := s.updFn 0 h

/-- The harbour's cores are released. -/
def harbourOn (s : State) : State := { s with lh := { s.lh with harbourRun := true } }

/-- States for TeamEvents: a team to place; a saved one that returns; an item blocked for 100 µs; a batch with a command at 0x2800 whose queue number is 0;
a team that exited; a record that retires; a demand fault without and with a frame; kills; a forced save; a fill of one line; a timer. -/
def tNew : State := harbourOn <| gridded { grid3 with harbour := true } [(0, .grid 3)] base
def tSaved : State := harbourOn <| gridded {} [(0, .team 0)] (inState .saved (onT (fun tm => { tm with st := .saved, harbour := true, rblk := 1, spl := 8 }) base))
def tBlocked : State := harbourOn <| atTime 100000 (gridded { grid3 with harbour := true, blockedAt := some 0 } [(0, .grid 3)] base)
def tBatch : State := dev (gridded { grid3 with img := BitVec.ofNat 1024 (2 + 2 ^ 192 * 0x2800 + 2 ^ 320 * 0x2900), st := .running } [] base)
def tExited : State := gridded { grid3 with st := .running, next := 1, live := 1 } [] (ths (fun th => { th with run := .exited }) (onT (fun tm => { tm with origin := .grid 3 }) base))
def tRetired : State := gridded { grid3 with st := .running, next := 1 } [] base
def tFault (n : Nat) : State := fn0 (fun c => { c with nframes := n }) (onT (fun tm => { tm with faulted := true }) base)
def tKill (done : Bool) : State := onT (fun tm => { tm with kill := some 0x0E, killed := done }) base
def tForce (d : Bool) (n : Nat) : State := fn0 (fun c => { c with nframes := n }) (onT (fun tm => { tm with forceSave := true, discardable := d }) base)
def tFill : State := onT (fun tm => { tm with rgnva := [(0, 0x2800)], rgnctl := [(0, 2 ^ 48 + 1)], rgnFill := [(0, 1)] }) base
def tTimer : State := atTime 50 (fn0 (fun c => { c with timers := [{ addr := 0x2800, at_ := 50 }] }) (dev base))

/-- Witnesses of TeamEvents: placing and reserving. -/
theorem wit_TeamEvents_dispatch :
    (tNew.nextItem = some (.grid 3, 640) ∧ bit (tdw (tNew.grid 3).img 0) 14 = false ∧ (tNew.grid 3).nteams ≠ 0) ∧
    (tSaved.nextItem = some (.team 0, 640) ∧ (tSaved.team 0).st = .saved ∧ tSaved.hasGrp 0 0 = true ∧ (tSaved.grp 0 0).st ≠ .done ∧
      ((tSaved.grp 0 0).th 0).run = .running) ∧
    (tBlocked.sched.queue.find? (fun e => decide ((tBlocked.readyItem e.2).1 = 3)) = some (0, .grid 3) ∧ tBlocked.blockedSince (.grid 3) = some 0 ∧
      tBlocked.coreFor (.grid 3) = some 640 ∧ 100000 ≤ tBlocked.since 0 ∧ ∀ r ∈ tBlocked.sched.reserved, r.2 ≠ 3) := by decide +kernel

/-- What a read for a batch gives. -/
def readOfBatch (s : State) (va n : Nat) : Option Nat :=
  match s.engBytes (batchCmd s (s.grid 3) 0 0 (s.grid 3).next 0) va n 0 with
  | .ok v _ => some v
  | _ => none

/-- Witnesses of TeamEvents: the batch, the end, the retirement. -/
theorem wit_TeamEvents_ends :
    ((tBatch.grid 3).id = 3 ∧ recKind (tBatch.grid 3).img = 2 ∧ (tBatch.grid 3).st = .running ∧ (tBatch.grid 3).next < (tBatch.grid 3).nteams ∧ (tBatch.grid 3).stuck = false ∧
      tBatch.batchCore (tBatch.grid 3) = some 0 ∧ readOfBatch tBatch 0x2800 64 = some 0 ∧ readOfBatch tBatch 0x2900 1 = some 0 ∧ queueOk 0 0 = true ∧ tBatch.queued 0 0 < 64 ∧
      recAdesc (tBatch.grid 3).img = 0x2800 ∧ recArgs (tBatch.grid 3).img = 0x2900) ∧
    ((tExited.team 0).regions = [] ∧ tExited.hasTeam 0 = true ∧ (tExited.team 0).st = .resident ∧ (tExited.team 0).kill = none ∧ tExited.allExited 0 = true ∧
      tExited.teamIdle 0 = true ∧ (tExited.team 0).released = false ∧ (tExited.releaseTeam 0).teamDrained 0 = true ∧
      ({ tExited with stores := [{ id := 5, performed := false }] }.releaseTeam 0).teamDrained 0 = false ∧
      (tExited.team 0).origin = .grid 3 ∧ (tExited.team 0).carry = 0) ∧
    ((tRetired.grid 3).id = 3 ∧ tRetired.sched.grids.map (·.id) = [3] ∧ tRetired.retires (tRetired.grid 3) = true) := by decide +kernel

/-- Witnesses of TeamEvents: saves and kills. -/
theorem wit_TeamEvents_saves :
    (∀ n ∈ [0, 1], (tFault n).hasTeam 0 = true ∧ ((tFault n).team 0).st = .resident ∧ ((tFault n).team 0).faulted = true ∧ ((tFault n).team 0).kill = none ∧ (tFault n).saveReady 0 = true) ∧
    (((tFault 0).fn 0).nframes ≤ ((tFault 0).fn 0).used ∧ ((tFault 1).fn 0).used < ((tFault 1).fn 0).nframes ∧ ((tFault 1).team 0).core < 384) ∧
    (base.hasTeam 0 = true ∧ (base.team 0).kill = none ∧ ((tKill false).team 0).kill = some 0x0E ∧ ((tKill false).team 0).killed = false ∧ ((tKill true).team 0).killed = true ∧
      ((tKill true).team 0).released = false ∧ ((tKill true).team 0).regions = [] ∧ (tKill true).teamIdle 0 = true ∧
      ((tKill true).releaseTeam 0).teamDrained 0 = true) ∧
    (∀ d ∈ [true, false], (tForce d 1).overBudget 0 = true ∧ (tForce d 1).saveReady 0 = true ∧ ((tForce d 1).team 0).st = .resident ∧ ((tForce d 1).team 0).discardable = d) ∧
    (((tForce false 1).fn 0).used < ((tForce false 1).fn 0).nframes ∧ ((tForce false 0).fn 0).nframes ≤ ((tForce false 0).fn 0).used) := by decide

/-- Witnesses of TeamEvents: a line of a fill, and a timer's record. -/
theorem wit_TeamEvents_fill_timer :
    (tFill.hasTeam 0 = true ∧ (tFill.team 0).st = .resident ∧ (tFill.team 0).kill = none ∧ SMap.get 0 (tFill.team 0).rgnFill 0 ≠ 0 ∧ (tFill.team 0).rgnVa 0 0 = 0x2800 ∧ (xl0 .load tFill).isSome = true) ∧
    ((tTimer.fn 0).timers[0]?.map (fun e => decide (e.stuck = false ∧ e.at_ ≤ tTimer.clk.time)) = some true ∧
      (match tTimer.reach 0 false .store 0x2800 8 true with | (.ok x, a) => !a.isPoison (x.key + 4) 4 | _ => false) = true) := by decide

/-- R33, R46, R47, R45, R58, R60, R62, R260, R365, R419: where the team stands after each step. -/
theorem test_team_events :
    seen (exec (.teamDispatch 3) tNew) (fun t => ((t.team tNew.clk.ids).core, (t.grp tNew.clk.ids 0).st, (t.grp tNew.clk.ids 0).xr 5 0, (t.grp tNew.clk.ids 0).wr 0)) =
      some (640, .ready, 5, 0x6000) ∧
    seen (exec (.teamDispatch 0) tSaved) (fun t => ((t.team 0).st, (t.grp 0 0).st)) = some (.resident, .ready) ∧
    seen (exec (.dispatchReserve 3) tBlocked) (fun t => t.sched.reserved) = some [(640, 3)] ∧
    seen (exec (.engineBatchPush 3) tBatch) (fun t => (t.eng.cmds.map fun c => (c.qn, c.batch), (t.grid 3).next)) = some ([(0, true)], 1) ∧
    seen (exec (.teamEnd 0) tExited) (fun t => (t.hasTeam 0, (t.grid 3).live)) = some (false, 0) ∧
    seen (exec (.gridRetire 3) tRetired) (fun t => t.sched.grids.length) = some 0 ∧
    seen (exec (.demandFaultSave 0) (tFault 1)) (fun t => ((t.team 0).st, (t.fn 0).used)) = some (.saved, 1) ∧
    seen (exec (.demandFaultSave 0) (tFault 0)) (fun t => ((t.team 0).held, (t.grp 0 0).st)) = some (true, .parked) ∧
    seen (exec (.teamKill 0 0x0E) (tKill false)) (fun t => (t.grp 0 0).st) = some .done ∧
    seen (exec (.teamKill 0 0x0E) (tKill true)) (fun t => t.hasTeam 0) = some false ∧
    seen (exec (.saveBudgetExpiry 0) (tForce true 0)) (fun t => (t.team 0).st) = some .discarded ∧
    seen (exec (.saveBudgetExpiry 0) (tForce false 0)) (fun t => (t.team 0).kill) = some (some 0x10) := by decide +kernel

/-- R72, R260: a byte of the line that comes, and a count decremented. -/
theorem test_fill_timer :
    seen (exec (.regionFillArrival 0 0) (put 8 9 tFill)) (fun t => ((t.team 0).spRead 0 8, SMap.get 0 (t.team 0).rgnFill 0)) = some (9, 0) ∧
    seen (exec (.timerFire 0 0) { tTimer with mem := memWrite tTimer.mem 0x402804 4 33 }) (fun t => (t.rd 0x402804 4, (t.fn 0).timers.length)) = some (32, 0) := by decide +kernel
/-! ## Stores, time, slices -/

/-- A store of 9 to 0x2800 that is on its way, and one that is performed. -/
def sFly : State := { base with stores := [{ id := 5, key := 0x402800, size := 8, val := 9, performed := false }] }
def sDelta : State := { base with stores := [{ id := 4, deltas := [5, 6] }], ras := { base.ras with deltas := [{ id := 5, row := 9, lines := [(1, 2)] }, { id := 6 }] } }
def sUnit : State := { base with stores := [{ id := 5, performed := false, key := 0x100, size := 4, val := 7, drain := some { lanes := 1, sp := true } }] }
def sTwin : State := { base with stores := [{ id := 5, performed := false, key := 0x402800, twin := some (0x402900, 0, 0x402A00) }] }
def sRmw : State := { base with stores := [{ id := 5, performed := false, key := 0x402800, size := 4, remote := true, rmw := some {} }] }
def sDone (remote : Bool) : State := { base with stores := [{ id := 5, remote := remote }] }

/-- Pool 0 of pair 0, with members, the current one and its slice; function 1 with a withheld record has work. -/
def pooled (cur : Nat) (ms : List Nat) (s : State) : State :=
  { s.updFn 1 fun c => { c with withheld := [{}] } with
    part := { s.part with owner := [(0, 256)], pools := [(0, { en := true, slicelen := 5, cur := cur, curlen := 3000, members := ms, ovrlim := 1 })] } }

/-- Slices: renewed; ended without teams, with a discardable one, with one that has no handler and one that has; to begin. -/
def pRenew : State := atTime 3000 (pooled 1 [1] base)
def pEnd (tm : Team → Team) : State := atTime 3000 (pooled 2 [1] (onT tm base))
def pStart : State := { pooled 0 [1] base with teams := [] }
def pOver : State := atTime 1001 { pRenew.updFn 1 fun c => { c with slacks := [{ time := 0, lim := 1, ids := [7] }] } with eng := { cmds := [{ id := 7, qn := 4, fn := 1, img := 0x43, started := true }] } }

/-- The next member that a pool's turn finds. -/
def nextOf (s : State) : Option (Nat × Nat) :=
  let a := s.updPool 0 fun p => { p with members := p.next.getD p.members, next := none }
  (a.nextMember (a.pool 0) turnFuel (a.pool 0).turns).1

/-- Witnesses of StoresTimeAndSlices. -/
theorem wit_StoresTimeAndSlices :
    (sFly.stores.find? (fun d => decide (d.id = 5))).isSome = true ∧ (∀ e ∈ sFly.stores, e.performed = false ∧ sFly.behind e = false ∧ e.drain = none ∧ e.twin = none) ∧ sFly.lh.keyless = [] ∧
    (∀ e ∈ sUnit.stores, e.performed = false ∧ sUnit.behind e = false ∧ e.drain = some { lanes := 1, sp := true }) ∧
    (∀ e ∈ sTwin.stores, e.twin = some (0x402900, 0, 0x402A00)) ∧
    (∀ e ∈ sRmw.stores, e.rmw.isSome = true ∧ sRmw.isPoison (sRmw.storeKey e) e.size = false) ∧ (sDelta.ras.deltas.find? fun d => decide (d.id = 5)).isSome = true ∧
    (∀ e ∈ (sDone true).stores, e.performed = true ∧ e.deltas = [] ∧ e.remote = true) ∧ (sDone true).hasGrp 0 0 = true ∧
    (coreExists 641 = true ∧ SMap.get 0 (atCycle 64 base).cache.ltick 641 + base.cache.tstick.toNat ≤ (atCycle 64 base).clk.cycle) ∧ base.exists_ 0 = true ∧
    ((pRenew.pool 0).en = true ∧ (pRenew.pool 0).cur ≠ 0 ∧ (pRenew.pool 0).endTime = none ∧ (pRenew.pool 0).curlen ≤ pRenew.since (pRenew.pool 0).start ∧ nextOf pRenew = some (1, 5000)) ∧
    (nextOf (pEnd id) = some (1, 5000) ∧ (pEnd id).poolTeams 0 = [0] ∧ (pEnd id).saveReady 0 = true ∧ ((pEnd id).fn 0).preAt = 0 ∧
      ((pEnd fun tm => { tm with discardable := true }).team 0).discardable = true ∧ { pEnd id with teams := [] }.poolTeams 0 = []) ∧
    (((pEnd id).updFn 0 fun c => { c with preAt := 0x7000 }).noHandler 0 = false) ∧
    ((pStart.pool 0).en = true ∧ pStart.poolCores 0 ≠ [] ∧ (pStart.pool 0).cur = 0 ∧ (pStart.pool 0).endTime = none ∧ pStart.poolTeams 0 = [] ∧ (pStart.fn 0).reset = none ∧
      nextOf pStart = some (1, 5000)) ∧
    ((pOver.fn 1).slacks.any fun e => pOver.slackRuns 1 e && decide (1000 * e.lim < pOver.since e.time)) = true := by decide +kernel

/-- R75, R77, R82, R325, R360, R362–R364, R443: stores, ticks, tokens and slices. -/
theorem test_stores_time_slices :
    seen (exec (.storeAck 5) sFly) (fun t => (t.rd 0x402800 8, t.stores.map fun d => d.performed)) = some (9, [true]) ∧
    seen (exec (.parityDeltaApply 5) sDelta) (fun t => (t.stores.map fun d => d.deltas, t.ras.deltas.length)) = some ([[6]], 1) ∧
    seen (exec (.storeAck 5) (ths (fun th => { th with osat := 2 }) (sDone true))) (fun t => (t.stores.length, ((t.grp 0 0).th 0).osat)) = some (0, 1) ∧
    seen (exec (.logicalTimeTick 641) (atCycle 64 base)) (fun t => (SMap.get 0 t.cache.ltime 641, SMap.get 0 t.cache.ltime 640)) = some (1, 0) ∧
    seen (exec (.sluiceTokenRefill 0) (atTime 7 (fn0 (fun c => { c with mburst := 1, mrate := 100, lburst := 1, lrate := 200 }) base))) (fun t => ((t.fn 0).mbal, (t.fn 0).lbal)) =
      some (700, 1000) ∧
    seen (exec (.sliceEnd 0) pRenew) (fun t => ((t.pool 0).curlen, (t.pool 0).start)) = some (5000, 3000) ∧
    seen (exec (.sliceEnd 0) (pEnd fun tm => { tm with discardable := true })) (fun t => ((t.pool 0).endTime, (t.team 0).st)) = some (some 3000, .discarded) ∧
    seen (exec (.sliceEnd 0) (pEnd id)) (fun t => (t.team 0).forceSave) = some true ∧
    seen (exec (.sliceStart 0) pStart) (fun t => ((t.pool 0).cur, (t.pool 0).curlen, SMap.get 0 t.part.hvf 1)) = some (1, 5000, 1) ∧
    seen (exec (.slackWatchdog 1) pOver) (fun t => t.eng.cmds.map fun c => (c.failed, c.cause)) = some [(true, 0x65)] := by decide +kernel
/-! ## Engine commands -/

/-- A command with its doublewords, and the state in which a step concerns it. -/
def cmdOf (qn : Nat) (d : List Nat) : Cmd := { id := 7, qn := qn, img := BitVec.ofNat 512 (ofDwords d) }
def withCmd (c : Cmd) (s : State) : State := { s with eng := { cmds := [c] }, item := 7 }

/-- What a command looks like after a step. -/
def cmdSeen (i : Instr) (s : State) : Option (CmdSt × Nat × Nat) := seen (exec i s) fun t => ((t.cmd 7).st, (t.cmd 7).pos, (t.cmd 7).cause)

/-- A message for an entry at 0x3000 on any die, with payload 1 to 5; LKRUN of two groups for core 512; data for line 3. -/
def amsg1 : Cmd := cmdOf 3 [0x30, 0, 0x3000 + 2 ^ 60, 1, 2, 3, 4, 5]
def lk1 : Cmd := cmdOf 4 [0x4C, 0, 0x3000, 0x6000, 2 ^ 16, 0, 0, 0]
def evt1 : Cmd := cmdOf 7 [0x70, 0, 9 + 77 * 2 ^ 32]
def sAmsg : State := harbourOn (withCmd { amsg1 with st := .sent, harbour := true } base)
def sArr (st : CmdSt) : State :=
  let s := withCmd { cmdOf 0 [0x01] with st := st, lines := [3] } (onT (fun tm => tm.updLine 3 fun l => { l with pending := 1, absent := true }) base)
  { s with eng := { s.eng with arrivals := [{ id := 5, cmd := 7, team := 0, line := 3, bytes := [(384, 8), (385, 9)] }] } }

/-- Witnesses of CommandEnds: messages, microkernels with a core, for any core, without one, and where there is room; an event; data; a command that is
done, and a malformed one. -/
theorem wit_CommandEnds :
    ((withCmd amsg1 base).cmdFor 7 3 0x30).isSome = true ∧ bf (cdw amsg1.img 2) 57 48 = 0 ∧
    (let s := withCmd { amsg1 with st := .sent } base
     (∀ c ∈ s.eng.cmds, c.qn = 3 ∧ c.st = .sent) ∧ s.pickCore [640, 641] 7 { groups := 1, blocks := bf (cdw amsg1.img 2) 63 61 + 1, lines := 0 } = some 640) ∧
    ((withCmd lk1 base).cmdFor 7 4 0x4C).isSome = true ∧ lkAny lk1.img = false ∧ lkCore lk1.img = 512 ∧ base.ledgeCores 0 = (List.range 128).map (512 + ·) ∧
    (let l : Cmd := cmdOf 4 [0x4C, 0, 0x3000, 0x6000, 2 ^ 12]; ((withCmd l base).cmdFor 7 4 0x4C).isSome = true ∧ lkAny l.img = true) ∧
    base.ledgeCores 1 = [] ∧ ((withCmd { lk1 with fn := 1 } base).cmdFor 7 4 0x4C).isSome = true ∧
    base.roomOn 512 { groups := lkGpt lk1.img, blocks := lkGpt lk1.img * lkRblk lk1.img, lines := lkSpl lk1.img } = true ∧
    ((withCmd evt1 base).cmdFor 7 7 0x70).isSome = true ∧
    ((sArr .done).eng.arrivals.find? (fun b => decide (b.id = 5))).isSome = true ∧ (sArr .done).hasTeam 0 = true ∧ (∀ a ∈ (sArr .done).eng.arrivals, ∀ b ∈ a.bytes, b.1 / 128 = a.line) ∧
    ((sArr .done).cmd 7).st = .done ∧ ((sArr .done).cmd 7).failed = false ∧ ((sArr .done).cmd 7).lines = [3] ∧ ((sArr .queued).cmd 7).st ≠ .done ∧
    (let s := withCmd (cmdOf 0 [0x03]) base; s.startable (s.cmd 7) = true ∧ cmdBad 0 (s.cmd 7).img = true ∧ (s.cmd 7).st ≠ .done) ∧
    (let c : Cmd := { cmdOf 0 [0x01] with st := .done }; c.lines = [] ∧ c.far = 0 ∧ c.errs = [] ∧ c.qn < 8) := by decide +kernel

/-- A message finds its core among those of its die or of all dies. -/
theorem wit_CommandEnds_message :
    (let s := withCmd { amsg1 with st := .sent } { base with lh := { base.lh with up := 5 }, part := { base.part with fenced := List.range' 1 191 } }
     s.pickCore (s.amsgCores { amsg1 with st := .sent }) 7 { groups := 1, blocks := 1, lines := 0 } = some 1) := by decide +kernel

/-- R33, R69, R285, R289, R290, R297, R307, R422: where each command stands. -/
theorem test_command_ends :
    seen (exec .lkrun (withCmd lk1 base)) (fun t => ((t.cmd 7).st, (t.cmd 7).pos)) = some (.sent, 512) ∧
    cmdSeen .lkrun (withCmd { lk1 with fn := 1 } base) = some (.done, 0, 0x23) ∧
    seen (exec .lkrunPlace (withCmd { lk1 with st := .sent, pos := 512 } base)) (fun t => let n := base.clk.ids
      ((t.team n).core, (t.grp n 1).wr 3, (t.grp n 1).wr 5, ((t.grp n 1).th 7).pt.addr)) = some (512, 1, 1, 0x3000) ∧
    seen (exec .evt (withCmd evt1 base)) (fun t => ((t.cmd 7).st, (SMap.get {} (t.fn 0).rings 9).wait.length)) = some (.spawned, 1) ∧
    seen (exec (.scratchpadArrival 5) (sArr .done)) (fun t => ((t.team 0).spRead 384 2, ((t.team 0).line 3).pending, ((t.team 0).line 3).absent)) = some (0x908, 0, false) ∧
    seen (exec .commandCompletion (withCmd { cmdOf 0 [0x01] with st := .done } base)) (fun t => t.eng.cmds.length) = some 0 ∧
    cmdSeen .commandCompletion (withCmd (cmdOf 0 [0x03]) base) = some (.done, 0, 0x20) := by
  decide +kernel

/-- COPY of 8 bytes from 0x2800 to 0x2900; FILL of 8 bytes there; CHAIN of one F32 element with its absolute value; a page of the shelf to 0x2000, and one appended
from there; CP pages, as direct mode asks. -/
def cpy : Cmd := cmdOf 0 [0x01, 0, 0x2800, 0x2900, 8 + 2 ^ 32]
def fil : Cmd := cmdOf 0 [0x02, 0, 0x0807060504030201, 0x2900, 8 + 2 ^ 32]
def chn : Cmd := cmdOf 1 [0x10, 0, 0x2800, 0, 0x2900, 0, 2 ^ 32, 96]
def shr : Cmd := cmdOf 6 [0x60, 0, 3, 0x2000, 1]
def sha : Cmd := cmdOf 6 [0x61, 0, 0x2000, 1, 0x2800]

/-- The command in that page; a log of four pages for function 0, with a key. -/
def onCp (c : Cmd) : State := let s := coh 2 base; withCmd c { s with cache := { s.cache with cpOwner := [(2, 1)] } }
def logged (s : State) : State :=
  { fn0 (fun c => { c with logBase := 2, logLen := 4, logHead := 2, logStart := 2, quota := 4 }) s with
    lh := { s.lh with shelfKey := [(0, 6)] }, ras := { s.ras with shelf := [(3, some (0, 6))] } }

/-- What the accesses of a command give. -/
def srcOf (c : Cmd) (va n : Nat) : Option Nat := match (onCp c).engSrc c false va n 0 with | .ok v _ => some v | _ => none
def dstGoes (c : Cmd) (s : State) : Bool := match s.engDst c 0x2900 0 with | .ok _ _ => true | _ => false

/-- Witnesses of EngineCommands: the copy, chain and shelf engines. -/
theorem wit_EngineCommands :
    ((onCp cpy).cmdFor 7 0 0x01).isSome = true ∧ (copyPieces cpy.img)[0]? = some { dst := 0x2900, n := 8, src := 0x2800 } ∧ srcOf cpy 0x2800 8 = some 0 ∧ dstGoes cpy (onCp cpy) = true ∧
    ((onCp fil).cmdFor 7 0 0x02).isSome = true ∧ (copyPieces fil.img)[0]?.isSome = true ∧ cmdShd cpy.img = false ∧
    ((onCp chn).cmdFor 7 1 0x10).isSome = true ∧ 0 < bf (cdw chn.img 6) 63 32 ∧ (0x2900 : Nat) % 128 + 4 ≤ 128 ∧ srcOf chn 0x2800 4 = some 0 ∧ cmdAddr chn.img 3 = 0 ∧
    (∀ c ∈ [cpy, fil, chn], (onCp c).rejected c (dstPages c.img) = none) ∧ (onCp shr).rejected shr [0x2000] = none ∧ base.ras.shelfLost = [] ∧
    ((onCp shr).cmdFor 7 6 0x60).isSome = true ∧ (logged (onCp shr)).shelfFault 0 3 = none ∧ (logged (onCp shr)).shelfFault 0 4 = some 0x4F ∧
    ((onCp sha).cmdFor 7 6 0x61).isSome = true ∧ 1 ≤ ((logged (onCp sha)).fn 0).logRoom ∧ SMap.get 0 (logged (onCp sha)).lh.shelfKey 0 ≠ 0 ∧ ((onCp sha).fn 0).logRoom < 1 := by
  decide +kernel

/-- R286, R287, R327, R329: a copied doubleword, a filled one, |−2|, a page assigned, the first page's number. -/
theorem test_engine_commands :
    seen (exec .copy (put 8 9 (onCp cpy))) (fun t => (t.cache.l1.map fun l => (l.line % 2, memRead l.data 0 8), (t.cmd 7).st)) = some ([(0, 9), (0, 9)], .done) ∧
    seen (exec .fill (onCp fil)) (fun t => t.cache.l1.map fun l => memRead l.data 0 8) = some [0x0807060504030201] ∧
    seen (exec .chain (put 4 0xC0000000 (onCp chn))) (fun t => t.cache.l1.map fun l => memRead l.data 0 4) = some [0xC0000000, 0x40000000] ∧
    seen (exec .shelfAppend (logged (onCp sha))) (fun t => ((t.fn 0).logHead, (t.cmd 7).spn, (t.cmd 7).pos)) = some (3, 2, 1) ∧
    seen (exec .shelfAppend (logged (onCp { sha with pos := 2, spn := 2 }))) (fun t => (t.cache.l1.map fun l => memRead l.data 0 8, (t.cmd 7).st)) = some ([2], .done) ∧
    cmdSeen .shelfRead (onCp shr) = some (.done, 0, 0x4F) := by decide +kernel
/-! ## Collectives and bank-side commands -/

/-- A collective of two members, ranks 0 and 1, one element each, from 0x2800 and 0x2804 to 0x2900 and 0x2904: their set record is at 0x2A00. -/
def colls (code fmt : Nat) : List Cmd :=
  [cmdOf 2 [code, 0, 0x2800, 0x2900, (if code = 0x24 then 2 else 1) + fmt * 2 ^ 32, 0x2A00, 0], { cmdOf 2 [code, 0, 0x2804, 0x2904, (if code = 0x24 then 2 else 1) + fmt * 2 ^ 32, 0x2A00, 1] with id := 8, lane := 1 }]

/-- The same in a state, with elements 3 and 4 and a set of two entries of package 0, die 0. -/
def sColl (code : Nat) : State :=
  { onCp cpy with eng := { cmds := colls code 3 }, item := 7, mem := memWrite (memWrite base.mem 0x402A00 8 2) 0x402800 8 (3 + 4 * 2 ^ 32) }

/-- The set and the sources that the members read. -/
def setOf (s : State) : Option (List Nat) := match s.collSet (s.cmd 7) with | .ok l _ => some l | _ => none
def gathered (s : State) : Option (List (Nat × List Nat)) := (s.collGather (s.collMates (s.cmd 7)) (s.collMates (s.cmd 7)) []).1

/-- What no member's destination makes wait. -/
def reaches (s : State) (d : Cmd) : Bool := match s.collReach d [(0, 7)] with | .ok .. => true | _ => false

/-- Witnesses of EngineCommands: collectives, in package 0; and with a member elsewhere whose tag a link admits. -/
theorem wit_EngineCommands_collectives (h : Config.package = 0) :
    (∀ k ∈ [0x20, 0x21, 0x22, 0x23, 0x24], ((sColl k).cmdFor 7 2 k).isSome = true ∧ setOf (sColl k) = some [0, 0] ∧ ((sColl k).collMates ((sColl k).cmd 7)).map (·.id) = [7, 8] ∧
      collRoot ((sColl k).cmd 7).img < 2 ∧ (k = 0x24 → collCount ((sColl k).cmd 7).img % 2 = 0)) ∧
    (∀ d ∈ colls 0x20 3, (sColl 0x20).startable d = true ∧ collAgree (cmdOf 2 [0x20, 0, 0x2800, 0x2900, 1 + 3 * 2 ^ 32, 0x2A00, 0]).img d.img = true ∧ collRank d.img < 2 ∧
      entryDie 0 = dieOf d.core ∧ reaches (sColl 0x20) d = true) ∧
    gathered (sColl 0x20) = some [(0, [3]), (1, [4])] ∧ (sColl 0x20).entryHere 0 0 = true ∧
    (sColl 0x20).peerPkg 0 0 = 0 ∧ { sColl 0x20 with ext := { base.ext with peer := [(5, 9)] } }.entryHere 0 5 = false ∧
    { sColl 0x20 with ext := { base.ext with admission := [(0, some (0, 0))] } }.admitted 0 0 = true :=
  ⟨by decide +kernel, by decide +kernel, by decide +kernel, by unfold State.entryHere; rw [h]; decide +kernel, by decide +kernel,
    by unfold State.entryHere; rw [h]; decide +kernel, by decide +kernel⟩

/-- A row command on rows at 0x2800 and 0x2C00; a page of near-bank rows. -/
def rowed (c : Cmd) : State := let s := coh 1 base; withCmd c { s with cache := { s.cache with tlb := s.cache.tlb.map fun e => { e with nbw := true } } }
def rcp : Cmd := cmdOf 4 [0x40, 0, 0x2C00, 0x2800, 1]
def rop (f : Nat) : Cmd := cmdOf 4 ([0x41 + 256 * f, 0, 0x2C00, 0x2800, 1] ++ if f = 3 then [] else if f = 4 then [0x2C00, 0x2C00] else [0x2C00])
def rzr : Cmd := cmdOf 4 [0x42, 0, 0, 0x2800, 2]
def scr : Cmd := cmdOf 4 [0x43, 0, 0, 0x2800, 1]
def alc : Cmd := cmdOf 4 [0x48, 0, 0x2800, 0, 1 + 2 ^ 32]
def fre : Cmd := cmdOf 4 [0x49, 0, 6]

/-- Whether a row is reached, and its source read. -/
def rowGoes (c : Cmd) (acc : Acc) (dst : Bool) : Option Nat := match (rowed c).rowReach c acc dst 3 0 with | .ok k _ => some k | _ => none
def srcGoes (c : Cmd) (dw : Nat) : Bool := match (rowed c).rowSrc c dw 0 0x402800 with | .ok _ _ => true | _ => false

/-- Witnesses of BankCommands: row commands of every kind, a row that cannot be reached, an answer without a pool, a number that is not live and one that is. -/
theorem wit_BankCommands :
    ((rowed rcp).cmdFor 7 4 0x40).isSome = true ∧ rowGoes rcp .store true = some 0x402800 ∧ srcGoes rcp 2 = true ∧
    (∀ f ∈ [0, 1, 2, 3, 4], ((rowed (rop f)).cmdFor 7 4 0x41).isSome = true ∧ cmdFlags (rop f).img = f ∧ srcGoes (rop f) 2 = true) ∧ srcGoes (rop 4) 5 = true ∧ srcGoes (rop 4) 6 = true ∧
    ((rowed rzr).cmdFor 7 4 0x42).isSome = true ∧ ((rowed scr).cmdFor 7 4 0x43).isSome = true ∧ rowGoes scr .load false = some 0x402800 ∧
    (match (withCmd rzr (coh 1 base)).rowReach rzr .store true 3 0 with | .fail c _ _ _ _ => c != 0 && c != 0x4B | _ => false) = true ∧ rzr.cause = 0 ∧
    ((rowed alc).cmdFor 7 4 0x48).isSome = true ∧ (match (rowed alc).engReach alc .store 0x2800 0 (fun x => x.coh = 2) with | .ok _ a => decide ((SMap.get (0, 0) a.part.nbpool 0).2 = 0) | _ => false) = true ∧
    ((rowed fre).cmdFor 7 4 0x49).isSome = true ∧ (rowed fre).part.allocs = [] ∧
    (let s := { rowed fre with part := { (rowed fre).part with allocs := [{ slice := 0, id := 6, bases := [], nrows := 64 }] } }
     (s.part.allocs.find? (fun a => decide (a.slice = 0) && decide (a.id = 6))).isSome = true ∧ s.rowsNamed fre [] = false) := by decide +kernel

/-- R301, R305, R306: a copied row, two rows XORed, a zeroed row and the next; no pool; no such number. -/
theorem test_bank_commands :
    held 8 .rowcopy ({ rowed rcp with mem := memWrite (rowed rcp).mem 0x402C00 8 9 } : State) = some 9 ∧
    held 8 .rowop (put 8 9 (rowed (rop 2))) = some 0 ∧ seen (exec .rowzero (put 8 9 (rowed rzr))) (fun t => (t.rd 0x402800 8, (t.cmd 7).pos, (t.cmd 7).st)) = some (0, 1, .queued) ∧
    held 8 .alloc (rowed alc) = some 0x200 ∧ cmdSeen .free (rowed fre) = some (.done, 0, 0x20) := by decide +kernel

/-- A lookup of table row 1, of two F32 elements, in a table at 0x2900, its output at 0x2980: its list is at 0x2A00. -/
def wlk : State :=
  let s := withCmd (cmdOf 5 [0x50, 0, 0x2800, 1]) (coh 2 base)
  { s with mem := memWrite (memWrite (memWrite s.mem 0x402800 64 (ofDwords [0x2A00, 4 + 2 ^ 32, 0x2900, 2 + 64 * 2 ^ 32, 0, 0x2980, 0, 0])) 0x402A00 4 1) 0x402940 8 (0x3F800000 + 0x40000000 * 2 ^ 32) }

/-- Witnesses of BankCommands: no earlier command in the way, a quiet stripe. -/
theorem wit_BankCommands_free :
    (rowed rcp).bankBehind rcp 0 = false ∧ (rowed alc).allocBehind alc = false ∧ (rowed fre).allocBehind fre = false ∧ (rowed scr).stripeBusy (0x402800 / 64) = false := by
  decide +kernel

/-- Witnesses of CommandEnds: a message to this package and one to another, lines with and without more to come, an operand out of line. -/
theorem wit_CommandEnds_cases (h : Config.package = 0) :
    (bf (SMap.get 0 base.ext.peer 0).toNat 17 0 = Config.package ∧ bf (9 : BitVec 64).toNat 17 0 ≠ Config.package) ∧
    ((sArr .done).cmd 7).due 3 = false ∧ ((withCmd fil base).cmd 7).due (0x2900 / 128) = true ∧
    (rowSkew (cmdOf 4 [0x40, 0, 0x2C04, 0x2800, 1]).img = some 2 ∧ cmdBad 4 (cmdOf 4 [0x40, 0, 0x2C04, 0x2800, 1]).img = true) := by
  rw [h]; decide +kernel

/-- Witness of BankCommands: a lookup record in order, its table row in the slice's bank. -/
theorem wit_BankCommands_walk :
    (wlk.cmdFor 7 5 0x50).isSome = true ∧ (lookupOf [0x2A00, 4 + 2 ^ 32, 0x2900, 2 + 64 * 2 ^ 32, 0, 0x2980, 0, 0]).isSome = true ∧ 0x2980 % 128 + 2 * 4 ≤ 128 := by decide +kernel

/-- R308–R310: 1.0 and 2.0 as they stand, a pool of one row. -/
theorem test_walk : seen (exec .walk wlk) (fun t => ((t.cache.l1.filter fun l => l.dirty).map fun l => memRead l.data 0 8, (t.cmd 7).st)) = some ([0x400000003F800000], .done) := by decide +kernel
/-! ## The host, the links, memory, translations -/

/-- Function 0 with an ingress queue; its ring 9 with record 77 at its head, enabled or not; a function whose pool serves another. -/
def hQueue : State := fn0 (fun c => { c with made := true, iqDepth := 1 }) base
def hRing (en : Bool) (n : Nat) (r : Ring → Ring) : State :=
  fn0 (fun c => { c with ringTab := 0x2A00, rings := [(n, r { en := en, base := 0x2B00, log2n := 4, wait := [(3, 77)] })] }) base
def hAway : State := { (pooled 2 [1] base).updFn 1 fun c => { c with rings := [(9, { en := true, wait := [(3, 77)] })] } with teams := [] }
def hTimer : State := atTime 5 (hRing true 9 fun r => { r with timer := some 0, pend := 1, ctime := 5, vec := 2 })
def hFault : State := fn0 (fun c => { c with backlog := [{ addr := 0x5000 }], fring := some (0x2A00, 1, 5, false, 0x2B00) }) (dev base)

/-- Witnesses of HostPorts. -/
theorem wit_HostPorts :
    (base.exists_ 0 = true ∧ base.exists_ 5 = false ∧ (base.fn 0).made = false ∧ base.lh.spdmOnly = false ∧ (base.fn 0).iface ≠ .error) ∧
    ((hQueue.fn 0).made = true ∧ (hQueue.fn 0).reset = none ∧ (hQueue.fn 0).iface ≠ .error ∧ hQueue.ingress 0 < (hQueue.fn 0).iqDepth) ∧
    (let s := hRing true 9 id; ((s.fn 0).ring 9).wait = [(3, 77)] ∧ ((s.fn 0).ring 9).en = true ∧ s.descheduled 0 = false ∧ s.ext.hostDown = false ∧ s.ringRoom 0 9 = true) ∧
    ((hRing true 63 id).ringRoom 0 63 = true ∧ (((hRing false 9 id).fn 0).ring 9).en = false ∧ (hRing false 9 id).errHeld 0 = false) ∧
    (((hAway.fn 1).ring 9).en = true ∧ hAway.descheduled 1 = true ∧ (hAway.fn 1).withheld.length < 256) ∧
    (((hTimer.fn 0).ring 9).timer = some 0 ∧ ((hTimer.fn 0).ring 9).pend ≠ 0 ∧ ((hTimer.fn 0).ring 9).ctime ≤ hTimer.since 0 ∧ ((hTimer.fn 0).ring 9).ctime ≠ 0 ∧
      ((hTimer.fn 0).ring 9).pend + 1 ≥ max 1 ((hTimer.fn 0).ring 9).ccount ∧ (((hRing true 9 fun r => { r with ccount := 2 }).fn 0).ring 9).pend + 1 < 2) ∧
    ((hFault.fn 0).backlog.length = 1 ∧ (hFault.fn 0).fring = some (0x2A00, 1, 5, false, 0x2B00) ∧ ((hFault.hubReach .load 0x2B04 4).map fun x => hFault.rd x.key 4) = some 0 ∧
      ((hFault.hubWrites 0x2A00 [0x5000, 0, 0, 0]).bind fun a => a.hubWrite 0x2B00 4 1).isSome = true) := by decide +kernel

/-- Witnesses of HostPorts: the next writer of a ring, with a withheld record before it and without. -/
theorem wit_HostPorts_writers :
    (hRing true 9 id).nextWriter 0 9 = some (some 3, 77) ∧ (hRing true 63 id).nextWriter 0 63 = some (some 3, 77) ∧
    ((hRing true 9 id).updFn 0 fun c => { c with withheld := [{ ring := 9, record := 5 }] }).nextWriter 0 9 = some (none, 5) ∧
    ((hRing true 8 id).updFn 0 fun c => { c with withheld := [{ ring := 9, record := 5 }] }).nextWriter 0 8 = none := by decide +kernel

/-- R343, R385–R390, R462: answers, the MSI-X table, records, vectors, a page request. -/
theorem test_host_ports :
    seen (exec (.enqueueWrite 0 64 0 true 0) base) (fun t => t.outbox) = some [.enqueue 0 2] ∧ seen (exec (.enqueueWrite 0 128 0 true 0) base) (fun t => t.outbox) = some [.enqueue 0 1] ∧
    seen (exec (.enqueueWrite 0 128 128 true 0) hQueue) (fun t => t.outbox) = some [.enqueue 0 0] ∧
    seen (exec (.hostBarRequest 5 0 0 false 0) base) (fun t => t.outbox) = some [.bar 5 true 0] ∧
    seen (exec (.hostBarRequest 0 0 0x13F8 false 0) base) (fun t => t.outbox) = some [.bar 0 false 0x100000000] ∧
    seen (exec (.hostBarRequest 0 0 0x1008 true 5) (fn0 (fun c => { c with msixPend := 1 }) base)) (fun t => ((t.fn 0).masked.getLsbD 0, SMap.get 0 (t.fn 0).msix 1, t.outbox)) =
      some (false, 5, [.msix 0 0]) ∧
    seen (exec (.ringRecordWrite 0 9) (hRing true 9 fun r => { r with vec := 2 })) (fun t => (((t.fn 0).ring 9).widx, ((t.fn 0).ring 9).wait.length, t.rd 0x402B08 1, (t.fn 0).msixPend)) =
      some (1, 0, 0, 4) ∧
    seen (exec (.ringRecordWrite 0 63) (hRing true 63 id)) (fun t => (((t.fn 0).ring 63).widx, t.rd 0x402B00 8)) = some (2, 77) ∧
    seen (exec (.ringRecordWrite 1 9) hAway) (fun t => ((t.fn 1).withheld.length, ((t.fn 1).ring 9).wait.length)) = some (2, 0) ∧
    seen (exec (.coalesceTimer 0 9) hTimer) (fun t => (((t.fn 0).ring 9).pend, (t.fn 0).msixPend)) = some (0, 4) ∧
    seen (exec (.faultRingWrite 0) hFault) (fun t => (t.rd 0x402A00 8, t.rd 0x402B00 4, (t.fn 0).backlog.length)) = some (0x5000, 1, 0) := by decide +kernel

/-- A packet on link 0 that is admitted for function 0. -/
def pkt (k : LinkKind) (a : Nat) (v : BitVec 64) : LinkPacket := { id := 11, tag := 3, vf := 0, kind := k, addr := a, size := 8, data := v }
def linked (s : State) : State := { s with ext := { s.ext with admission := [(0, some (3, 0)), (1, some (3, 1))] } }

/-- A result from another package on its way; a ring in the host; a stream's keys. -/
def lPend : State := onG (fun g => { g with out := [{ come with remote := 1 }] }) (atTime 1000000 base)
def lHost : State := fn0 (fun c => { c with rings := [(9, { en := true, base := 0x200000, log2n := 4, wait := [(3, 77)] })] }) base
def lStore : State := { base with stores := [{ id := 5, key := 2 ^ 61, remote := true }] }

/-- Witnesses of Links. -/
theorem wit_Links :
    ((0 : Nat) ∉ (linked base).ext.linkDown ∧ (0 : Nat) ∉ (linked base).ext.retrain ∧ SMap.get none (linked base).ext.admission (64 * 0 + 0) = some (3, 0) ∧ ((linked base).fn 0).reset = none) ∧
    ((linked base).resolve 0x2800 = some 0x402800 ∧ (linked base).sliceOf (keyBank 0x402800) = 0 ∧ (linked base).resolve 0x200000 = none ∧ (linked base).lh.keyless = [] ∧
      (linked base).ras.lost = [] ∧ (linked base).isPoison 0x402800 8 = false ∧ (base.setPoison 0x402800 64).isPoison 0x402800 8 = true) ∧
    ((lStore.stores.find? fun d => decide (d.id = 5) && d.remote && decide ((decide (d.key < 2 ^ 61)) = false)).isSome = true ∧ lStore.hasGrp 0 0 = true) ∧
    ((∀ d ∈ lPend.stores, d.id ≠ 5) ∧ lPend.pendAt 5 = some (0, 0, { come with remote := 1 }) ∧ lPend.issuedAt 5 = some 0 ∧ 1000000 ≤ lPend.since 0) ∧
    (lHost.ringOfRec 3 = some (0, 9) ∧ ((lHost.fn 0).ring 9).en = true ∧ 2 ^ 60 ≤ lHost.ringKey 0 0x200000 ∧ base.ringOfRec 3 = none) ∧
    ((base.updFn 1 fun c => { c with made := true }).exists_ 1 = true ∧ base.ext.hostDown = false) := by decide +kernel

/-- R388, R391, R444–R449: packets answered and refused; failures with their effects. -/
theorem test_links :
    seen (exec (.longshoreIngress 0 (pkt .load 0x2800 0)) (put 8 9 (linked base))) (fun t => t.outbox) = some [.link 11 true 9] ∧
    seen (exec (.longshoreIngress 0 (pkt .store 0x2800 6)) (linked base)) (fun t => (t.rd 0x402800 8, t.outbox)) = some (6, [.link 11 true 0]) ∧
    seen (exec (.longshoreIngress 0 (pkt (.cas 9) 0x2800 6)) (put 8 9 (linked base))) (fun t => (t.rd 0x402800 8, t.outbox)) = some (6, [.link 11 true 9]) ∧
    seen (exec (.longshoreIngress 0 (pkt .load 0x200000 0)) (linked base)) (fun t => t.outbox) = some [.link 11 false 0x60] ∧
    seen (exec (.longshoreIngress 0 { pkt .load 0x2800 0 with vf := 1 }) (linked base)) (fun t => t.outbox) = some [.link 11 false 0x05] ∧
    seen (exec (.longshoreIngress 1 (pkt .load 0x2800 0)) (linked base)) (fun t => t.outbox) = some [.link 11 false 0x68] ∧
    seen (exec (.remoteAckTimeout 5) lPend) (fun t => (t.grp 0 0).out.map fun r => r.poison) = some [true] ∧
    seen (exec (.flitCheckFailure 3) base) (fun t => SMap.get 0 t.ext.replays 3) = some 1 ∧
    seen (exec (.flitCheckFailure 3) { base with ext := { base.ext with replays := [(3, 8)] } }) (fun t => t.ext.retrain) = some [3] ∧
    seen (exec (.linkRetrainDone 3 false) { base with ext := { base.ext with retrain := [3] } }) (fun t => (t.ext.retrain, t.ext.linkDown)) = some ([], [3]) ∧
    seen (exec (.hostWriteError 3) lHost) (fun t => ((t.fn 0).ring 9).en) = some false ∧
    seen (exec (.ideIntegrityFailure 4) { base.updFn 1 fun c => { c with made := true } with lh := { base.lh with ide := [(4, 1, 2)] } }) (fun t => (t.lh.ide, (t.fn 1).reset.map fun r => r.toErr)) =
      some ([], some true) ∧
    seen (exec .hostLinkDown base) (fun t => t.ext.hostDown) = some true := by decide +kernel

/-- Two requests that wait at channel 2. -/
def chans2 : State := atTime 8000 { base with ras := { base.ras with chans := [{ chan := 2, cls := 1, seq := 0, stamp := 1 }, { chan := 2, cls := 1, seq := 1 }] } }

/-- Witnesses of DamagedMemory: two requests, both of which the timing allows where the free values say so; a whole line, and one of a lost stack's stripe;
parity rows and others; stacks and modules. -/
theorem wit_DamagedMemory (h0 : (base.free (2 ^ 29 + 0)).getLsbD 0 = true) (h1 : (base.free (2 ^ 29 + 1)).getLsbD 0 = true) :
    (chans2.ras.chans.filter fun r => decide (r.chan = 2) && (chans2.free (2 ^ 29 + r.seq)).getLsbD 0) = chans2.ras.chans ∧ (∀ r ∈ chans2.ras.chans, 8000 ≤ chans2.since r.arrived) ∧
    (let line := 0x402800 / 64; lineBank line / 1024 ∉ base.ras.lost ∧ (dataRow (lineBank line / 1024) (lineRow line % 2 ^ 16)).isSome = true ∧ line < 2 ^ 34) ∧
    (0 / 4096 = 0 / 1024 ∧ 4096 / 4096 ≠ 0 / 1024 ∧ base.keylessLine 0 = false ∧ 16383 / 1024 ∉ base.ras.lost) := by
  refine ⟨?_, by decide, by decide +kernel, by decide +kernel⟩
  have e : ∀ k, chans2.free k = base.free k := fun _ => rfl
  have c : chans2.ras.chans = [{ chan := 2, cls := 1, seq := 0, stamp := 1 }, { chan := 2, cls := 1, seq := 1 }] := rfl
  simp only [e, c, List.filter_cons, h0, h1, decide_true, Bool.and_true, if_true, List.filter_nil]

/-- A clean and a dirty line of L1; a binding that is pinned; a group asleep on a line; the counts before their last correction. -/
def dL1 (dirty : Bool) : State := { base with cache := { base.cache with l1 := [{ core := 0, line := 0x402800 / 128, dirty := dirty }] } }
def dTile : State := { base with mtx := [(0, { recs := [(3, some { team := 0, binds := [{ st := 2 }] })] })] }
def dWake : State := { inState .sleep base with cache := { base.cache with wake := [(9, 0, 0)] } }
def dLast : State := { base with ras := { base.ras with ce := [(0x402800 / 1024, 7)], sram := [(4096 + 5, 255)] } }

/-- Witnesses of the damages in DamagedMemory. -/
theorem wit_DamagedMemory_found :
    (let line := 0x402800 / 64; line < 2 ^ 34 ∧ lineBank line / 1024 ∉ base.ras.lost ∧ (dataRow (lineBank line / 1024) (lineRow line % 2 ^ 16)).isSome = true ∧ base.keylessLine line = false ∧
      8 ≤ SMap.get 0 dLast.ras.ce (lineRow line) + 1) ∧
    (unitExists 1 5 = true ∧ SMap.get 0 dLast.ras.sram (4096 * 1 + 5) + 1 = 256 ∧ SMap.get 0 base.ras.sram (4096 * 1 + 5) + 1 < 256) ∧
    (∀ b ∈ [true, false], ((dL1 b).l1 0 (0x402800 / 128)).map (·.dirty) = some b) ∧
    (base.hasTeam 0 = true ∧ (base.team 0).st = .resident ∧ 2 < (base.team 0).spl) ∧
    ((SMap.get none (SMap.get {} dTile.mtx 0 : PairMtx).recs 3).map fun r => r.binds.map (·.st)) = some [2] ∧
    (dWake.hasGrp 0 0 = true ∧ (9, 0, 0) ∈ dWake.cache.wake) := by decide +kernel

/-- R424, R425, R427: records, lines dropped and poisoned, a group that wakes. -/
theorem test_damages :
    seen (exec (.reconstructingRead (.fixedLine (0x402800 / 64))) dLast) (fun t => SMap.get 0 t.ras.ce (0x402800 / 1024)) = some 0 ∧
    seen (exec (.reconstructingRead (.tagLine (0x402800 / 64))) base) (fun t => t.isPoison 0x402800 8) = some true ∧
    seen (exec (.reconstructingRead (.fixed 1 5)) dLast) (fun t => ((t.fn 0).ring 63).wait.length) = some 1 ∧
    seen (exec (.reconstructingRead (.l1Line 0 (0x402800 / 128))) (dL1 false)) (fun t => t.cache.l1.length) = some 0 ∧
    seen (exec (.reconstructingRead (.l1Line 0 (0x402800 / 128))) (dL1 true)) (fun t => t.cache.l1.map (·.poison)) = some [true] ∧
    seen (exec (.reconstructingRead (.cacheLine 1 5 (0x402800 / 128) true)) base) (fun t => t.isPoison 0x402800 8) = some true ∧
    seen (exec (.reconstructingRead (.window 0 2)) base) (fun t => ((t.team 0).line 2).poison) = some true ∧
    seen (exec (.reconstructingRead (.tile 0 3 0)) dTile) (fun t => (SMap.get none (SMap.get {} t.mtx 0 : PairMtx).recs 3).map fun r => r.binds.map (·.poison)) = some (some [true]) ∧
    seen (exec (.reconstructingRead (.wake 0 0)) dWake) (fun t => ((t.grp 0 0).st, t.cache.wake.length)) = some (.ready, 0) := by decide +kernel

/-- R429: the two units of a line that a drain writes whole clear its poison with the last of them; R448: nothing returns from a host that is gone;
R438: a demand fault parks a harbour core's group until REPLAY. -/
def sWhole : State :=
  let u (id n : Nat) : InFlight := { id := id, key := 0x402800 + n, size := 32, performed := false, drain := some { lanes := 1, whole := true } }
  { base with stores := [u 5 0, u 6 32], ras := { base.ras with poison := [0x402800 / 64] } }
def sAway : State := { onG (fun g => { g with out := [{ come with remote := 2 }] }) base with ext := { base.ext with hostDown := true } }
def sHarbour : State := onT (fun tm => { tm with core := 640 }) base
theorem test_whole_line : (∀ f ∈ wholeUnits [{ key := 64, size := 64, drain := some {} }, { key := 128, size := 8, drain := some {} }], f.drain = some { whole := decide (f.key = 64) }) ∧
    seen (exec (.storeAck 5) sWhole) (fun t => t.ras.poison) = some [0x402800 / 64] ∧
    (match exec (.storeAck 5) sWhole with | .next t => seen (exec (.storeAck 6) t) (fun t => t.ras.poison) | _ => none) = some [] := by decide +kernel
theorem test_host_gone : seen (exec (.loadReturn 0 0 5) sAway) (fun t => (t.grp 0 0).out.length) = some 1 ∧
    seen (exec .hostLinkDown sAway) (fun t => (t.grp 0 0).out.map (·.poison)) = some [true] := by decide +kernel
theorem test_harbour_fault : let s := sHarbour.meet 0 0 0 [.demand 2 0x9000 0 4096]
    (s.grp 0 0).st = .parked ∧ (s.grp 0 0).awaits = some (0, 0) ∧ (s.team 0).faulted = false ∧ s.unparksNow 0 0 = false ∧ ((s.replayFn 0).grp 0 0).awaits = none := by decide +kernel

/-- R320, R428, R433, R434: no request, a parity row noted, a row that is none, losses. -/
theorem test_damaged_memory :
    seen (exec (.channelCommandIssue 2) base) (fun t => t.ras.chans.length) = some 0 ∧
    seen (exec (.parityRowRebuild 0 7) base) (fun t => t.ras.parityBad) = some [7] ∧ seen (exec (.parityRowRebuild 0 4096) base) (fun t => t.ras.parityBad) = some [] ∧
    seen (exec (.stackLoss 3) base) (fun t => (t.ras.lost, t.ras.fatal)) = some ([3], false) ∧
    seen (exec (.stackLoss 4) { base with ras := { base.ras with lost := [3] } }) (fun t => t.ras.fatal) = some true ∧
    seen (exec (.shelfModuleLoss 2) base) (fun t => t.ras.shelfLost) = some [2] := by decide +kernel

/-- A request for the host's translation; a shoot-down of stage 1 for everything. -/
def tAts (pri : Bool) : State := { base with ext := { base.ext with ats := [{ id := 5, fn := 0, page := 9, pri := pri, who := [1] }] } }
def tShoot : State := atTime 100000 { base with part := { base.part with shoots := [{ cmd := 7, fn := 0, stage := 1, all := true }] } }

/-- Witnesses of Translations. -/
theorem wit_Translations :
    (let s := { base with focus := none }
     s.focus = none ∧ coreExists 640 = true ∧ (match s.walk { unit := unitOf 640, fn := 0, harbour := true } 0x2800 with | .ok x => decide (x.desc = none ∧ x.kind ≠ 1) | .error _ => false) = true ∧
     (match s.walk { unit := 0, fn := 0, harbour := false } 0x2800 with | .ok _ => false | .error _ => true) = true) ∧
    (base.focus = some f1 ∧ (base.team 0).core = 0 ∧ (base.team 0).fn = 0 ∧ (Safe.place f1 base).addr.toNat = 0x2004 ∧
      (match base.check (base.team 0).regime 0 .fetch false 0x2004 with | .ok _ => true | .error _ => false) = true) ∧
    (let s := handled { base with cache := {} }
     calmB f1 s = true ∧ (match s.check (s.team 0).regime 0 .fetch false 0x2004 with | .error (.trap c none) => c != 0x08 | _ => false) = true) ∧
    (∀ e ∈ base.cache.tlb, e.covers { unit := 320, fn := 0, harbour := true } 0x2800 = false) ∧
    (∀ b ∈ [true, false], ((tAts b).ext.ats.find? (fun q => decide (q.id = 5))).map (·.pri) = some b) ∧ (∀ q ∈ base.ext.ats, q.id ≠ 5) ∧
    ((tShoot.part.shoots.find? (fun g => decide (g.cmd = 7))).isSome = true ∧ tShoot.unitBusy 0 0 = false ∧ 100000 ≤ tShoot.since 0 ∧ (0 : Nat) ∉ tShoot.part.fenced ∧
      (tShoot.unitTeams 0).map (·.1) = [0] ∧ (tShoot.unitTeams 321) = []) ∧
    (let s := { sFly with part := tShoot.part }; s.unitBusy 0 0 = true) := by decide +kernel

/-- R333, R338, R341, R342, R345, R441, R442: what a walk keeps; what a reply leaves; an acknowledgement; a unit that gives none. -/
theorem test_translations :
    seen (exec (.pageWalk 640 0 0x2800 0) { base with focus := none }) (fun t => t.cache.tlb.map fun e => (e.unit, e.pa)) = some [(0, 0x2000), (320, 0x2000)] ∧
    seen (exec (.pageWalk 0 0 0x2004 2) base) (fun t => t.cache.tlb.length) = some 1 ∧
    trapSeen (.pageWalk 0 0 0x2004 2) (handled { base with cache := {} }) = some [0x05, 0x2004, 0x2004, 0x4000] ∧
    seen (exec (.atsReply 5 0 0x7123) (tAts false)) (fun t => (t.ext.ats.length, t.ext.atc)) = some (0, [(0, 0, 9, 0x7000)]) ∧
    seen (exec (.atsReply 5 1 0) (tAts false)) (fun t => (t.ext.ats.map (·.pri), t.outbox)) = some ([true], [.pri 0 9]) ∧
    seen (exec (.atsTimeout 5) (atTime 10000000 (tAts false))) (fun t => t.ext.atsBad) = some [(0, 9, 1)] ∧
    seen (exec (.priResponse 5 0) (tAts true)) (fun t => (t.ext.ats.length, t.ext.atsBad.length)) = some (0, 0) ∧
    seen (exec (.shootdownAck 7 0) tShoot) (fun t => (t.cache.tlb.length, t.part.shoots.map (·.acked))) = some (0, [[0]]) ∧
    seen (exec (.shootdownTimeout 7 0) tShoot) (fun t => (t.part.fenced, (t.team 0).kill)) = some ([0], some 0x64) := by decide +kernel
/-! ## Lighthouse, power, the manager -/

/-- SPDM negotiated, with an open session 2 and a session 3 in the making; function 1 as an interface in a state. -/
def lhOn (p : SpdmPhase) : State := { base with lh := { base.lh with spdm := p, sessions := [(2, true), (3, false)], ide := [(4, 1, 2)] } }
def tdisp (i : Iface) : State := base.updFn 1 fun c => { c with made := true, iface := i, lockSess := 2 }

/-- Witnesses of LighthouseMessages: every phase, sessions of both kinds, interfaces in every state, a fused part, functions that are none. -/
theorem wit_LighthouseMessages :
    (∀ p ∈ [SpdmPhase.start, .version, .caps, .algs], (lhOn p).lh.spdm = p) ∧ (2, true) ∈ (lhOn .algs).lh.sessions ∧ (3, false) ∈ (lhOn .algs).lh.sessions ∧
    (2, true) ∉ base.lh.sessions ∧ (∀ i ∈ [Iface.unlocked, .locked, .run, .error], ((tdisp i).fn 1).iface = i ∧ (tdisp i).exists_ 1 = true) ∧ base.exists_ 1 = false ∧
    base.lh.fuseLcs ≠ 5 := by decide

/-- R379, R380: what goes out, and the state left. -/
theorem test_lighthouse_messages :
    seen (exec .getVersion base) (fun t => (t.lh.spdm, t.outbox)) = some (.version, [.spdm 0x04 [0x1300]]) ∧
    seen (exec (.getCapabilities true) (lhOn .version)) (fun t => t.lh.spdm) = some .caps ∧
    seen (exec (.negotiateAlgorithms true) (lhOn .caps)) (fun t => (t.lh.spdm, t.outbox)) = some (.algs, [.spdm 0x63 [0x80, 0x02, 0x10, 0x02]]) ∧
    seen (exec (.negotiateAlgorithms true) (lhOn .start)) (fun t => t.outbox) = some [.spdm 0x7F [4]] ∧
    seen (exec (.getDigests false) (lhOn .algs)) (fun t => t.outbox) = some [.spdm 0x7F [1]] ∧
    seen (exec (.keyExchange true) (lhOn .algs)) (fun t => t.lh.sessions.length) = some 3 ∧
    seen (exec (.getMeasurements 0 false true) base) (fun t => t.outbox) = some [.spdm 0x60 [22]] ∧
    seen (exec (.finish 3 true) (lhOn .algs)) (fun t => t.lh.sessions) = some [(2, true), (3, true)] ∧
    seen (exec (.endSession 2 true) (lhOn .algs)) (fun t => (t.lh.sessions, t.lh.ide)) = some ([(3, false)], []) ∧
    seen (exec (.ideKm 2 5 1) (lhOn .algs)) (fun t => t.lh.ide) = some [(4, 1, 2), (5, 1, 2)] := by decide +kernel

/-- R371, R373, R374: the interface's states. -/
theorem test_interfaces :
    seen (exec (.lockInterfaceRequest 1 2) (tdisp .unlocked)) (fun t => ((t.fn 1).iface, t.outbox)) = some (.locked, [.tdisp 1 0x03 0]) ∧
    seen (exec (.startInterfaceRequest 1) (tdisp .locked)) (fun t => (t.fn 1).iface) = some .run ∧
    seen (exec (.stopInterfaceRequest 1) (tdisp .run)) (fun t => (t.fn 1).reset.map fun r => r.stop) = some (some true) ∧
    seen (exec (.getDeviceInterfaceState 1) (tdisp .error)) (fun t => t.outbox) = some [.tdisp 1 0x05 3] ∧
    seen (exec (.relockRequest 1) (tdisp .run)) (fun t => (t.fn 1).relock) = some true ∧
    seen (exec (.getDeviceInterfaceReport 1) (tdisp .unlocked)) (fun t => t.outbox) = some [.tdisp 1 0x7F 0] := by decide +kernel

/-- Witnesses of PowerAndReset: power above and under the limit, pairs at rest and not, nonces, a part not yet provisioned. -/
theorem wit_PowerAndReset :
    base.ras.limitW < 3201 ∧ 100 * 3000 ≤ 95 * base.ras.limitW ∧ ({ atTime 1000000 base with ras := { base.ras with clockMhz := 700 } } : State).ras.clockMhz < 1400 ∧
    1000000 ≤ (atTime 1000000 base).since (atTime 1000000 base).ras.lastUp ∧ (1 : Nat) ∉ base.part.gated ∧ base.teamsOn 2 = [] ∧ base.teamsOn 3 = [] ∧ base.teamsOn 0 ≠ [] ∧
    (SMap.get {} base.mtx 1 : PairMtx).queue = [] ∧ (∀ n ∈ [59999999999, 60000000000], ((atTime n base).since 0 < 60000000000 ↔ n = 59999999999)) ∧
    ({ base.lh with fuseLcs := 1 } : Lh).fuseLcs = 1 := by decide

/-- R28, R29, R331, R377, R384: the clock, a gated pair, the provisioned fuse, a nonce, the reset. -/
theorem test_power_and_reset :
    seen (exec (.powerClockDown 3201) base) (fun t => t.ras.clockMhz) = some 1300 ∧
    seen (exec (.powerClockUp 3000) { atTime 1000000 base with ras := { base.ras with clockMhz := 700 } }) (fun t => (t.ras.clockMhz, t.ras.lastUp)) = some (800, 1000000) ∧
    seen (exec (.powerGating 1 true) base) (fun t => t.part.gated) = some [1] ∧ seen (exec (.powerGating 0 true) base) (fun t => t.part.gated) = some [] ∧
    seen (exec .manufacturingFlow { base with lh := { base.lh with fuseLcs := 1, lcs := 1 } }) (fun t => (t.lh.fuseLcs, t.lh.lcs)) = some (2, 2) ∧
    seen (exec .nonceExpiry (atTime 60000000000 { base with lh := { base.lh with nonce := some (5, 0) } })) (fun t => t.lh.nonce) = some none ∧
    seen (exec (.packageReset true) (harbourOn base)) (fun t => (t.teams.length, t.rd 0x402004 4, t.lh.harbourRun, t.lh.up)) = some (0, 0, false, 1) := by decide +kernel

/-- A command of the manager, of the migration engine or of Lighthouse, its RESULT at 0x27F8, with function 1 created and its ring table at 0x2800. -/
def mgr (qn : Nat) (d : List Nat) (s : State) : State :=
  let s := dev (atCycle 1 (harbourOn (s.updFn 1 fun c => { c with made := true, ringTab := 0x2800 })))
  withCmd { cmdOf qn ((d ++ List.replicate 7 0).take 7 ++ [0x27F8]) with core := 640, harbour := true } s

/-- Whether the command is due as the statements ask. -/
def dueB (qn code : Nat) (s : State) : Bool := (s.cmdFor 7 qn code).isSome && s.partTurn (s.cmd 7) && s.resultOk (s.cmd 7).img

/-- Whether it is due and done with PST 0 and a DETAIL; with another PST. -/
def doneB (i : Instr) (qn code detail : Nat) (s : State) : Bool :=
  dueB qn code s && decide (seen (exec i s) (fun t => let c := t.cmd 7; (c.st, c.pst, c.detail)) = some (.done, 0, detail))
def noB (i : Instr) (qn code pst : Nat) (s : State) : Bool :=
  dueB qn code s && decide (seen (exec i s) (fun t => let c := t.cmd 7; (c.st, c.pst)) = some (.done, pst))
def waitsB (i : Instr) (qn code : Nat) (s : State) : Bool := dueB qn code s && decide (seen (exec i s) (fun t => ((t.cmd 7).started, (t.cmd 7).st)) = some (true, .queued))

/-- Code 0 of a plan: one tile, pair 1. -/
def plan1 : State := { base with mem := memWrite base.mem 0x402800 8 (2 ^ 24 + 2 ^ 16 + 1) }

/-- Witnesses of UnitCommands: every command due and in order, so that its checks refuse nothing, and one out of order. -/
theorem wit_UnitCommands :
    doneB .pairs 8 0x82 0 (mgr 8 [0x82, 0, 1, 2] base) = true ∧ noB .pairs 8 0x82 6 (mgr 8 [0x82, 0, 5, 2] base) = true ∧ noB .pairs 8 0x82 3 (mgr 8 [0x82, 0, 1, 1] base) = true ∧
    doneB .slicemap 8 0x83 0 (mgr 8 [0x83, 0, 1, 2 ^ 33 + 1, 1, 2] base) = true ∧
    doneB .artw 8 0x84 0 (mgr 8 [0x84, 0, 1, 0x18000, 0x20000, 2 ^ 33 + 1, 1] base) = true ∧ doneB .stitch 8 0x85 0 (mgr 8 [0x85, 0, 0x2800, 0] plan1) = true ∧
    doneB .sluice 8 0x86 0 (mgr 8 [0x86, 0, 1, 5, 6, 7] base) = true ∧ doneB .pool 8 0x87 0 (mgr 8 [0x87, 0, 0x100, 100, 1, 1000 + 100 * 2 ^ 32] base) = true ∧
    waitsB .roots 8 0x88 (mgr 8 [0x88, 0, 0x101, 0x3000] base) = true ∧ waitsB .shoot 8 0x89 (mgr 8 [0x89, 0, 0x10101] base) = true ∧
    doneB .replay 8 0x8A 0 (mgr 8 [0x8A, 0, 1] base) = true ∧ doneB .nbpool 8 0x8B 0 (mgr 8 [0x8B, 0, 0, 0, 65536] base) = true := by decide +kernel

/-- A shoot-down of function 1 by the command, with the units that have answered. -/
def shot (us : List Nat) : State := { base with part := { base.part with shoots := [{ cmd := 7, fn := 1, stage := 1, all := true, acked := us }] } }

/-- Witnesses of UnitCommands: shoot-downs that every unit has answered, and none. -/
theorem wit_UnitCommands_shoots :
    (∀ k ∈ [(0x88, Instr.roots), (0x89, .shoot)], doneB k.2 8 k.1 0 (mgr 8 [k.1, 0, 0x10101] (shot (List.range 322))) = true ∧ waitsB k.2 8 k.1 (mgr 8 [k.1, 0, 0x10101] (shot [])) = true) ∧
    (∀ us ∈ [[], List.range 322], ((shot us).part.shoots.find? fun h => decide (h.cmd = 7)).map (shot us).shootDone = some (us == List.range 322)) := by decide +kernel

/-- A reset of function 1 that is over, its slice keyless or not. -/
def vfr (d : Nat) (ks : List Nat) (lcs : Nat) : State :=
  let s := mgr 8 [0x81, 0, d] base
  { s with eng := { cmds := s.eng.cmds.map fun c => { c with pos := 1, started := true } }, lh := { s.lh with keyless := ks, lcs := lcs } }

/-- Witnesses of UnitCommands: the end of a reset. -/
theorem wit_UnitCommands_reset :
    (∀ e ∈ [(1, [], 2), (1, [1], 1), (1, [1], 2), (0x101, [], 2)], doneB .vfreset 8 0x81 0 (vfr e.1 e.2.1 e.2.2) = true ∧ ((vfr e.1 e.2.1 e.2.2).fn 1).reset = none) ∧
    waitsB .vfreset 8 0x81 ((vfr 1 [] 2).updFn 1 fun c => { c with reset := some {} }) = true := by decide +kernel

/-- Witnesses of UnitCommands: functions made and reset, with the rings that they read. -/
theorem wit_UnitCommands_functions :
    doneB .vfcreate 8 0x80 0 (mgr 8 [0x80, 0, 2 + 16 * 2 ^ 32, 0x2800, 0x1000] base) = true ∧ noB .vfcreate 8 0x80 6 (mgr 8 [0x80, 0, 1 + 16 * 2 ^ 32, 0x2800, 0x1000] base) = true ∧
    waitsB .vfreset 8 0x81 (mgr 8 [0x81, 0, 1] base) = true := by decide +kernel

/-- R351–R354, R316, R356–R361: owners, banks, an entry, ports, buckets, a pool, a root. -/
theorem test_unit_commands :
    seen (exec .pairs (mgr 8 [0x82, 0, 1, 2] base)) (fun t => (t.pairOwner 1, t.pairOwner 0, t.rd 0x4027F8 8)) = some (1, 0, 2 ^ 63) ∧
    seen (exec .slicemap (mgr 8 [0x83, 0, 1, 2 ^ 33 + 1, 1, 2] base)) (fun t => (t.sliceOf 32, t.sliceOf 0, SMap.get 0 t.part.ledgeSlice 513)) = some (1, 0, 1) ∧
    seen (exec .artw (mgr 8 [0x84, 0, 1, 0x18000, 0x20000, 2 ^ 33 + 1, 1] base)) (fun t => (t.artEntry 1).limit) = some 0x20000 ∧
    seen (exec .stitch (mgr 8 [0x85, 0, 0x2800, 0] plan1)) (fun t => SMap.get 0 t.part.ports 1) = some 0xAA ∧
    seen (exec .sluice (mgr 8 [0x86, 0, 1, 5 * 2 ^ 32, 6, 7] base)) (fun t => ((t.fn 1).mbal, (t.fn 1).lrate, (t.fn 1).debtmax)) = some (5000, 6, 7) ∧
    seen (exec .pool (mgr 8 [0x87, 0, 0x100, 100, 1, 1000 + 100 * 2 ^ 32] base)) (fun t => ((t.pool 0).members, (t.fn 1).prebud)) = some ([1], 1000) ∧
    seen (exec .roots (mgr 8 [0x88, 0, 0x101, 0x3000] base)) (fun t => (t.fn 1).s1root) = some (some 0x3000) ∧
    seen (exec .nbpool (mgr 8 [0x8B, 0, 0, 0, 65536] base)) (fun t => SMap.get (0, 0) t.part.nbpool 0) = some (0, 65536) := by decide +kernel

/-- Witnesses of TableCommands: every command due and in order. -/
theorem wit_TableCommands :
    doneB .shelflogSetLog 8 0x8C 0 (mgr 8 [0x8C, 0, 1, 5, 4] base) = true ∧ doneB .shelflogSetQuota 8 0x8C 0 (mgr 8 [0x8C, 0, 0x101, 0, 9] base) = true ∧
    doneB .shelflogTrim 8 0x8C 0 (mgr 8 [0x8C, 0, 0x201, 0] base) = true ∧ doneB .faq 8 0x8D 0 (mgr 8 [0x8D, 0, 0x2800, 1024, 0x2C00] base) = true ∧
    doneB .query 8 0x8E 0 (mgr 8 [0x8E, 0, 0x2800] base) = true ∧ doneB .claim 8 0x8F 0 (mgr 8 [0x8F, 0, 1, 0x5000] base) = true ∧
    doneB .claim 8 0x8F 2 (mgr 8 [0x8F, 0, 1, 0x5000] { base with part := { base.part with claims := [{ fn := 1, base := 0x5000, host := true }] } }) = true ∧
    doneB .claim 8 0x8F 1 (mgr 8 [0x8F, 0, 1, 0x5000] { base with part := { base.part with claims := [{ fn := 1, base := 0x5000 }] } }) = true ∧
    doneB .claimCancel 8 0x8F 0 (mgr 8 [0x8F, 0, 0x101, 0x5000] base) = true ∧ doneB .sramsplit 8 0x90 0 (mgr 8 [0x90, 0, 3, 2] base) = true ∧
    doneB .limits 8 0x91 0 (mgr 8 [0x91, 0, 1600] base) = true ∧ noB .limits 8 0x91 1 (mgr 8 [0x91, 0, 3250] base) = true ∧
    doneB .readPoolRecord 8 0x92 0 (mgr 8 [0x92, 0, 0x2800, 0x701] base) = true ∧ noB .readPoolRecord 8 0x92 1 (mgr 8 [0x92, 0, 0x2800, 0x801] base) = true ∧
    doneB .readEntryImage 8 0x92 0 (mgr 8 [0x92, 0, 0x2800, 2] base) = true ∧ doneB .ringload 8 0x93 0 (mgr 8 [0x93, 0, 0x901] base) = true ∧
    doneB .pfconf 8 0x94 0 (mgr 8 [0x94, 0, 16 * 2 ^ 32, 0x2800] base) = true ∧ doneB .fring 8 0x95 0 (mgr 8 [0x95, 0, 1, 0x2800, 4, 0x2C00] base) = true := by decide +kernel

/-- R28, R65, R329, R370: a log, splits, a limit, an entry's image. -/
theorem test_table_commands :
    seen (exec .shelflogSetLog (mgr 8 [0x8C, 0, 1, 5, 4] base)) (fun t => ((t.fn 1).logBase, (t.fn 1).logLen, (t.fn 1).logHead)) = some (5, 4, 5) ∧
    seen (exec .sramsplit (mgr 8 [0x90, 0, 3, 2] base)) (fun t => (SMap.get 0 t.part.split 2, SMap.get 0 t.part.split 3, SMap.get 0 t.part.split 4)) = some (3, 3, 0) ∧
    seen (exec .limits (mgr 8 [0x91, 0, 1600] base)) (fun t => t.ras.limitW) = some 1600 ∧
    seen (exec .readEntryImage (mgr 8 [0x92, 0, 0x2800, 2] base)) (fun t => (t.rd 0x402800 8, t.rd 0x402808 8)) = some (0x8008, 0x10000) := by decide +kernel

/-- The image that moves entry 0 to channel 1, and the migration under way. -/
def moved : ArtEntry := { fetchArt with d2 := 0x200000001 }
def migrating (h : Mig → Mig) : State := { base with part := { base.part with mig := some (h { entry := 0, image := moved, old := fetchArt }) } }

/-- Witnesses of MigrationAndKeyCommands: every command due and in order, a migration under way, begun and switched; a token out of form, and one without a nonce. -/
theorem wit_MigrationAndKeyCommands :
    doneB .mbegin 9 0xB0 0 (mgr 9 [0xB0, 0, 0, 0x8008, 0x10000, 0x200000001, 1] base) = true ∧ dueB 9 0xB1 (mgr 9 [0xB1] (migrating id)) = true ∧
    waitsB .mdirty 9 0xB2 (mgr 9 [0xB2] (migrating fun g => { g with dirty := [0x402800 / 1024] })) = true ∧ doneB .mswitch 9 0xB3 0 (mgr 9 [0xB3] (migrating fun g => { g with switched := true })) = true ∧
    doneB .mrelease 9 0xB4 0 (mgr 9 [0xB4] (migrating id)) = true ∧ doneB .mabort 9 0xB5 0 (mgr 9 [0xB5] (migrating id)) = true ∧ noB .mabort 9 0xB5 6 (mgr 9 [0xB5] base) = true ∧
    doneB .lhmeas 10 0xA3 0 (mgr 10 [0xA3, 0, 0x2800, 1] base) = true ∧ noB .lhmeas 10 0xA3 1 (mgr 10 [0xA3, 0, 0x2800, 32] base) = true ∧
    doneB .lhbadRead 10 0xA4 0 (mgr 10 [0xA4, 0, 0, 0x2800] base) = true ∧ doneB .lhbadAdd 10 0xA4 0 (mgr 10 [0xA4, 0, 1, 9] base) = true ∧
    doneB .lhbadRemove 10 0xA4 0 (mgr 10 [0xA4, 0, 2, 9] base) = true ∧ dueB 10 0xA0 (mgr 10 [0xA0, 0, 0x2800] base) = true ∧ dueB 10 0xA1 (mgr 10 [0xA1, 0, 0x2800] base) = true ∧
    noB .lhunlock 10 0xA2 1 (mgr 10 [0xA2, 0, 0x2800] base) = true ∧ noB .lhunlock 10 0xA2 8 (mgr 10 [0xA2, 0, 0x2800] { base with mem := memWrite base.mem 0x402800 8 1 }) = true ∧
    noB .lhunlock 10 0xA2 9 (mgr 10 [0xA2, 0, 0x2800] { base with lh := { base.lh with failed := 16 } }) = true := by decide +kernel

/-- A command that has begun, at a position; an unlock of level 1 at a position. -/
def begun (pos : Nat) (s : State) : State := { s with eng := { cmds := s.eng.cmds.map fun c => { c with pos := pos, started := true } } }
def unlocks (pos : Nat) : State := let s := mgr 10 [0xA2, 0, 0x2800] base; begun pos { s with lh := { s.lh with unlocking := some (1, []) } }
/-- A token of level 1 with the nonce 0, which is fresh; the part is in production. -/
def token1 : State :=
  mgr 10 [0xA2, 0, 0x2800] { base with mem := memWrite base.mem 0x402800 8 1, lh := { base.lh with fuseLcs := 2, lcs := 2, nonce := some (0, 0) } }

/-- Witnesses of UnitCommands, TableCommands and MigrationAndKeyCommands: a command whose turn has not come, one whose RESULT cannot be written. -/
theorem wit_commands_that_wait :
    (let s := atCycle 0 (mgr 8 [0x8A, 0, 1] base); (s.cmdFor 7 8 0x8A).isSome = true ∧ s.partTurn (s.cmd 7) = false) ∧
    (let s := mgr 9 [0xB1] base
     let t : State := { s with eng := { cmds := s.eng.cmds.map fun c => { c with img := c.img ||| BitVec.ofNat 512 (2 ^ 448) } } }
     (t.cmdFor 7 9 0xB1).isSome = true ∧ t.partTurn (t.cmd 7) = true ∧ (t.cmd 7).started = false ∧ t.resultOk (t.cmd 7).img = false) := by decide +kernel

/-- Witnesses of MigrationAndKeyCommands: copies under way; an unlock that waits for interfaces, one that goes on, one that ends; a token in form. -/
theorem wit_MigrationAndKeyCommands_steps :
    (let s := begun 1 (mgr 9 [0xB1] (migrating id)); dueB 9 0xB1 s = true ∧ (s.cmd 7).pos < (fetchArt.limit - fetchArt.base) / 1024) ∧
    dueB 9 0xB2 (begun 0 (mgr 9 [0xB2] (migrating fun g => { g with todo := [10] }))) = true ∧
    doneB .mdirty 9 0xB2 0 (begun 0 (mgr 9 [0xB2] (migrating id))) = true ∧
    waitsB .lhunlock 10 0xA2 ((unlocks 1).updFn 1 fun c => { c with iface := .locked }) = true ∧ waitsB .lhunlock 10 0xA2 (unlocks 1) = true ∧
    (∀ f ∈ List.range 16, ((unlocks 1).fn f).reset = none ∧ ((unlocks 1).fn f).isLocked = false) ∧ doneB .lhunlock 10 0xA2 0 (unlocks 2) = true ∧
    dueB 10 0xA2 token1 = true ∧ token1.lh.failed < 16 ∧ (token1.hubReads 0x2800 32).map (fun d => (d.headD 0, d.getD 1 0, d.getD 30 0, d.getD 31 0)) = some (1, 0, 0, 0) ∧
    token1.lh.fuseLcs = 2 ∧ token1.since 0 < 60000000000 ∧ ((token1.hubReads 0x2800 32).map fun d => ((tokenBytes d).drop 0x10).take 0x20) = some (bytesOf 32 0) := by decide +kernel

/-- R457: the lifecycle moves, then debug opens. -/
theorem test_unlock :
    seen (exec .lhunlock (unlocks 1)) (fun t => ((t.cmd 7).pos, t.lh.lcs, t.lh.debugLevel)) = some (2, 3, 0) ∧
    seen (exec .lhunlock (unlocks 2)) (fun t => ((t.cmd 7).st, t.lh.debugLevel, t.lh.unlocking)) = some (.done, 1, none) := by decide +kernel

/-- R331, R375, R457: the entry replaced, a bad page, a refusal counted. -/
theorem test_migration_and_key_commands :
    seen (exec .mswitch (mgr 9 [0xB3] (migrating fun g => { g with dirty := [] }))) (fun t => ((t.artEntry 0).d2, t.part.mig.map (·.switched))) = some (0x200000001, some true) ∧
    seen (exec .mabort (mgr 9 [0xB5] (migrating id))) (fun t => t.part.mig.isNone) = some true ∧
    seen (exec .lhbadAdd (mgr 10 [0xA4, 0, 1, 9] base)) (fun t => t.lh.bad) = some [9] ∧
    seen (exec .lhunlock (mgr 10 [0xA2, 0, 0x2800] base)) (fun t => t.lh.failed) = some 1 := by decide +kernel

/-! ## Steps -/

/-- Reset memory is canonical. -/
theorem wit_canonical : Safe.canonical State.reset := by unfold Safe.canonical; decide

/-- What a step comes to: a next state, the fatal fault. -/
def nexts (s : State) : Bool := match step s with | .next _ => true | _ => false
def stops (s : State) : Bool := match step s with | .fault .fatalPackage => true | _ => false

/-- Witnesses of StepsKeepMemoryCanonical and StepsRunWhatTheyFetch: an instruction word, a header, words that are neither, no translation; nothing to run, and
something; a deed of outside; a fatal error. -/
theorem wit_steps :
    (base.inbox = [] ∧ base.ras.fatal = false ∧ base.focus = some f1 ∧ base.fetchWord (base.team 0).regime 0x2004 = some 0x7E000004 ∧ (Safe.place f1 base).pos ≠ 0) ∧
    (((at1 hdr3).fetchWord ((at1 hdr3).team 0).regime 0x2000).isSome = true ∧ (Safe.place f1 (at1 hdr3)).pos = 0) ∧
    (({ base with cache := {} } : State).fetchWord (base.team 0).regime 0x2004 = none) ∧
    (State.reset.focus = none ∧ State.reset.enabled = [] ∧ State.reset.pickEvent = none) ∧
    (({ tKill true with focus := none } : State).pickEvent.isSome = true) := by decide

/-- R92, R115, R403: after reset the first step runs the word that is placed; a fatal error stops everything but a reset. -/
theorem test_steps :
    nexts (State.reset.withFetchWord 32 0x01041020) = true ∧ stops { base with ras := { base.ras with fatal := true } } = true ∧
    nexts { base with ras := { base.ras with fatal := true }, inbox := [.packageReset true] } = true := by decide +kernel

/-- Words of WordsAndInstructionsAgree: a well-formed instruction with a word, a word that is an instruction's, one that is a header's. -/
theorem wit_words : (Instr.nop false).wellFormed = true ∧ encode (.nop false) = some 0x7E000004 ∧ hdr3.wellFormed = true ∧ (encode hdr3).isSome = true := by decide

end Sys2Proof.Tests
end

/-! # Proofs: sparse maps under a filter of their keys -/

namespace Sys2Proof

/-- A map whose entries are kept by their keys reads as the default at the keys that are not kept. -/
theorem SMap.get_filter {α : Type} (d : α) (m : SMap α) (p : Nat → Bool) (k : Nat) :
    SMap.get d (m.filter fun e => p e.1) k = if p k then SMap.get d m k else d := by
  induction m with
  | nil => simp [SMap.get]
  | cons e t ih =>
    obtain ⟨a, v⟩ := e
    by_cases ha : p a <;> by_cases hk : k = a
    · subst hk; simp [SMap.get, ha]
    · simp [SMap.get, ha, hk, ih]
    · subst hk; simp [ha, ih]
    · simp [SMap.get, ha, hk, ih]

end Sys2Proof

/-! # Proofs: commands that come to their turn (R348–R350, R463)

How a part, mig or lh command ends, once for every command: it is due, the first check that fails refuses it, and otherwise its work decides. -/

namespace Sys2Proof.Machine

open Sys2Proof

/-- A command of a queue and code that the step concerns can start, its turn has come, and RESULT can be written or was tested when it began. -/
def Cmd.PartDue (c : Cmd) (qn code : Nat) (s : State) : Prop :=
  s.cmdFor s.item qn code = some c ∧ s.partTurn c = true ∧ (c.started = true ∨ s.resultOk c.img = true)

/-- The state after a command's work has come out in some way; a RESULT that can be written no more undoes the step (R348, R463). -/
def State.carriedOut (s : State) (c : Cmd) : PartRes → State
  | .done d u => if u.resultOk c.img then u.partEnd c.id 0 d else (if c.started then u else s).partEnd c.id 1 0
  | .fail p d => s.partEnd c.id p d
  | .wait u => u.updCmd c.id fun c => { c with started := true }

section
variable {qn code : Nat} {c : Cmd} {s : State}

theorem part_of_due (w : Cmd → State → PartRes) (h : c.PartDue qn code s) : part qn code w s = .next (s.carriedOut c (w c s)) := by
  obtain ⟨hc, ht, hr⟩ := h
  have hb : (!c.started && !s.resultOk c.img) = false := by rcases hr with h | h <;> simp [h]
  unfold part
  simp only [hc, ht, hb, Bool.not_true, Bool.false_eq_true, if_false]
  cases w c s <;> rfl

theorem find_of_cmdFor {id : Nat} (h : s.cmdFor id qn code = some c) : s.eng.cmds.find? (fun c => c.id = id) = some c := by
  unfold State.cmdFor at h
  split at h
  · rename_i d hd
    split at h
    · rw [hd, ← h]
    · cases h
  · cases h

theorem checked_of_some {l : List (Bool × Nat)} {p : Nat} (k : Unit → PartRes) (h : refusal l = some p) : checked l k = .fail p 0 := by
  unfold checked; rw [h]

theorem checked_of_none {l : List (Bool × Nat)} (k : Unit → PartRes) (h : refusal l = none) : checked l k = k () := by
  unfold checked; rw [h]

/-- A due command whose work is behind checks: the first that fails gives its PST and nothing else has changed; if none fails, what follows the
checks decides. -/
theorem ordered_of_due {i : Instr} {w : Cmd → State → PartRes} {checks l : List (Bool × Nat)} {k : Unit → PartRes} {good : Prop}
    (h : c.PartDue qn code s) (hi : exec i s = part qn code w s) (hw : w c s = checked l k) (hl : refusal checks = refusal l)
    (hk : exec i s = .next (s.carriedOut c (k ())) → good) :
    (∀ p, refusal checks = some p → exec i s = .next (s.partEnd c.id p 0)) ∧ (refusal checks = none → good) := by
  have hx : exec i s = .next (s.carriedOut c (checked l k)) := by rw [hi, part_of_due w h, hw]
  rw [hl]
  refine ⟨fun p hp => ?_, fun hn => hk ?_⟩
  · rw [hx, checked_of_some k hp]; rfl
  · rw [hx, checked_of_none k hn]

/-- A due command whose work is refused outright. -/
theorem refused_of_due {i : Instr} {w : Cmd → State → PartRes} {p : Nat} (h : c.PartDue qn code s) (hi : exec i s = part qn code w s)
    (hw : w c s = .fail p 0) : exec i s = .next (s.partEnd c.id p 0) := by
  rw [hi, part_of_due w h, hw]; rfl

/-! ## Codes that stand for several instructions -/

theorem shelflog_of_due {type : Nat} (h : c.PartDue 8 0x8C s) (ht : bf (cdw c.img 2) 9 8 = type) (h3 : type ≠ 3) :
    shelflog type s = part 8 0x8C (shelflogWork type) s := by
  have hn : bf (cdw c.img 2) 9 8 ≠ 3 := by rw [ht]; exact h3
  unfold shelflog
  simp only [find_of_cmdFor h.1, ht, h3, true_or, if_true, if_false]

theorem shelflog_of_type3 (h : c.PartDue 8 0x8C s) (ht : bf (cdw c.img 2) 9 8 = 3) : shelflog 0 s = part 8 0x8C (fun _ _ => .fail 1 0) s := by
  unfold shelflog
  simp only [find_of_cmdFor h.1, ht, true_and, or_true, if_true]

theorem claimOf_of_due {cancel : Bool} (w : Cmd → State → PartRes) (h : c.PartDue 8 0x8F s) (hb : bit (cdw c.img 2) 8 = cancel) :
    claimOf cancel w s = part 8 0x8F w s := by
  unfold claimOf
  simp only [find_of_cmdFor h.1, hb, if_true]

theorem claimOf_of_other {cancel : Bool} (w : Cmd → State → PartRes) (h : c.PartDue 8 0x8F s) (hb : bit (cdw c.img 2) 8 ≠ cancel) :
    claimOf cancel w s = .next s := by
  unfold claimOf
  simp only [find_of_cmdFor h.1, hb, if_false]

theorem readOf_of_due {kind : Nat} (words : State → Nat → Option (List Nat)) (h : c.PartDue 8 0x92 s) (hk : bf (cdw c.img 3) 1 0 = kind) :
    readOf kind words s = part 8 0x92 (readWork (words s)) s := by
  unfold readOf
  simp only [find_of_cmdFor h.1, hk, if_true]

theorem readPool_of_due (h : c.PartDue 8 0x92 s) (hk : bf (cdw c.img 3) 1 0 = 1) :
    exec .readPoolRecord s = part 8 0x92 (readWork fun k => if k < 8 then some (s.pool k).record else none) s :=
  readOf_of_due (fun s k => if k < 8 then some (s.pool k).record else none) h hk

theorem readEntry_of_due (h : c.PartDue 8 0x92 s) (hk : bf (cdw c.img 3) 1 0 = 2) :
    exec .readEntryImage s = part 8 0x92 (readWork fun k => some (s.artEntry k).dwords) s :=
  readOf_of_due (fun s k => some (s.artEntry k).dwords) h hk

theorem readOf_of_none (words : State → Nat → Option (List Nat)) (h : c.PartDue 8 0x92 s) (hk : bf (cdw c.img 3) 1 0 = 0 ∨ bf (cdw c.img 3) 1 0 = 3) :
    readOf 1 words s = part 8 0x92 (fun _ _ => .fail 1 0) s := by
  unfold readOf
  rcases hk with hk | hk <;> simp [find_of_cmdFor h.1, hk]

theorem readNone_of_due (h : c.PartDue 8 0x92 s) (hk : bf (cdw c.img 3) 1 0 = 0 ∨ bf (cdw c.img 3) 1 0 = 3) :
    exec .readPoolRecord s = part 8 0x92 (fun _ _ => .fail 1 0) s :=
  readOf_of_none (fun s k => if k < 8 then some (s.pool k).record else none) h hk

end

/-! ## The manager's writes leave the functions alone -/

theorem State.noteLine_fns (s : State) (skip : Option (Nat × Nat)) (l : Nat) : (s.noteLine skip l).fns = s.fns := by
  unfold State.noteLine
  dsimp only
  split <;> split <;> rfl

theorem State.perform_fns (s : State) (skip : Option (Nat × Nat)) (k n v : Nat) : (s.perform skip k n v).fns = s.fns := by
  have fold : ∀ (L : List Nat) (u : State), (L.foldl (fun s l => s.noteLine skip l) u).fns = u.fns := by
    intro L
    induction L with
    | nil => exact fun _ => rfl
    | cons l L ih => intro u; rw [List.foldl_cons, ih, State.noteLine_fns]
  unfold State.perform
  split
  · rfl
  · dsimp only
    rw [fold]
    split <;> split <;> rfl

theorem State.hubWrite_fns {s u : State} {va n v : Nat} (h : s.hubWrite va n v = some u) : u.fns = s.fns := by
  obtain ⟨x, -, rfl⟩ := Option.map_eq_some_iff.mp h
  exact State.perform_fns ..

/-- Two states alike in every function but one, and there in all but the rings. -/
def State.SameButRings (f : Nat) (s u : State) : Prop :=
  (∀ k, k ≠ f → u.fn k = s.fn k) ∧ ∀ r, { u.fn f with rings := r } = { s.fn f with rings := r }

theorem State.SameButRings.trans {f : Nat} {s t u : State} (h : s.SameButRings f t) (k : t.SameButRings f u) : s.SameButRings f u :=
  ⟨fun n hn => (k.1 n hn).trans (h.1 n hn), fun r => (k.2 r).trans (h.2 r)⟩

theorem State.sameButRings_of_fns {f : Nat} {s u : State} (h : u.fns = s.fns) : s.SameButRings f u := by
  have hf (k : Nat) : u.fn k = s.fn k := by unfold State.fn; rw [h]
  exact ⟨fun k _ => hf k, fun r => by rw [hf]⟩

theorem State.sameButRings_updRing (s : State) (f n : Nat) (h : Ring → Ring) : s.SameButRings f (s.updFn f fun c => c.updRing n h) :=
  ⟨fun k hk => State.fn_updFn_other s f k _ hk, fun r => by rw [State.fn_updFn]; rfl⟩

theorem foldl_bind_none {α β : Type} (g : β → α → Option α) (l : List β) : l.foldl (fun a e => a.bind (g e)) none = none := by
  induction l with
  | nil => rfl
  | cons e l ih => exact ih

/-- An option carried through a list keeps what each step keeps. -/
theorem foldl_bind_rel {α β : Type} {R : α → α → Prop} (refl : ∀ a, R a a) (trans : ∀ {a b c}, R a b → R b c → R a c) {g : β → α → Option α}
    (step : ∀ e a b, g e a = some b → R a b) (l : List β) (a b : α) (h : l.foldl (fun a e => a.bind (g e)) (some a) = some b) : R a b := by
  induction l generalizing a with
  | nil => cases h; exact refl _
  | cons e l ih =>
    rw [List.foldl_cons, Option.bind_some] at h
    cases hg : g e a with
    | none => rw [hg, foldl_bind_none] at h; cases h
    | some m => rw [hg] at h; exact trans (step e a m hg) (ih m h)

/-- One entry that RINGLOAD, VFCREATE or PFCONF has read, in State.loadRings: its ring, and its index words where the ring has moved (R387). -/
def State.loadRing (f : Nat) (e : Nat × Nat × Nat × Nat) (a : Nat × State) : Option (Nat × State) :=
  let r := (a.2.fn f).ring e.1
  let q := ringOf e.2.1 e.2.2.1 e.2.2.2 r
  let s := a.2.updFn f fun c => c.updRing e.1 fun _ => q.1
  (if q.1.base = r.base ∧ q.1.log2n = r.log2n then some s else s.hubWrite ((s.fn f).ringEntry e.1 + 0x10) 8 0).map fun s =>
    (a.1 + (if q.2 then 1 else 0), s)

theorem State.loadRings_eq (s : State) (f : Nat) (l : List (Nat × Nat × Nat × Nat)) :
    s.loadRings f l = l.foldl (fun a e => a.bind (State.loadRing f e)) (some (0, s)) := rfl

theorem State.loadRing_sameButRings {f : Nat} {e : Nat × Nat × Nat × Nat} {a b : Nat × State} (h : State.loadRing f e a = some b) :
    a.2.SameButRings f b.2 := by
  unfold State.loadRing at h
  obtain ⟨v, hv, rfl⟩ := Option.map_eq_some_iff.mp h
  refine (State.sameButRings_updRing a.2 f e.1 fun _ => (ringOf e.2.1 e.2.2.1 e.2.2.2 ((a.2.fn f).ring e.1)).1).trans (State.sameButRings_of_fns ?_)
  split at hv
  · cases hv; rfl
  · exact State.hubWrite_fns hv

theorem State.loadRings_sameButRings {s u : State} {f n : Nat} {l : List (Nat × Nat × Nat × Nat)} (h : s.loadRings f l = some (n, u)) :
    s.SameButRings f u := by
  rw [State.loadRings_eq] at h
  exact foldl_bind_rel (R := fun (a b : Nat × State) => a.2.SameButRings f b.2) (fun _ => State.sameButRings_of_fns rfl)
    State.SameButRings.trans (fun _ _ _ => State.loadRing_sameButRings) l (0, s) (n, u) h

end Sys2Proof.Machine

/-! # Proofs: commands of the manager on tables and claims (R28, R65, R321, R329, R330, R344, R351, R370, R387, R461–R463) -/

namespace Sys2Proof.Machine

open Sys2Proof

/-! ## What the works leave -/

/-- What VFCREATE and PFCONF set in a function's context, but for its rings (R352, R461). -/
def Fn.configured (c : Fn) (f : Nat) (m : BitVec 512) : Fn :=
  { c with made := true, bandLo := bf (cdw m 2) 12 8, bandHi := bf (cdw m 2) 20 16, iqDepth := bf (cdw m 2) 42 32, ringTab := cdw m 3
           s2root := if f = 0 ∧ cdw m 4 = 0 then c.s2root else some (cdw m 4), frames := cdw m 5, nframes := cdw m 6 }

theorem State.setFunction_sameButRings {s u : State} {f n : Nat} {m : BitVec 512} {l : List (Nat × Nat × Nat × Nat)}
    (h : s.setFunction f m l = some (n, u)) : (s.updFn f fun c => c.configured f m).SameButRings f u := by
  obtain ⟨⟨b, v⟩, hv, he⟩ := Option.map_eq_some_iff.mp h
  cases he
  exact (State.loadRings_sameButRings hv).trans (State.sameButRings_of_fns rfl)

/-- The scratchpad splits after SRAMSPLIT: that of both cores of each pair named (R65). -/
theorem split_get (v core : Nat) (ps : List Nat) (t : SMap Nat) :
    SMap.get 0 (ps.foldl (fun t p => SMap.set 0 (SMap.set 0 t (2 * p) v) (2 * p + 1) v) t) core =
      if core / 2 ∈ ps then v else SMap.get 0 t core := by
  induction ps generalizing t with
  | nil => simp
  | cons p ps ih =>
    have hp : core / 2 = p ↔ core = 2 * p ∨ core = 2 * p + 1 := by omega
    rw [List.foldl_cons, ih, SMap.get_set, SMap.get_set]
    simp only [List.mem_cons, hp]
    by_cases hm : core / 2 ∈ ps
    · simp only [hm, or_true, if_true]
    · simp only [hm, or_false, if_false]
      by_cases h1 : core = 2 * p + 1
      · rw [if_pos h1, if_pos (.inr h1)]
      · simp only [h1, or_false, if_false]

/-- What the shelf holds after a log is trimmed (R329). -/
theorem shelf_get (lo hi : Nat) (t : SMap (Option (Nat × Nat))) (p : Nat) :
    SMap.get none (t.filter fun e => !(decide (lo ≤ e.1) && decide (e.1 < hi))) p = if lo ≤ p ∧ p < hi then none else SMap.get none t p := by
  rw [SMap.get_filter none t (fun p => !(decide (lo ≤ p) && decide (p < hi)))]
  by_cases h : lo ≤ p ∧ p < hi <;> simp [h]

theorem decide_over_shelfPages (x : Nat) : decide (805306368 < x) = !decide (x ≤ shelfPages) := by
  rw [← decide_not]; exact decide_eq_decide.mpr Nat.not_le.symm

theorem bne_eq_decide_ne (a b : Nat) : (a != b) = decide (a ≠ b) := by
  rw [decide_not]; rfl

/-- The work of CLAIM over the claims that are still open (R344). -/
theorem claimWork_eq (c : Cmd) (s : State) :
    let f := bf (cdw c.img 2) 3 0
    let p := s.leafPage f (cdw c.img 3)
    let held := s.part.claims.filter s.claimOpen
    let mine := held.find? fun e => e.on f p.1 p.2.1
    claimWork c s = checked [(!okBits c.img 0 [0x10F, m48], 1), (!s.exists_ f, 6), (mine.isNone && decide (4096 ≤ held.length), 3)] fun _ =>
      match mine with
      | none => .done 0 { s with part := { s.part with claims := held ++ [{ fn := f, base := p.1, size := p.2.1, e := p.2.2, host := true }] } }
      | some d => if d.host then .done 2 s.sweepClaims else .done 1 ((s.sweepClaims.stayPut f p.1 p.2.1 p.2.2).retryPage f 2 p.1 p.2.1) := rfl

/-- Settles O52: each command is due, its checks stand in the model's order, and its work gives what the statement says. -/
theorem tableCommands : Obligations.TableCommands := by
  intro c s m f due done no order
  refine ⟨fun h => ?shelflog, fun h => ?faq, fun h => ?query, fun h => ?claim, fun h => ?sramsplit, fun h => ?limits, fun h => ?read, fun h => ?ringload,
    fun h => ?pfconf, fun h => ?fring⟩
  case shelflog =>
    intro a n g
    refine ⟨fun h3 => refused_of_due h (shelflog_of_type3 h h3) rfl,
      fun h0 => ordered_of_due h (shelflog_of_due h h0 (by decide)) (by dsimp only [shelflogWork]) ?_ id,
      fun h1 => ordered_of_due h (shelflog_of_due h h1 (by decide)) (by dsimp only [shelflogWork]) ?_ id,
      fun h2 => ordered_of_due h (shelflog_of_due h h2 (by decide)) (by dsimp only [shelflogWork]) ?_ fun hx => ?_⟩
    · rw [decide_over_shelfPages]; rfl
    · rfl
    · simp [refusal, g, a, f, m]
    · exact ⟨_, hx, rfl, SMap.get_ins_same .., fun k hk => SMap.get_ins_other _ _ _ _ _ hk, shelf_get _ _ _⟩
  case faq =>
    refine ordered_of_due h rfl (by dsimp only [faqWork]) ?_ fun hx => ⟨fun hn => ?_, fun u hu => ?_⟩
    · simp [bne_eq_decide_ne, m]
    · rw [hn] at hx; exact hx
    · rw [hu] at hx; exact hx
  case query =>
    intro a total counts
    refine ordered_of_due h rfl (by dsimp only [queryWork]) ?_ fun hx => ⟨fun hn => ?_, fun u hu => ?_⟩
    · simp [bne_eq_decide_ne, a, m]
    · rw [show s.hubWrites a ((List.range 32).map fun i => s.missSum (2 * i) + 2 ^ 32 * s.missSum (2 * i + 1)) = none from hn] at hx; exact hx
    · rw [show s.hubWrites a ((List.range 32).map fun i => s.missSum (2 * i) + 2 ^ 32 * s.missSum (2 * i + 1)) = some u from hu] at hx; exact hx
  case claim =>
    intro base size leaf held mine
    refine ⟨fun hb => ⟨claimOf_of_other _ h (by rw [hb]; decide),
        ordered_of_due h (claimOf_of_due _ h hb) (claimWork_eq c s) rfl fun hx => ⟨fun hn => ?_, fun e he hh => ?_, fun e he hh => ?_⟩⟩,
      fun hb => ⟨claimOf_of_other _ h (by rw [hb]; decide), ordered_of_due h (claimOf_of_due _ h hb) (by dsimp only [claimCancelWork]) rfl id⟩⟩
    · rw [show (s.part.claims.filter s.claimOpen).find? (fun e => e.on f base size) = none from hn] at hx; exact hx
    · rw [show (s.part.claims.filter s.claimOpen).find? (fun e => e.on f base size) = some e from he] at hx
      dsimp only at hx
      rw [if_pos hh] at hx; exact hx
    · rw [show (s.part.claims.filter s.claimOpen).find? (fun e => e.on f base size) = some e from he] at hx
      dsimp only at hx
      rw [hh] at hx
      exact ⟨_, hx, rfl, List.mem_append_right _ (List.mem_singleton.mpr rfl), fun d => by
        rw [← Bool.not_eq_true']; exact List.mem_filter⟩
  case sramsplit =>
    refine ordered_of_due h rfl (by dsimp only [sramsplitWork]) rfl fun hx => ?_
    exact ⟨_, hx, rfl, rfl, fun core => split_get _ core _ _⟩
  case limits =>
    refine ordered_of_due h rfl (by dsimp only [limitsWork]) ?_ id
    simp [bne_eq_decide_ne, m]
  case read =>
    intro kind k pool record image fits
    have hfits : refusal fits = refusal [(!okBits m 0 [m48, 0xF03] || cdw m 2 % 32 != 0, 1)] := by simp [bne_eq_decide_ne, fits]
    refine ⟨fun hk => refused_of_due h (readNone_of_due h hk) rfl,
      fun hk => ordered_of_due h (readPool_of_due h hk) (by dsimp only [readWork]) hfits fun hx => ⟨fun hn => ?_, fun u h8 hu => ?_⟩,
      fun hk => ordered_of_due h (readEntry_of_due h hk) (by dsimp only [readWork]) hfits fun hx => ⟨fun hn => ?_, fun u hu => ?_⟩⟩
    · by_cases h8 : k < 8
      · have hw := hn.resolve_left (Nat.not_le.mpr h8)
        rw [if_pos h8, Option.bind_some, show s.hubWrites (cdw c.img 2) (s.pool k).record = none from hw] at hx; exact hx
      · rw [if_neg h8] at hx; exact hx
    · rw [if_pos h8, Option.bind_some, show s.hubWrites (cdw c.img 2) (s.pool k).record = some u from hu] at hx; exact hx
    · rw [Option.bind_some, show s.hubWrites (cdw c.img 2) (s.artEntry k).dwords = none from hn] at hx; exact hx
    · rw [Option.bind_some, show s.hubWrites (cdw c.img 2) (s.artEntry k).dwords = some u from hu] at hx; exact hx
  case ringload =>
    intro which
    refine ordered_of_due h rfl (by dsimp only [ringloadWork]) rfl fun hx => ⟨fun hn => ?_, fun l hl => ⟨fun hn => ?_, fun n u hu => ?_⟩⟩
    · rw [hn] at hx; exact hx
    · rw [hl, Option.bind_some, hn] at hx; exact hx
    · rw [hl, Option.bind_some, hu] at hx; exact hx
  case pfconf =>
    refine ordered_of_due h rfl (by dsimp only [pfconfWork]) rfl fun hx => ⟨fun hn => ?_, fun l hl => ⟨fun hn => ?_, fun n u hu => ⟨?_, ?_, ?_⟩⟩⟩
    · rw [hn] at hx; exact hx
    · rw [hl, Option.bind_some, hn] at hx; exact hx
    · rw [hl, Option.bind_some, hu] at hx; exact hx
    · exact fun k hk => ((State.setFunction_sameButRings hu).1 k hk).trans (State.fn_updFn_other s 0 k _ hk)
    · have hf := (State.setFunction_sameButRings hu).2 (s.fn 0).rings
      rw [hf, State.fn_updFn]
      simp [Fn.configured, m]
  case fring =>
    intro n
    refine ordered_of_due h rfl (by dsimp only [fringWork]) ?_ fun hx => ⟨fun hn => ?_, fun u hu => ?_⟩
    · simp [bne_eq_decide_ne, n, m, f]
    · rw [hn] at hx; exact hx
    · rw [hu] at hx; exact hx

end Sys2Proof.Machine

/-! # Proofs: power, reset and the part's life (R26–R29, R331, R375, R377, R384) -/

namespace Sys2Proof.Machine

open Sys2Proof

/-! ## Measurements (R380) -/

theorem Lh.extend_meas (l : Lh) (i j : Nat) (ev : List Byte) :
    SMap.get 0 (l.extend i ev).meas j = if j = i then Config.sha384 (bytesOf 48 (SMap.get 0 l.meas i).toNat ++ ev) else SMap.get 0 l.meas j :=
  SMap.get_set 0 l.meas i j _

/-- The indices of a step of the start-up are measured in order, as in State.bootOn (R26, R380). -/
def Lh.measureAll (l : Lh) (is : List Nat) : Lh := is.foldl (fun l i => l.extend i (Config.measured i)) l

/-- Each index that is named once is extended once, from what it held before. -/
theorem Lh.measureAll_meas (l : Lh) (is : List Nat) (h : is.Nodup) (j : Nat) :
    SMap.get 0 (l.measureAll is).meas j =
      if j ∈ is then Config.sha384 (bytesOf 48 (SMap.get 0 l.meas j).toNat ++ Config.measured j) else SMap.get 0 l.meas j := by
  induction is generalizing l with
  | nil => rfl
  | cons i is ih =>
    obtain ⟨hi, his⟩ := List.nodup_cons.mp h
    show SMap.get 0 ((l.extend i (Config.measured i)).measureAll is).meas j = _
    rw [ih _ his, Lh.extend_meas]
    by_cases hj : j = i
    · subst hj; rw [if_neg hi, if_pos rfl, if_pos List.mem_cons_self]
    · simp only [hj, if_false, List.mem_cons, false_or]

/-! ## Key stores (R326, R354) -/

/-- A slice's keys stand in the store of each stack named and in its buddy's. -/
theorem Lh.provision_keys (l : Lh) (f n k : Nat) (ks : List Nat) (a : Nat) (hk : k ∈ ks) (ha : a = keyAt k k f ∨ a = keyAt (buddy k) k f) :
    SMap.get 0 (l.provision f n ks).keys a = n := by
  have kept : ∀ (ks : List Nat) (m : SMap Nat), SMap.get 0 m a = n →
      SMap.get 0 (ks.foldl (fun m k => SMap.set 0 (SMap.set 0 m (keyAt k k f) n) (keyAt (buddy k) k f) n) m) a = n := by
    intro ks
    induction ks with
    | nil => exact fun _ h => h
    | cons j ks ih =>
      intro m h
      refine ih _ ?_
      rw [SMap.get_set, SMap.get_set, h]; simp
  unfold Lh.provision
  generalize l.keys = m
  induction ks generalizing m with
  | nil => cases hk
  | cons j ks ih =>
    rcases List.mem_cons.mp hk with rfl | hk
    · refine kept ks _ ?_
      rw [SMap.get_set, SMap.get_set]
      rcases ha with ha | ha <;> simp [ha]
    · exact ih hk _

/-- Slice 0 has its keys in every stack and its buddy: step 3 of the start-up, once its indices are measured (R26, R326). -/
def Lh.keyed (l : Lh) (n : Nat) : Lh := { l.provision 0 n (List.range 16) with nextKey := n + 1, up := 3 }

theorem Lh.keyed_meas (l : Lh) (n : Nat) : (l.keyed n).meas = l.meas := rfl

theorem Lh.keyed_keys (l : Lh) (n k a : Nat) (hk : k < 16) (ha : a = keyAt k k 0 ∨ a = keyAt (buddy k) k 0) : SMap.get 0 (l.keyed n).keys a = n :=
  Lh.provision_keys l 0 n k (List.range 16) a (List.mem_range.mpr hk) ha

/-! ## The firmware's teams (R26) -/

theorem State.placeTeam_team (s : State) (id core depth weight : Nat) (tm : Team) :
    ((s.placeTeam id core depth weight tm).team id).core = core ∧ ((s.placeTeam id core depth weight tm).team id).harbour = tm.harbour ∧
    ((s.placeTeam id core depth weight tm).team id).st = .resident ∧ ((s.placeTeam id core depth weight tm).team id).origin = tm.origin := by
  have h : ∃ u, (s.placeTeam id core depth weight tm).team id = u ∧ u.core = core ∧ u.harbour = tm.harbour ∧ u.st = .resident ∧ u.origin = tm.origin := by
    refine ⟨_, SMap.get_ins_same _ _ _ _, ?_⟩
    dsimp only
    split <;> exact ⟨rfl, rfl, rfl, rfl⟩
  obtain ⟨u, hu, h⟩ := h
  rw [hu]; exact h

theorem State.placeTeam_other (s : State) (id core depth weight n : Nat) (tm : Team) (h : n ≠ id) :
    (s.placeTeam id core depth weight tm).team n = s.team n := SMap.get_ins_other _ _ _ _ _ h

theorem State.startFirmware_lh (s : State) : s.startFirmware.lh = s.lh := rfl

/-- A team of the firmware stands on each harbour core; the second is placed under another number than the first. -/
theorem State.startFirmware_teams (s : State) (core : Nat) (h : core = 640 ∨ core = 641) :
    ∃ t, (s.startFirmware.team t).core = core ∧ (s.startFirmware.team t).harbour = true ∧ (s.startFirmware.team t).st = .resident ∧
      (s.startFirmware.team t).origin = .firmware := by
  rcases h with rfl | rfl
  · refine ⟨s.clk.ids, ?_⟩
    unfold State.startFirmware
    simp only [List.foldl_cons, List.foldl_nil]
    rw [State.placeTeam_other]
    · exact State.placeTeam_team ..
    · exact Nat.ne_of_lt (Nat.lt_succ_self _)
  · exact ⟨s.clk.ids + 1, State.placeTeam_team ..⟩

/-! ## The steps of the start-up (R26) -/

theorem State.bootOn_verified {s : State} (h1 : s.lh.up = 1) (h5 : s.lh.fuseLcs ≠ 5) (hi : s.lh.imageOk = true) :
    s.bootOn = ({ s with lh := { s.lh.measureAll [2] with up := 2, harbourRun := true, spdmOnly := false } } : State).startFirmware := by
  unfold State.bootOn
  rw [if_pos ⟨h1, h5⟩]
  exact if_pos hi

theorem State.bootOn_unsound {s : State} (h1 : s.lh.up = 1) (h5 : s.lh.fuseLcs ≠ 5) (hi : s.lh.imageOk = false) :
    s.bootOn = { s with lh := { s.lh.measureAll [2] with up := 0 } } := by
  unfold State.bootOn
  rw [if_pos ⟨h1, h5⟩]
  exact if_neg (Bool.eq_false_iff.mp hi)

theorem State.bootOn_two {s : State} (h : s.lh.up = 2) :
    s.bootOn = { s with lh := (s.lh.measureAll ((List.range 16).map (· + 4))).keyed s.lh.nextKey } := by
  unfold State.bootOn
  rw [if_neg (by rw [h]; rintro ⟨h, -⟩; cases h), if_pos h]
  rfl

theorem nodup_4_to_19 : ((List.range 16).map (· + 4)).Nodup := by decide

theorem State.bootOn_three {s : State} (h : s.lh.up = 3) : s.bootOn = { s with lh := { s.lh.measureAll [3, 31] with up := 4 } } := by
  unfold State.bootOn
  rw [if_neg (by omega), if_neg (by omega), if_pos h]
  rfl

theorem State.bootOn_four {s : State} (h : s.lh.up = 4) : s.bootOn = { s with lh := { s.lh with up := 5 } } := by
  unfold State.bootOn
  rw [if_neg (by omega), if_neg (by omega), if_neg (by omega), if_pos h]

/-- Before the start-up, in a part fused dead after its first step, and once the last is done, nothing goes on. -/
theorem State.bootOn_stands {s : State} (h : s.lh.up = 1 ∧ s.lh.fuseLcs = 5 ∨ s.lh.up = 0 ∨ 5 ≤ s.lh.up) : s.bootOn = s := by
  unfold State.bootOn
  rw [if_neg (by omega), if_neg (by omega), if_neg (by omega), if_neg (by omega)]

/-! ## Package reset (R26, R378) -/

/-- What Lighthouse holds after reset, with its measurements. -/
theorem Lh.boot_meas (l : Lh) (ok : Bool) (i : Nat) :
    SMap.get 0 (l.boot ok).meas i =
      if i = 1 then Config.sha384 (bytesOf 48 0 ++ Config.measured 1)
      else if i = 29 then Config.sha384 (bytesOf 48 0 ++ (bytesOf 1 l.fuseLcs ++ bytesOf 48 Config.dbgKeyHash.toNat)) else 0 := by
  have empty (j : Nat) : (SMap.get (0 : BitVec 384) [] j).toNat = 0 := BitVec.toNat_zero
  unfold Lh.boot
  simp only [Lh.extend_meas, empty]
  by_cases h1 : i = 1
  · subst h1; rfl
  · simp only [h1, if_false]
    by_cases h29 : i = 29
    · subst h29; rw [if_pos rfl, if_pos rfl, if_neg h1, empty]
    · simp only [h29, if_false]; rfl

/-- Memory after reset: what lies outside the package, and the shelf's pages, as before; every other byte 0. -/
theorem State.packageReset_byte (s : State) (ok : Bool) (k : Nat) :
    memRead (s.packageReset ok).mem k 1 = if 2 ^ 60 ≤ k then memRead s.mem k 1 else 0 := by
  have h : SMap.get (0 : Byte) (s.packageReset ok).mem k = if outlasts k = true then SMap.get 0 s.mem k else 0 := SMap.get_filter 0 s.mem outlasts k
  unfold memRead
  rw [h]
  unfold outlasts memRead
  by_cases hk : 2 ^ 60 ≤ k
  · rw [decide_eq_true hk, if_pos rfl, if_pos hk]
  · rw [decide_eq_false hk, if_neg (by decide), if_neg hk]; rfl

/-! ## Gated pairs and nonces (R29, R375) -/

/-- A pair is at rest when no team is on its cores and its matrix unit has nothing queued. -/
theorem State.pairRests_iff (s : State) {p : Nat} :
    s.pairRests p = true ↔ s.teamsOn (2 * p) = [] ∧ s.teamsOn (2 * p + 1) = [] ∧ (SMap.get {} s.mtx p : PairMtx).queue = [] := by
  simp [State.pairRests, State.pairIdle, and_assoc]

theorem exec_nonceExpiry {s : State} {n : BitVec 256} {t : Word} (h : s.lh.nonce = some (n, t)) :
    exec .nonceExpiry s = .next (if 60000000000 ≤ s.since t then { s with lh := { s.lh with nonce := none } } else s) := by
  show execNonceExpiry s = _
  unfold execNonceExpiry
  rw [h]

/-- Settles O50: the reset state field by field, the start-up by the step that is due, and each deed of power and of the part's life by its guard. -/
theorem powerAndReset : Obligations.PowerAndReset := by
  intro imageOk avg die temp pair s goes clock down
  refine ⟨?reset, ?boot, ?rest⟩
  case reset =>
    refine ⟨s.packageReset imageOk, rfl, rfl, rfl, rfl, rfl, rfl, rfl, rfl, rfl, rfl, rfl, rfl, rfl, rfl, ?_, rfl, rfl, rfl, rfl,
      fun k hk => ?_, fun k hk => ?_, rfl, rfl, ?_, ?_, fun i h1 h29 => ?_⟩
    · exact bne_iff_ne
    · rw [State.packageReset_byte, if_neg (Nat.not_le.mpr hk)]
    · rw [State.packageReset_byte, if_pos hk]
    · exact Lh.boot_meas s.lh imageOk 1
    · exact Lh.boot_meas s.lh imageOk 29
    · exact (Lh.boot_meas s.lh imageOk i).trans (by rw [if_neg h1, if_neg h29])
  case boot =>
    refine ⟨fun h1 h5 => State.bootOn_stands (.inl ⟨h1, h5⟩), fun h1 h5 => ⟨fun i => ?_, fun hi => ?_, fun hi => ?_⟩, fun h2 => ⟨fun i => ?_, ?_, fun k hk => ?_⟩,
      fun h3 => ⟨fun i => ?_, ?_⟩, fun h4 => ?_, fun h => State.bootOn_stands (.inr h)⟩
    · cases hi : s.lh.imageOk with
      | true => rw [State.bootOn_verified h1 h5 hi, State.startFirmware_lh]; exact Lh.measureAll_meas s.lh [2] (by decide) i
      | false => rw [State.bootOn_unsound h1 h5 hi]; exact Lh.measureAll_meas s.lh [2] (by decide) i
    · rw [State.bootOn_verified h1 h5 hi]
      exact ⟨rfl, rfl, rfl, fun core hc => State.startFirmware_teams _ core hc⟩
    · rw [State.bootOn_unsound h1 h5 hi]
      exact ⟨rfl, rfl, rfl, rfl⟩
    · rw [State.bootOn_two h2, Lh.keyed_meas]
      exact Lh.measureAll_meas s.lh ((List.range 16).map (· + 4)) nodup_4_to_19 i
    · rw [State.bootOn_two h2]
      rfl
    · rw [State.bootOn_two h2]
      exact ⟨Lh.keyed_keys _ _ k _ hk (.inl rfl), Lh.keyed_keys _ _ k _ hk (.inr rfl)⟩
    · rw [State.bootOn_three h3]
      exact Lh.measureAll_meas s.lh _ (by decide) i
    · rw [State.bootOn_three h3]
    · rw [State.bootOn_four h4]
  case rest =>
    refine ⟨fun h => ?_, fun h => ?_, fun h1 h2 h3 => ?_, fun h => ?_, fun h => ?_, ?_, fun hp => ⟨?_, fun hg h0 h1 hq => ?_, fun h => ?_⟩,
      fun h => ?_, fun h => ?_, fun n t hn => ⟨fun h => ?_, fun h => ?_⟩, fun h => ?_⟩
    · exact congrArg Host.Outcome.next (if_pos h)
    · exact congrArg Host.Outcome.next (if_neg (Nat.not_lt.mpr h))
    · exact congrArg Host.Outcome.next (if_pos ⟨h1, h2, h3⟩)
    · exact congrArg Host.Outcome.next (if_neg (by omega))
    · exact congrArg Host.Outcome.next (if_pos (.inr h))
    · by_cases h : Config.junctionNear die ≤ temp ∨ junctionLimit die ≤ temp
      · exact .inl (congrArg Host.Outcome.next (if_pos h))
      · exact .inr (congrArg Host.Outcome.next (if_neg h))
    · exact congrArg Host.Outcome.next ((if_neg (Nat.not_le.mpr hp)).trans (if_pos rfl))
    · have hr : (s.part.gated.contains pair || !s.pairRests pair) = false := by
        simp [s.pairRests_iff.mpr ⟨h0, h1, hq⟩, hg]
      exact congrArg Host.Outcome.next ((if_neg (Nat.not_le.mpr hp)).trans ((if_neg Bool.false_ne_true).trans (if_neg (Bool.eq_false_iff.mp hr))))
    · have hr : ¬ s.pairRests pair = true := fun hr => by
        obtain ⟨h0, h1, hq⟩ := s.pairRests_iff.mp hr
        rcases h with h | h | h <;> contradiction
      exact congrArg Host.Outcome.next ((if_neg (Nat.not_le.mpr hp)).trans ((if_neg Bool.false_ne_true).trans (if_pos (by simp [hr]))))
    · exact congrArg Host.Outcome.next (if_pos h)
    · exact congrArg Host.Outcome.next (if_neg h)
    · exact (exec_nonceExpiry hn).trans (congrArg Host.Outcome.next (if_pos h))
    · exact (exec_nonceExpiry hn).trans (congrArg Host.Outcome.next (if_neg (Nat.not_le.mpr h)))
    · show execNonceExpiry s = .next s
      unfold execNonceExpiry
      rw [h]

end Sys2Proof.Machine
